-- ==== Sys2Proof/Word.lean ====
section
/-!
DEFINITION. Word types and the closed enumerations that commands, descriptors and registers share: the word
abbreviations, the format codes of Table 2-1 and the small operand alphabets of the bundle tables.
-/

namespace Sys2Proof

/-- A register of the window (R10), a tile-register element (R259), an L32 or F32 code. -/
abbrev Word := BitVec 32

/-- A byte of a memory image (R15). -/
abbrev Byte := BitVec 8

/-- A W40 code: sign [39], exponent field [38:29], mantissa [28:0] (Table 2-2). -/
abbrev W40 := BitVec 40

/-- The 56 data bits of a state entry: W40 in [39:0], C16 in [55:40] (R149). -/
abbrev Entry := BitVec 56

/-- A 1,024-bit buffer row (R57). -/
abbrev Row := BitVec 1024

/-- The thirteen formats (R40, Table 2-1). -/
inductive Fmt
  | f4 | f6 | f8e4 | f8e5 | f16b | f16h | f32 | w40 | l32 | i8 | i16 | i32 | e8
  deriving DecidableEq, Repr

end Sys2Proof
end

