-- ==== Sys2Proof/Operand.lean ====
section
/-!
DEFINITION. The operand alphabets of the command set: the enumerated fields of the bundle tables (chapter 09), command
packets (chapter 13), the data that arrive from outside the block with an event, and the registers' own selections.
-/

namespace Sys2Proof

/-- The four primitives (Table 6-1). -/
inductive Prim
  | rcp | rsqrt | exp2 | log2
  deriving DecidableEq, Repr

/-- The activations (Table 6-6). -/
inductive Act
  | identity | relu | silu | geluTanh | softplus | sigmoid | exp | decayMap
  deriving DecidableEq, Repr

/-- The types a comparison or a minimum orders by (R270, R273). -/
inductive ETy
  | i32 | f32 | l32
  deriving DecidableEq, Repr

/-- Width of an integer operation (R266). -/
inductive IWid
  | w8 | w16 | w32
  deriving DecidableEq, Repr

/-- Comparison conditions (Table 7-1). -/
inductive Cond
  | eq | ne | lt | le | gt | ge
  deriving DecidableEq, Repr

/-- The operations of RED and PFX. -/
inductive ROp
  | sum | min | max | lcomp
  deriving DecidableEq, Repr

/-- The conversion descriptor (R66, Table 2-9) with its reserved bit 0. -/
structure Cvt where
  target : Fmt
  stoch : Bool := false
  ovf : Bool := false
  scale : Bool := false
  deriving DecidableEq, Repr

/-- Weight formats of TLOAD (Table 9-6). -/
inductive WFmt
  | f4x2 | f4 | f6 | f8e4 | f8e5 | f16b | f16h | f32 | cf8e4 | cf8e5
  deriving DecidableEq, Repr

/-- Activation formats of TMUL (Table 9-7). -/
inductive AFmt
  | f4 | f6 | f8e4 | f8e5 | f16b | f16h | f32
  deriving DecidableEq, Repr

/-- The three buffers of a fen (Table 10-1). -/
inductive BufId
  | w | a | p
  deriving DecidableEq, Repr

/-- What a leaf returns to a pushing array (Table 5-4). -/
inductive RetKind
  | none | excl | incl | both
  deriving DecidableEq, Repr

/-- VBCAST sources (Table 9-10). -/
inductive BcKind
  | element | row | column | vector
  deriving DecidableEq, Repr

/-- Extents of RED and PFX (Table 9-10). -/
inductive Extent
  | rows | columns | tile
  deriving DecidableEq, Repr

/-- CVT source types (Table 9-10). -/
inductive CvtSrc
  | f32 | i32 | l32
  deriving DecidableEq, Repr

/-- SUMMARY operations (Table 9-10) and decision combinations (Table 7-2). -/
inductive SumOp
  | min | max | sum | or
  deriving DecidableEq, Repr

/-- NRM sources (R356). -/
inductive NrmSrc
  | reg | w40 | scaled
  deriving DecidableEq, Repr

/-- The fields of a vector-slot operation that every operation has (Table 9-9). -/
structure VHead where
  vd : Fin 32
  va : Fin 32
  vb : Fin 32
  pred : Fin 8
  deriving DecidableEq, Repr

/-- Destination of TREAD and TSTEP (Table 9-8): P-buffer rows, or a tile register. -/
inductive ODst
  | rows (pslot : Fin 128) (d0 : Fin 4)
  | reg (vreg : Fin 32) (n0 : Fin 8)
  deriving DecidableEq, Repr

/-- The fields that every state operation has (Table 9-8). -/
structure StHead where
  amask : BitVec 4
  mp : Fin 8
  depth : Fin 128
  vbase : Fin 32
  m0 : Fin 8
  comp : Bool
  deriving DecidableEq, Repr

/-- TMUL (Table 9-7). -/
structure TMulOp where
  amask : BitVec 4
  axis : Bool
  acc : Bool
  swap : Bool
  qm : Bool
  pass : Fin 16
  afmt : AFmt
  asc : Bool
  mp : Fin 8
  aslot : Fin 256
  v0 : Fin 256
  pslot : Fin 128
  d0 : Fin 4
  deriving DecidableEq, Repr

/-- TLOAD (Table 9-5). -/
structure TLoadOp where
  amask : BitVec 4
  wfmt : WFmt
  wslot : Fin 512
  wrow : Fin 32
  srow : Fin 32
  sc : Bool
  deriving DecidableEq, Repr

/-- A command packet of a ring without its opcode (Table 13-1): parameter byte k is bits [8k + 7 : 8k] of `params`. -/
structure Packet where
  flags : BitVec 8
  tag : BitVec 16
  length : BitVec 16
  target : BitVec 16
  epoch : BitVec 32
  qseq : BitVec 32
  params : BitVec 384
  deriving DecidableEq, Repr

/-- A failed check of an array (R129): KIND 1 lane parity or 2 tree residue, the lane axis, its index, the array, and
in quadrant mode the half of the lane or tree that reported it. -/
structure ArrFault where
  residue : Bool
  colLane : Bool
  index : Fin 32
  array : Fin 4
  half : Bool
  deriving DecidableEq, Repr

/-- A failed check of the special-function unit (R256): physical lane, seed-table parity or datapath residue. -/
structure SfuFault where
  lane : Fin 68
  residue : Bool
  prim : Prim
  deriving DecidableEq, Repr

/-- A failed check of the vector engine (R284): lane and register. -/
structure VecFault where
  lane : Fin 256
  reg : Fin 32
  deriving DecidableEq, Repr

/-- A failed check of the carry tree (R211): edge parity, or a residue. -/
inductive TreeFault
  | edgeParity | residue
  deriving DecidableEq, Repr

/-- What an event of a tree or leaf works on: the scan and the tile index. -/
structure ScanTile where
  scan : Fin 16
  tile : Fin 512
  deriving DecidableEq, Repr

/-- What the root finds: a failed check of its aggregate, and of its composition with an H that came before it (R211, R214). -/
structure RootFaults where
  up : Option TreeFault
  ring : Option TreeFault
  deriving DecidableEq, Repr

/-- A ring carry that is complete: the causeway that it came on, and a failed check of its composition with G (R211, R214). -/
structure RingArrival where
  cw : Fin 3
  fault : Option TreeFault
  deriving DecidableEq, Repr

/-- H on its way to the leaves: the scan and tile, and the nodes and leaves on whose upper edge its parity fails (R211, R214). -/
structure RingSweep where
  st : ScanTile
  bad : List (Fin 128)
  deriving DecidableEq, Repr

/-- A promotion transfer that ends (R435): whether its copy is the one in tier A, and the rows of 128 B, from 0 within the
transfer, that the memory controller reports uncorrectable (R421). -/
structure CopyExtent where
  toA : Bool
  bad : List Nat
  deriving DecidableEq, Repr

/-- A write-back that ends (R437): its object, and the rows of 128 B that the memory controller reports uncorrectable
(R421). -/
structure WriteBack where
  obj : Fin 4096
  bad : List Nat
  deriving DecidableEq, Repr

/-- What FEC found in a frame whose CRC fails: codewords that it could not correct, and symbols that it corrected (R453). -/
structure FecCount where
  uncorrectable : BitVec 8
  corrected : BitVec 8
  deriving DecidableEq, Repr

/-- What the fuses hold (R582 step 3, Tables 16-5, 3-12, 6-13): identity, key hash, stepping taken as ENG_ID gives it,
disabled pfens, remaps of the default map (logical fen, pfen), repair records and the unused spares. -/
structure Fuses where
  uid : BitVec 64
  keyHash : BitVec 384
  keySet : Bool
  disable : BitVec 72
  remaps : List (Fin 64 × Fin 72)
  arrRepair : List (Nat × BitVec 32)
  sfuRepair : List (Nat × BitVec 32)
  retiredWay : BitVec 5
  spareTaPorts : BitVec 2
  deriving DecidableEq, Repr

/-- What start-up BIST finds (R582 step 4, R583): pfens with a macro of more than 4 bad rows, a failed cache way, bad physical
rows and columns by array (4 · pfen + array, R133), bad physical lanes by pfen (R229), and whether the idle tree, core, tempo generator and PLL passed. -/
structure Bist where
  failed : BitVec 72
  failedWay : Option (Fin 17)
  arrBad : List (Nat × List (Fin 34) × List (Fin 34))
  sfuBad : List (Nat × List (Fin 68))
  treeOk : Bool
  coreOk : Bool
  tempoOk : Bool
  pllOk : Bool
  deriving DecidableEq, Repr

/-- One sampling of the sensors (Table 15-4): 8 voltages (mV) and 2 temperatures (0.25 °C) and one load (0.1 A) for each
listed pfen, and the 16 other temperatures. -/
structure FenSample where
  pfen : Fin 72
  volts : List (BitVec 16)
  temps : List (BitVec 16)
  load : BitVec 16
  deriving DecidableEq, Repr

/-- Causes of a fatal error (R574): a thermal trip at a sensor, or both CK PLLs. -/
inductive FatalCause
  | thermal (sensor : Fin 160)
  | clocks
  deriving DecidableEq, Repr

/-- A frame as a lane carries it (Tables 12-1, 12-2): bytes 0 to 11, 12 to 267 and 268 to 271; a frame received has with it the
symbols that the decoder corrected in the codewords that it ends (R453). -/
structure Frame where
  hdr : BitVec 96
  payload : BitVec 2048
  crc : BitVec 32
  corrected : BitVec 8 := 0
  deriving DecidableEq, Repr

/-- An NVMe completion entry as the engine reads it (R442): command identifier, status not 0, DNR, submission head, phase tag,
and the bytes that the device wrote to the extent. -/
structure NvmeCqe where
  cid : Fin 256
  failed : Bool
  dnr : Bool
  sqHead : Fin 256
  phase : Bool
  data : List Byte
  deriving DecidableEq, Repr

/-- What a tier or the fabric returns for a transfer: data rows for a fabric read, an uncorrectable error report for
some rows, or an error response (R421, Table 10-6); the lateness in FK beyond the bound (R420). -/
structure XferReturn where
  rows : List Row
  badRows : List Nat
  error : Bool
  lateFk : Nat
  deriving DecidableEq, Repr

/-- The latched pairs (Table 16-3). -/
inductive LatchPair
  | tempo | snapTempo | snapDigest | twinTempo
  deriving DecidableEq, Repr

/-- Why a lane fails (R460), as its receiver or sender reports it. -/
inductive LaneFail
  | signal | lock | frameLock | replay
  deriving DecidableEq, Repr

/-- What a training phase finds (Table 12-7): lanes that failed phases 1 or 2 in the receive and in the transmit direction, and
the partner's CAPS for phase 3. -/
structure PhaseResult where
  badLanes : BitVec 9
  txBad : BitVec 9
  caps : Option (BitVec 192)
  deriving DecidableEq, Repr

end Sys2Proof
end

