-- ==== Sys2Proof/Syntax.lean ====
section
/-!
DEFINITION. The commands of the block: one constructor for each row of spec/opcode_table.json, in the table's order.
`p` is a pfen (R6), `q` a command queue, `c` a causeway, `l` a lode, `o` an object entry, `n` a logical fen. A row that is
an event carries as operands the data that come from outside the block with it, and nothing that State holds.
-/

namespace Sys2Proof

/-- A command: a packet of a ring, a register access, a bundle slot's operation, or an event. -/
inductive Instr
  /-- NOP (R501): Command that does nothing and posts its final reply at acceptance. -/
  | nop (q : Fin 16) (opcode : BitVec 8) (p : Packet)
  /-- CMD_FETCH_ERR (R499): A command fetch returns a fabric error, so the command is not executed and its queue stops with reason FETCH. -/
  | cmdFetchErr (q : Fin 16)
  /-- QUERY (R501): Returns a lode, stream, object or plan record in RESULT and, if an address is given, writes the whole record to that fabric address. -/
  | query (q : Fin 16) (p : Packet)
  /-- LOAD_PLAN (R505): Starts the unreserved fabric fetch of a plan image. -/
  | loadPlan (q : Fin 16) (p : Packet)
  /-- PLAN_IMAGE_FETCHED (R505): Once the plan image has arrived, runs checks 1 to 12 and either installs the plan in one step of the object-table order or refuses it. -/
  | planImageFetched (img : Option (List Byte))
  /-- UNLOAD_PLAN (R501): The plan's fens end their current segment and start no further one; lodes and references are released, and the reply follows at the next boundary. -/
  | unloadPlan (q : Fin 16) (p : Packet)
  /-- COMMIT (R510): Copies the shadow registers into a pending set and checks it; the set then takes effect at a boundary, or at acceptance while the tempo is stopped. -/
  | commit (q : Fin 16) (p : Packet)
  /-- ARM_LODE (R394): Checks a lode descriptor, resolves its bases and arms the lode under a new generation. -/
  | armLode (q : Fin 16) (p : Packet)
  /-- REARM_LODE (R401): Replaces a lode's bases and steps its generation, or for a persistent lode replaces the bases from the next segment start. -/
  | rearmLode (q : Fin 16) (p : Packet) (bases : BitVec 384)
  /-- HALT_LODE (R402): Stops issue of an armed lode at once; the reply follows when its transfers in flight have completed. -/
  | haltLode (q : Fin 16) (p : Packet)
  /-- STREAM_OPEN (R158): Opens a stream context on a binding and queues its initial-state loads. -/
  | streamOpen (q : Fin 16) (p : Packet)
  /-- STREAM_CLOSE (R160): Invalidates the binding's tiles and frees the context at the next boundary, or at acceptance while the tempo is stopped. -/
  | streamClose (q : Fin 16) (p : Packet)
  /-- STREAM_RESET (R159): Enters RESETTING and reloads every tile of the binding from the stream's initial state. -/
  | streamReset (q : Fin 16) (p : Packet)
  /-- STATE_MOVE (R152): Freezes a stream's source tiles, sets the stream to MOVING and queues the tile moves to a binding, a tier object or a remote block. -/
  | stateMove (q : Fin 16) (p : Packet)
  /-- PROMOTE (R434): Takes a hold on an object and starts, joins or confirms its copy to an upper tier. -/
  | promote (q : Fin 16) (p : Packet)
  /-- DEMOTE (R437): Gives up an upper-tier copy at once, or marks the object DEMOTING and defers with a timeout. -/
  | demote (q : Fin 16) (p : Packet)
  /-- HOLD_OBJECT (R436): Adds one to an object's hold count. -/
  | holdObject (q : Fin 16) (p : Packet)
  /-- RELEASE_OBJECT (R436): Subtracts one from an object's hold count. -/
  | releaseObject (q : Fin 16) (p : Packet)
  /-- TEMPO_START (R324): Sets the tempo counter and places the first boundary, or arms a follower to accept its first marker. -/
  | tempoStart (q : Fin 16) (p : Packet)
  /-- TEMPO_STOP (R324): Stops the tempo at the next boundary, and at a master flags STOP in that boundary's marker. -/
  | tempoStop (q : Fin 16) (p : Packet)
  /-- TEMPO_HOLD (R324): Holds a SOLO block at the next boundary until TEMPO_START, or starts a ring-wide hold at a master. -/
  | tempoHold (q : Fin 16) (p : Packet)
  /-- SNAPSHOT (R529): Arms a snapshot into a staging area, or takes it at once while the tempo is stopped. -/
  | snapshot (q : Fin 16) (p : Packet)
  /-- RESTORE (R539): Starts reading a snapshot image so that its contexts and tiles can be checked and loaded. -/
  | restore (q : Fin 16) (p : Packet)
  /-- RESTORE_LOAD_DONE (R539): When the digest-checked contexts and tiles have been loaded, sets RESTORED and replies OK or MIRED. -/
  | restoreLoadDone
  /-- COMPARE (R541): Starts an EXACT or TOLERANT comparison of two snapshot images. -/
  | compare (q : Fin 16) (p : Packet)
  /-- COMPARE_DONE (R542): When the images have been read, posts the comparison result and its kind. -/
  | compareDone
  /-- FEN_RETIRE (R549): Reserves a spare pfen; at step 5 of a boundary, or at acceptance while no segment runs, moves the logical fen onto it. -/
  | fenRetire (q : Fin 16) (p : Packet)
  /-- FEN_ADMIT (R547): Gives a stale fen a new epoch and clears STALE, RESTORED and RETENTION_FAULT. -/
  | fenAdmit (q : Fin 16) (p : Packet)
  /-- FEN_POWER (R562): Starts a pfen's transition to ON, IDLE, RETAIN or OFF. -/
  | fenPower (q : Fin 16) (p : Packet)
  /-- LINK_TRAIN (R462): Starts full training, fast retraining or shutdown of a causeway. -/
  | linkTrain (q : Fin 16) (p : Packet)
  /-- LINK_ROLE (R468): Sets the ring address and the C2 role, and retrains the links concerned with FRESH = 1. -/
  | linkRole (q : Fin 16) (p : Packet)
  /-- FLASH_QUEUE_BIND (R440): Binds an NVMe queue pair to an engine flash queue, or unbinds it, deferring the unbind while commands are outstanding. -/
  | flashQueueBind (q : Fin 16) (p : Packet)
  /-- SET_MODE (R237): Changes between NORMAL and SERVICE at the next boundary, or at acceptance while the tempo is stopped. -/
  | setMode (q : Fin 16) (p : Packet)
  /-- OBJ_CREATE (R427): OBJ_CMD operation that creates an object entry from the staging words with a new epoch. -/
  | objCreate (epoch : BitVec 20)
  /-- OBJ_DESTROY (R427): OBJ_CMD operation that clears VALID of an unheld, unreferenced object. -/
  | objDestroy (epoch : BitVec 20)
  /-- OBJ_RENEW (R427): OBJ_CMD operation that gives an object a new epoch and clears its upper-tier copies. -/
  | objRenew (epoch : BitVec 20)
  /-- PROMOTION_EXTENT_COMPLETE (R435): A promotion transfer or NVMe extent completes, and DONE_PAGES advances over each contiguous run of completed pages. -/
  | promotionExtentComplete (o : Fin 4096) (ext : CopyExtent)
  /-- DEMOTE_PROCEED (R437): A deferred demotion proceeds when its conditions come to hold, starting the write-back of a DIRTY copy. -/
  | demoteProceed (o : Fin 4096)
  /-- DEMOTE_WRITEBACK_DONE (R437): When the write-back ends, RES_T, DIRTY and DEMOTING are cleared and OK is replied. -/
  | demoteWritebackDone (w : WriteBack)
  /-- DEMOTE_TIMEOUT (R437): A deferred DEMOTE's timeout passes, and HELD is replied with nothing changed. -/
  | demoteTimeout (o : Fin 4096)
  /-- CQ_ENABLE (R493): Writing 1 to CQ_CTRL.EN enables a queue and resets its pointers, phase and expected sequence. -/
  | cqEnable (q : Fin 16) (logE : BitVec 4)
  /-- CQ_DISABLE (R493): Writing 0 to CQ_CTRL.EN disables a queue and drops the commands not yet accepted. -/
  | cqDisable (q : Fin 16) (logE : BitVec 4)
  /-- CQ_DOORBELL_WRITE (R494): Sets a queue's command tail through a stalling crossing; a value not below E is ignored and logged. -/
  | cqDoorbellWrite (q : Fin 16) (v : Word)
  /-- RQ_HEAD_WRITE (R495): The driver frees reply-ring entries, which can let further commands be accepted. -/
  | rqHeadWrite (q : Fin 16) (v : Word)
  /-- ERR_POP_WRITE (R604): Removes the oldest error-log entry, or is ignored while the log is empty. -/
  | errPopWrite
  /-- RC_REGISTER_READ (R12): A read of a clear-on-read register returns its value and clears it, keeping events of the same cycle. -/
  | rcRegisterRead (off : BitVec 20)
  /-- LATCHED_PAIR_READ (R591): A read of the low word of a latched pair latches the high word. -/
  | latchedPairRead (pair : LatchPair)
  /-- LODE_STAT_SAMPLE (R416): A read of LODE_STAT0 samples all four status words of the selected lode. -/
  | lodeStatSample
  /-- COUNT_CUR_SAMPLE (R415): A read of COUNT_CUR samples the CUR and OLD entries of the selected counter together. -/
  | countCurSample (p : Fin 72)
  /-- OBJ_DATA_SAMPLE (R447): A read of OBJ_DATA0 samples the object entry that OBJ_SEL names. -/
  | objDataSample
  /-- REGISTER_WRITE (R11): A write to a register that has no row of its own, including shadow and W1C writes, takes effect as its access code gives. -/
  | registerWrite (off : BitVec 20) (v : Word)
  /-- RST_FEN_WRITE (R609): Starts a fen reset of the named pfen, restarts one in progress, or is ignored for a fen in RETAIN or OFF. -/
  | rstFenWrite (v : Word)
  /-- FEN_RESET_END (R579): A fen reset's 256 CK end, leaving the fen stale with its tiles INVALID and its registers reset. -/
  | fenResetEnd (p : Fin 72)
  /-- RST_CTRL_WARM (R579): The RST_CTRL.WARM bit starts a block warm reset. -/
  | rstCtrlWarm
  /-- WARM_RESET_INPUT (R579): The host's warm-reset input starts a block warm reset. -/
  | warmResetInput
  /-- WARM_RESET_END (R580): A warm reset completes after 2 ms, leaving the block in SERVICE and the boot state with the kept state intact. -/
  | warmResetEnd
  /-- RST_CTRL_TIER (R581): The RST_CTRL.TIER bit resets the tier engine, freeing lodes, unbinding flash queues and ending promotions, unless a plan is loaded. -/
  | rstCtrlTier
  /-- RST_CTRL_CW (R489): An RST_CTRL causeway bit resets that link, flushing its gateway so that it reports FRESH at its next training. -/
  | rstCtrlCw (c : Fin 3)
  /-- BLOCK_COLD_RESET (R579): Module power-on or the cold-reset input resets the whole engine and begins start-up. -/
  | blockColdReset (input : Bool)
  /-- STARTUP_CLOCK_LOCK (R582): Start-up step 2: both CK PLLs and the MK source lock to TK. -/
  | startupClockLock
  /-- FUSE_LOAD (R582): Start-up step 3 loads the UID, key hash, stepping, repair records and remaps from the fuses. -/
  | fuseLoad (f : Fuses)
  /-- STARTUP_BIST (R582): Start-up step 4 initialises every SRAM, runs BIST and assigns the spare rows, columns and lanes. -/
  | startupBist (b : Bist)
  /-- SPARE_MAP_BUILD (R583): Start-up step 5 builds the spare map, powers the fens and turns on PD_CACHE and PD_TIER. -/
  | spareMapBuild
  /-- PWR_DOMAIN_CACHE_ON (R559): A write of PWR_DOMAIN.CACHE_ON turns the weight cache domain on, or off at the next boundary. -/
  | pwrDomainCacheOn (on : Bool)
  /-- PWR_DOMAIN_TIER_ON (R559): A write of PWR_DOMAIN.TIER_ON turns the tier domain on, or off at the next boundary. -/
  | pwrDomainTierOn (on : Bool)
  /-- DOMAIN_POWER_UP_DONE (R559): 20 µs after being turned on, a domain is reported up in PWR_STATUS. -/
  | domainPowerUpDone (tier : Bool)
  /-- TB_RANK_PWR_WRITE (R444): Requests tier B ranks ON or OFF, starting a fence or a wake. -/
  | tbRankPwrWrite (v : Word)
  /-- RANK_FENCE_EXPIRY (R444): After TB_FENCE_US µs, a FENCED rank enters DRAINING. -/
  | rankFenceExpiry (r : Fin 16)
  /-- RANK_DRAIN_END (R444): When no transfer to the rank is in flight, or the drain limit passes, the rank refuses issue and goes OFF. -/
  | rankDrainEnd (r : Fin 16)
  /-- RANK_WAKE_DONE (R446): When the mired wake writes of a waking rank complete, the rank becomes ON. -/
  | rankWakeDone (r : Fin 16)
  /-- FW_BEGIN (R520): Mailbox command that clears the image RAM and enters LOADING. -/
  | fwBegin
  /-- FW_END (R520): Mailbox command that starts the firmware signature check. -/
  | fwEnd
  /-- FW_CHECK_DONE (R517): The check ends: a good image starts at ENTRY, and a bad one logs FW_REJECTED and returns to BOOT. -/
  | fwCheckDone
  /-- CORE_SELECT (R520): Mailbox command that names the control core that the next warm reset starts. -/
  | coreSelect
  /-- ABORT (R520): Mailbox command that abandons a firmware load and returns to BOOT. -/
  | abort
  /-- MB_DATA_ACCESS (R519): Moves one word between MB_DATA and the addressed space, then advances the address, count and CRC. -/
  | mbDataAccess (write : Option Word)
  /-- MB_ADDR_LO_WRITE (R519): Sets the mailbox address and restarts the running CRC. -/
  | mbAddrLoWrite (v : Word)
  /-- MB_TO_CORE_WRITE (R522): Passes a message word to the firmware and sets TO_PENDING. -/
  | mbToCoreWrite (v : Word)
  /-- CK_PLL_LOCK_LOSS (R30): The active PLL loses lock, and CK is stopped and switched to the spare PLL. -/
  | ckPllLockLoss
  /-- CLOCK_SWITCH_DONE (R30): CK resumes on the spare PLL, and the tempo in progress is held with cause CLOCK_SWITCH. -/
  | clockSwitchDone
  /-- TEMPO_GEN_LOCK_LOSS (R29): The active tempo generator loses lock, and the engine switches to the spare at the next TK edge. -/
  | tempoGenLockLoss
  /-- FATAL_ERROR (R574): A thermal trip or the loss of both PLLs stops issue, the tempo and heartbeats until a reset. -/
  | fatalError (cause : FatalCause)
  /-- DROOP_DETECT (R572): A droop comparator falls below DROOP1 or DROOP2, and a stretch window opens or deepens. -/
  | droopDetect (p : Fin 72) (monitor : Fin 8) (deep : Bool)
  /-- STRETCH_WINDOW_END (R573): A stretch window ends after 1 µs or 64 quiet CK. -/
  | stretchWindowEnd (droopPersists : Bool)
  /-- RAIL_READING_UPDATE (R567): The host renews the mirrored 36 V reading, which clears RAIL_STALE. -/
  | railReadingUpdate (v : BitVec 16)
  /-- RAIL_STALE_TIMEOUT (R567): No rail renewal for 10 ms sets RAIL_STALE. -/
  | railStaleTimeout
  /-- SENSOR_SAMPLE (R524): The heron samples every voltage, temperature and load sensor at least once per 2 µs. -/
  | sensorSample (fens : List FenSample) (others : List (BitVec 16))
  /-- HERON_UPDATE (R525): Once per tempo, or every 100 µs while no segment runs, decays the risk score and adds the weighted inputs. -/
  | heronUpdate
  /-- TEMPO_BOUNDARY_DUE (R287): The generator, or the marker-derived time, places boundary G_n. -/
  | tempoBoundaryDue
  /-- BOUNDARY_ACTIONS (R31): At the later of G_n and F_n, runs the ordered boundary actions of Table 1-5. -/
  | boundaryActions
  /-- FEN_SEGMENT_END (R332): A fen's END has issued and every earlier operation has completed, so its segment has ended. -/
  | fenSegmentEnd (p : Fin 72)
  /-- TEMPO_MARKER_SEND (R291): The master sends a tempo marker TEMPO_LEAD TK before each boundary. -/
  | tempoMarkerSend
  /-- TEMPO_FRAME_RECEIVE (R292): A follower accepts or drops a marker and places its boundary from the remaining lead. -/
  | tempoFrameReceive (c : Fin 3) (lane : Fin 8) (f : Frame)
  /-- HOLD_FRAME_RECEIVE (R485): A HOLD request or release arrives; a follower forwards it, and the master consumes it. -/
  | holdFrameReceive (c : Fin 3) (lane : Fin 8) (f : Frame)
  /-- RING_HOLD_TIMEOUT (R322): A ring-wide hold outlasts TEMPO_RING_TIMEOUT, so the master logs RING_STALL. -/
  | ringHoldTimeout
  /-- SLUICE_SLACK_EXPIRY (R309): A sluice's slack of S CK passes without its condition, and the overrun is counted. -/
  | sluiceSlackExpiry (p : Fin 72)
  /-- STALEMATE_DETECT (R411): A cycle of blocked parties makes no progress for PERIOD TK, and it is recorded and logged. -/
  | stalemateDetect
  /-- BUNDLE_FETCH (R330): The fetch unit reads instruction memory 4 CK ahead through ECC. -/
  | bundleFetch (p : Fin 72)
  /-- IMEM_SCRUB (R330): In an idle fetch CK, the scrubber reads one bundle and writes back a correction. -/
  | imemScrub (p : Fin 72)
  /-- CNOP (R337): Control-slot no operation. -/
  | cnop (p : Fin 72)
  /-- WAIT (R339): Tests a tag, counter, select slot, carry ready count or credit, and passes or stalls the bundle. -/
  | wait (p : Fin 72) (desc : Fin 1024)
  /-- WAIT_PASS (R339): A stalled WAIT passes when its condition comes to hold, and consumes its count if asked to. -/
  | waitPass (p : Fin 72)
  /-- LOOP (R343): Runs a body of bundles LC + 1 times. -/
  | loop (p : Fin 72) (level : Fin 4) (len : Fin 1024)
  /-- BRSEL (R345): Continues at the variant that a select slot holds. -/
  | brsel (p : Fin 72) (slot : Fin 8)
  /-- JUMP (R337): Continues at a later address. -/
  | jump (p : Fin 72) (target : Fin 4096)
  /-- END (R332): Ends the fen's segment. -/
  | endSegment (p : Fin 72)
  /-- ANOP (R348): Array-slot no operation. -/
  | anop (p : Fin 72)
  /-- TLOAD (R104): Queues a weight tile from the W-buffer into the back planes of the masked arrays. -/
  | tload (p : Fin 72) (op : TLoadOp)
  /-- TLOAD_READ_START (R105): The load bus starts reading a queued TLOAD's rows once the previous TLOAD has finished. -/
  | tloadReadStart (p : Fin 72)
  /-- TMUL (R116): Multiplies the front plane by activation vectors and reduces along an axis. -/
  | tmul (p : Fin 72) (op : TMulOp)
  /-- ARRAY_RESULT_WRITE (R116): At CK 7, TMUL W40 results and mire bits are written to P-buffer rows. -/
  | arrayResultWrite (p : Fin 72) (fault : Option ArrFault)
  /-- TOPA (R111): Adds an outer product to a state tile. -/
  | topa (p : Fin 72) (h : StHead)
  /-- TDECAY (R111): Decays a state tile by L32 factors. -/
  | tdecay (p : Fin 72) (h : StHead) (dax : Bool)
  /-- TSCALE (R111): Scales a state tile by signed F32 factors. -/
  | tscale (p : Fin 72) (h : StHead) (dax : Bool)
  /-- TREAD (R111): Reads a reduction of a state tile along an axis. -/
  | tread (p : Fin 72) (h : StHead) (axis : Bool) (dst : ODst)
  /-- TSTEP (R118): Decays and updates a state tile in place, then reads the updated tile. -/
  | tstep (p : Fin 72) (h : StHead) (dax : Bool) (axis : Bool) (dst : ODst)
  /-- STATE_ENTRY_WRITE (R118): At CK 4, or CK 5 compensated, updated state entries are written back. -/
  | stateEntryWrite (p : Fin 72) (fault : Option ArrFault)
  /-- VNOP (R353): Vector-slot no operation. -/
  | vnop (p : Fin 72)
  /-- AND (R353): Bitwise AND of two registers. -/
  | vAnd (p : Fin 72) (h : VHead)
  /-- OR (R353): Bitwise OR of two registers. -/
  | vOr (p : Fin 72) (h : VHead)
  /-- XOR (R353): Bitwise XOR of two registers. -/
  | vXor (p : Fin 72) (h : VHead)
  /-- ANDN (R353): Bitwise AND of one register with the complement of another. -/
  | vAndn (p : Fin 72) (h : VHead)
  /-- NOT (R353): Bitwise complement of a register. -/
  | vNot (p : Fin 72) (h : VHead)
  /-- SHL (R267): Logical left shift. -/
  | shl (p : Fin 72) (h : VHead) (imm : Option (Fin 32))
  /-- SHR (R267): Logical right shift. -/
  | shr (p : Fin 72) (h : VHead) (imm : Option (Fin 32))
  /-- SAR (R267): Arithmetic right shift. -/
  | sar (p : Fin 72) (h : VHead) (imm : Option (Fin 32))
  /-- IADD (R266): Integer add at width 8, 16 or 32, saturating or wrapping. -/
  | iadd (p : Fin 72) (h : VHead) (w : IWid) (wrap : Bool)
  /-- ISUB (R266): Integer subtract, saturating or wrapping. -/
  | isub (p : Fin 72) (h : VHead) (w : IWid) (wrap : Bool)
  /-- IMIN (R266): Integer minimum. -/
  | imin (p : Fin 72) (h : VHead) (w : IWid)
  /-- IMAX (R266): Integer maximum. -/
  | imax (p : Fin 72) (h : VHead) (w : IWid)
  /-- IABS (R266): Integer absolute value, saturating. -/
  | iabs (p : Fin 72) (h : VHead) (w : IWid)
  /-- IMUL (R266): Saturating integer multiply. -/
  | imul (p : Fin 72) (h : VHead) (w : IWid)
  /-- FADD (R268): F32 add, with an optional clamp at zero. -/
  | fadd (p : Fin 72) (h : VHead) (zclamp : Bool)
  /-- FSUB (R268): F32 subtract, with an optional clamp at zero. -/
  | fsub (p : Fin 72) (h : VHead) (zclamp : Bool)
  /-- FMUL (R268): F32 multiply. -/
  | fmul (p : Fin 72) (h : VHead)
  /-- FMIN (R268): F32 minimum, giving NaN when either operand is NaN. -/
  | fmin (p : Fin 72) (h : VHead)
  /-- FMAX (R268): F32 maximum, giving NaN when either operand is NaN. -/
  | fmax (p : Fin 72) (h : VHead)
  /-- FABS (R268): F32 absolute value. -/
  | fabs (p : Fin 72) (h : VHead)
  /-- FNEG (R268): F32 negation. -/
  | fneg (p : Fin 72) (h : VHead)
  /-- FMA (R268): Fused multiply-add with one rounding. -/
  | fma (p : Fin 72) (h : VHead) (vc : Fin 32) (zclamp : Bool)
  /-- LCOMP (R271): Elementwise L32 composition. -/
  | lcomp (p : Fin 72) (h : VHead)
  /-- LMIN (R353): L32 minimum. -/
  | lmin (p : Fin 72) (h : VHead)
  /-- LMAX (R353): L32 maximum. -/
  | lmax (p : Fin 72) (h : VHead)
  /-- CMP (R270): Compares two registers and writes a predicate. -/
  | cmp (p : Fin 72) (h : VHead) (cond : Cond) (ty : ETy)
  /-- PAND (R353): Predicate AND. -/
  | pand (p : Fin 72) (h : VHead)
  /-- POR (R353): Predicate OR. -/
  | por (p : Fin 72) (h : VHead)
  /-- PXOR (R353): Predicate XOR. -/
  | pxor (p : Fin 72) (h : VHead)
  /-- PNOT (R353): Predicate complement. -/
  | pnot (p : Fin 72) (h : VHead)
  /-- SEL (R353): Selects between two registers by a predicate. -/
  | sel (p : Fin 72) (h : VHead) (ps : Fin 8)
  /-- VBCAST (R353): Broadcasts an element, row, column or vector to the whole register. -/
  | vbcast (p : Fin 72) (h : VHead) (kind : BcKind) (idx : Fin 256)
  /-- VPERM (R353): Permutes the vectors of a register. -/
  | vperm (p : Fin 72) (h : VHead)
  /-- TRN (R265): Transposes the 16 × 16 view. -/
  | trn (p : Fin 72) (h : VHead)
  /-- RED (R273): Reduces along rows, along columns or over the tile by SUM, MIN, MAX or LCOMP. -/
  | red (p : Fin 72) (h : VHead) (op : ROp) (ext : Extent) (ty : ETy)
  /-- PFX (R272): Prefix by SUM, MAX or LCOMP, optionally segmented by marks. -/
  | pfx (p : Fin 72) (h : VHead) (op : ROp) (ext : Extent) (ty : ETy) (marks : Option (Fin 8))
  /-- CVT (R354): Converts a register under a conversion descriptor. -/
  | cvt (p : Fin 72) (h : VHead) (d : Cvt) (src : CvtSrc)
  /-- ACT (R274): Applies an activation through the special-function unit. -/
  | act (p : Fin 72) (h : VHead) (a : Act) (d : Cvt)
  /-- SFN (R358): Applies one special-function primitive to each element. -/
  | sfn (p : Fin 72) (h : VHead) (pr : Prim) (d : Cvt)
  /-- EPI (R355): Runs a fused epilogue from P-buffer partial sums to packed output rows. -/
  | epi (p : Fin 72) (h : VHead) (desc : Fin 64)
  /-- NRM_KMAX (R356): RMS phase that merges the exponent maximum of 256 elements into k of a row in progress. -/
  | nrmKmax (p : Fin 72) (h : VHead) (src : NrmSrc) (fmt : Fmt) (row : Fin 32) (clr : Bool)
  /-- NRM_SQ (R356): RMS phase that adds the pre-scaled squares of 256 elements to q. -/
  | nrmSq (p : Fin 72) (h : VHead) (src : NrmSrc) (fmt : Fmt) (row : Fin 32)
  /-- NRM_FIN (R356): RMS phase that forms m, d and r, or writes or merges partial (q, k) pairs. -/
  | nrmFin (p : Fin 72) (h : VHead) (row : Fin 32) (part : Bool) (merge : Bool)
  /-- NRM_APPLY (R356): RMS phase that writes the normalised elements. -/
  | nrmApply (p : Fin 72) (h : VHead) (src : NrmSrc) (fmt : Fmt) (row : Fin 32)
  /-- SMX_ONLINE (R357): ONLINE softmax step over one key tile that updates m, l and the correction. -/
  | smxOnline (p : Fin 72) (h : VHead) (quarter : Fin 4)
  /-- SMX_ONLINE_FIN (R357): ONLINE finish that writes the reciprocal of l, or CUT for empty rows. -/
  | smxOnlineFin (p : Fin 72) (h : VHead) (quarter : Fin 4)
  /-- SMX_RANGE_PASS0 (R357): RANGE pass 0 that accumulates the exponentials of each row. -/
  | smxRangePass0 (p : Fin 72) (h : VHead) (quarter : Fin 4) (clr : Bool)
  /-- SMX_RANGE_PASS1 (R357): RANGE pass 1 that writes the weights exp2(z − lg). -/
  | smxRangePass1 (p : Fin 72) (h : VHead) (quarter : Fin 4)
  /-- SUMMARY (R278): Reduces a register and posts a scalar summary flit to a decision. -/
  | summary (p : Fin 72) (h : VHead) (decision : Fin 64) (op : SumOp)
  /-- VECTOR_RESULT_WRITE (R265): A vector operation writes its destination at its stated latency. -/
  | vectorResultWrite (p : Fin 72) (fault : Option VecFault)
  /-- SFU_RESULT_WRITE (R275): A special-function operation writes its last result after the unit's pipeline. -/
  | sfuResultWrite (p : Fin 72) (fault : Option SfuFault)
  /-- MNOP (R359): Move-slot no operation. -/
  | mnop (p : Fin 72)
  /-- VLD (R361): Loads one vector from a buffer row into a register, converting it to F32. -/
  | vld (p : Fin 72) (v : Fin 32) (m : Fin 8) (pt : Fin 16) (inc : Bool) (fmt : Fmt) (g : Fin 8)
  /-- VST (R361): Stores one vector of a register into a buffer row in a given format. -/
  | vst (p : Fin 72) (v : Fin 32) (m : Fin 8) (pt : Fin 16) (inc : Bool) (fmt : Fmt) (g : Fin 8)
  /-- PSET (R360): Sets a pointer register to a buffer, slot and row. -/
  | pset (p : Fin 72) (pt : Fin 16) (buf : BufId) (slot : Fin 512) (row : Fin 32)
  /-- TAG_SET_FULL (R365): Sets a slot's tag FULL. -/
  | tagSetFull (p : Fin 72) (buf : BufId) (slot : Fin 512)
  /-- TAG_SET_EMPTY (R365): Sets a slot's tag EMPTY. -/
  | tagSetEmpty (p : Fin 72) (buf : BufId) (slot : Fin 512)
  /-- TAG_RELEASE_CHAIN (R369): Empties a chain input slot and sends one credit to the previous stage. -/
  | tagReleaseChain (p : Fin 72) (buf : BufId) (slot : Fin 512) (link : Fin 4)
  /-- SEND (R363): Queues rows from a pointer to a route's destination in another fen, the next chain stage or a remote block. -/
  | send (p : Fin 72) (pt : Fin 16) (rows : Fin 32) (route : Fin 16)
  /-- SEND_BEGIN (R364): A queued SEND starts injecting one row per CK once the previous SEND has finished. -/
  | sendBegin (p : Fin 72)
  /-- MASKLD (R365): Loads a mask pair from two predicates. -/
  | maskld (p : Fin 72) (m : Fin 8) (rp : Fin 8) (cp : Fin 8)
  /-- CPUSH (R197): Reads a state tile through the port and pushes it as a carry to the leaf. -/
  | cpush (p : Fin 72) (amask : BitVec 4) (depth : Fin 128) (base : Fin 512)
  /-- CPULL (R201): Writes the oldest carry delivery into a state tile, by REPLACE or ADD. -/
  | cpull (p : Fin 72) (amask : BitVec 4) (depth : Fin 128) (add : Bool) (vbase : Option (Fin 32))
  /-- CSET (R365): Sets the carry context. -/
  | cset (p : Fin 72) (scan : Fin 16) (vbase : Fin 32) (abs : Bool) (ret : RetKind)
  /-- LCSET (R343): Sets the loop count of a level. -/
  | lcset (p : Fin 72) (level : Fin 4) (count : BitVec 16)
  /-- NETWORK_ROW_DELIVERY (R363): A SEND's rows arrive at the destination fen, whose counter and tag change at the last row. -/
  | networkRowDelivery (p : Fin 72)
  /-- CHAIN_CREDIT_ARRIVAL (R369): A chain credit is counted at the previous stage's link. -/
  | chainCreditArrival (p : Fin 72) (link : Fin 4)
  /-- SUMMARY_FLIT_ARRIVAL (R280): A summary reaches the control core, which combines the decision once every source has posted. -/
  | summaryFlitArrival (p : Fin 72)
  /-- SELECT_SLOT_WRITE (R281): A chosen variant is written into a target fen's select slot. -/
  | selectSlotWrite (n : Fin 64) (decision : Fin 64)
  /-- LEAF_PUSH_RECEIVE (R613): A pushed carry completes in the leaf, which composes it or drops it and sends the aggregate up once it has every push. -/
  | leafPushReceive (p : Fin 72) (array : Fin 4) (fault : Option TreeFault)
  /-- NODE_UP (R208): A node composes and forwards its children's carries up the tree. -/
  | nodeUp (node : Fin 64) (st : ScanTile) (fault : Option TreeFault)
  /-- ROOT_AGGREGATE (R214): The root completes the block aggregate, starts the down-sweep and sends G on the ring. -/
  | rootAggregate (st : ScanTile) (fault : RootFaults)
  /-- NODE_DOWN (R208): A node passes prefixes down to its children. -/
  | nodeDown (node : Fin 64) (st : ScanTile) (fault : Option TreeFault)
  /-- LEAF_DELIVERY (R208): A leaf delivers exclusive or inclusive prefixes, and each raises a ready count. -/
  | leafDelivery (n : Fin 64) (st : ScanTile) (fault : Option TreeFault)
  /-- RING_CARRY_RECEIVE (R216): A complete ring carry is checked and accepted into the ring store, or rejected. -/
  | ringCarryReceive (x : RingArrival)
  /-- RING_H_BROADCAST (R214): H reaches a block's leaves after the 336 CK broadcast. -/
  | ringHBroadcast (x : RingSweep)
  /-- RING_CORRECTION (R215): A leaf delivers the ring correction for its kept decay parts 56 CK after H. -/
  | ringCorrection (n : Fin 64) (st : ScanTile) (fault : Option TreeFault)
  /-- LODE_TRANSFER_ISSUE (R397): A lode issues its next transfer once tags, the generation step and START allow it. -/
  | lodeTransferIssue (l : Fin 1024)
  /-- LODE_TRANSFER_COMPLETE (R398): A transfer completes in issue order, writes its rows and updates its counter and tags. -/
  | lodeTransferComplete (l : Fin 1024) (ret : XferReturn)
  /-- LODE_GEN_STEP (R400): A lode steps to its next generation once the previous generation has no transfer in flight. -/
  | lodeGenStep (l : Fin 1024)
  /-- STATE_SCRUB (R138): In an idle CK, the state scrubber reads or writes back one depth. -/
  | stateScrub (p : Fin 72) (array : Fin 4)
  /-- BUFFER_SCRUB (R381): In an idle bank CK, the buffer scrubber reads or writes back one row. -/
  | bufferScrub (p : Fin 72) (buf : BufId)
  /-- STATE_PORT_TRANSFER_START (R147): A pending tile transfer starts in its fen's state-move window, or at a boundary. -/
  | statePortTransferStart (p : Fin 72)
  /-- STATE_PORT_TRANSFER_DONE (R151): A tile load or source read ends, updating tile status and the stream context. -/
  | statePortTransferDone (p : Fin 72) (badRows : List Nat)
  /-- SNAPSHOT_DRAIN_COMPLETE (R533): A snapshot's pages, manifest, header and digest table are written, and its registers are updated. -/
  | snapshotDrainComplete
  /-- TWIN_MISSING_TIMEOUT (R554): The partner's digests have not arrived within TIMEOUT tempos, so MISSING is set. -/
  | twinMissingTimeout
  /-- FEN_FENCE_END (R565): After 256 CK fenced, a powering-down fen's buffers enter DRAINING. -/
  | fenFenceEnd (p : Fin 72)
  /-- FEN_DRAIN_END (R565): The drain ends when no lode transfer is in flight, or after 4 µs, and the buffers go off. -/
  | fenDrainEnd (p : Fin 72)
  /-- FEN_POWER_TRANSITION_DONE (R561): A fen reaches its target power state, and FEN_POWER replies. -/
  | fenPowerTransitionDone (p : Fin 72) (retentionFault : Bool)
  /-- FLASH_EXTENT_ISSUE (R441): Places a Read command for an extent in the next bound queue that has a free entry. -/
  | flashExtentIssue (o : Fin 4096)
  /-- FLASH_POLL_TICK (R442): Every FLASH_POLL MK, consumes completions, retries or mires failed extents and writes doorbells. -/
  | flashPollTick (q : Fin 8) (cqes : List NvmeCqe)
  /-- FLASH_SLOW_TIMEOUT (R443): A command outstanding past FLASH_SLOW_MS is counted and logged. -/
  | flashSlowTimeout (q : Fin 8) (cid : Fin 256)
  /-- FRAME_SLOT_TRANSMIT (R455): Each lane slot sends the ready frame of highest priority, or a CREDIT frame. -/
  | frameSlotTransmit (c : Fin 3) (lane : Fin 8)
  /-- CREDIT_FRAME_RECEIVE (R461): A CREDIT frame returns acknowledgements and credits. -/
  | creditFrameReceive (c : Fin 3) (lane : Fin 8) (f : Frame)
  /-- DATA_FRAME_RECEIVE (R476): A DATA frame is checked and its rows written, and a message completes when all its fragments are in. -/
  | dataFrameReceive (c : Fin 3) (lane : Fin 8) (f : Frame)
  /-- CARRY_FRAME_RECEIVE (R483): A CARRY frame is ordered by FIDX into the carry stream. -/
  | carryFrameReceive (c : Fin 3) (lane : Fin 8) (f : Frame)
  /-- DIGEST_FRAME_RECEIVE (R553): A twin DIGEST frame is held and compared with the block's own digests. -/
  | digestFrameReceive (c : Fin 3) (lane : Fin 8) (f : Frame)
  /-- CAPS_RECEIVE (R469): A CAPS frame is checked against the agreement checks during training. -/
  | capsReceive (c : Fin 3) (lane : Fin 8) (f : Frame)
  /-- ECHO_RECEIVE (R465): An ECHO frame is answered with an ECHO_REPLY that reports the turnaround. -/
  | echoReceive (c : Fin 3) (lane : Fin 8) (f : Frame)
  /-- ECHO_REPLY_RECEIVE (R465): An ECHO_REPLY gives a round-trip measurement. -/
  | echoReplyReceive (c : Fin 3) (lane : Fin 8) (f : Frame) (flight : BitVec 32)
  /-- HEARTBEAT_RECEIVE (R487): A HEARTBEAT frame clears HB_LOST and carries a repeated move answer. -/
  | heartbeatReceive (c : Fin 3) (lane : Fin 8) (f : Frame)
  /-- MOVE_DONE_RECEIVE (R479): MOVE_DONE completes a remote STATE_MOVE at the source. -/
  | moveDoneReceive (c : Fin 3) (lane : Fin 8) (f : Frame)
  /-- MOVE_REJECT_RECEIVE (R479): MOVE_REJECT fails a remote move and restores the source stream. -/
  | moveRejectReceive (c : Fin 3) (lane : Fin 8) (f : Frame)
  /-- REPLAY_TIMEOUT (R459): The oldest unacknowledged frame has waited one round trip plus 64 slots, so the sender replays. -/
  | replayTimeout (c : Fin 3) (lane : Fin 8)
  /-- NAK_REPEAT (R459): NAK is set again once per round trip while the expected frame is missing. -/
  | nakRepeat (c : Fin 3) (lane : Fin 8)
  /-- LANE_FAILURE (R460): Loss of signal, lock or progress fails a lane, and the link retrains or goes DOWN. -/
  | laneFailure (c : Fin 3) (lane : Fin 9) (why : LaneFail)
  /-- TRAINING_PHASE_END (R464): A training phase completes or fails, and the link moves on, comes UP or goes DOWN. -/
  | trainingPhaseEnd (c : Fin 3) (r : PhaseResult)
  /-- ECHO_INTERVAL (R471): Every CW_ECHO_MS ms an UP link sends an ECHO. -/
  | echoInterval (c : Fin 3)
  /-- HEARTBEAT_TIMER (R487): Every 100 µs while the tempo is stopped, a HEARTBEAT is sent on each UP link. -/
  | heartbeatTimer
  /-- HEARTBEAT_LOSS_TIMEOUT (R487): No HEARTBEAT over two boundaries or 200 µs sets HB_LOST and logs it. -/
  | heartbeatLossTimeout (c : Fin 3)
  /-- TREAD_TSTEP_RESULT_WRITE (R115): At CK 6 the 32 read outputs of a TREAD or TSTEP per array are written to P-buffer rows or to a tile-register vector, with their mire bits. -/
  | treadTstepResultWrite (p : Fin 72) (fault : Option ArrFault)
  /-- CRC_FAILED_FRAME_RECEIVE (R456): A frame whose CRC fails is discarded, counted in CW_CRC_ERR, triggers NAK for the lane's sequence, and eight in a row mean loss of frame lock. -/
  | crcFailedFrameReceive (c : Fin 3) (lane : Fin 8) (n : FecCount)
  /-- STATE_MOVE_TIER_WRITE_DONE (R155): The tier write of the last tile image of a STATE_MOVE to a tier object completes, closing the local context and posting the reply. -/
  | stateMoveTierWriteDone (sid : BitVec 16)
  /-- QUERY_RECORD_WRITTEN (R501): The fabric write of a QUERY record completes and the final reply is posted. -/
  | queryRecordWritten (q : Fin 16)
  /-- LODE_DESCRIPTOR_FETCHED (R394): The 64-B descriptor that ARM_LODE named arrives over the fabric and is checked, resolved and armed, or refused. -/
  | lodeDescriptorFetched (l : Fin 1024) (desc : BitVec 512)
  /-- TIER_ENGINE_RESET_END (R579): The tier-engine reset's 10 µs end, and crossings into PD_TIER logic stop stalling. -/
  | tierEngineResetEnd
  /-- CAUSEWAY_RESET_END (R579): A causeway reset's 1 µs end, and the link returns to OFF or enters TRAINING. -/
  | causewayResetEnd (c : Fin 3)
  /-- FABRIC_ATTACH_FAULT (R487): The fabric attach or command logic fails its own checks, and the block stops sending heartbeats on every link. -/
  | fabricAttachFault
  /-- MB_FROM_CORE_WRITE (R522): The firmware posts a message word in MB_FROM_CORE and sets FROM_READY, or clears TO_PENDING. -/
  | mbFromCoreWrite (msg : Option Word)
  deriving DecidableEq, Repr

end Sys2Proof
end

