-- ==== Sys2Proof/Config.lean ====
section
/-!
DEFINITION. What the spec leaves without a value. Each constant is opaque: nothing can evaluate it or prove a value of it,
and State holds only the plain number it is applied to.
-/

namespace Sys2Proof

/-- A weight-plane entry that no TLOAD has written: undefined (R106). The numbers are the plane's identity, which is new
whenever its contents become undefined, and the cell 32i + j. -/
opaque Config.freeCell : Nat → Nat → Word

/-- The E8 scale byte of a plane's tile row that no TLOAD has written: undefined (R106). -/
opaque Config.freeScale : Nat → Nat → Byte

/-- The UNIFORM flag of a plane that no TLOAD has filled: undefined (R106). -/
opaque Config.freeUniform : Nat → Bool

/-- The result, if any, of an array operation whose plane has an undefined format (R106): an undefined product sum. -/
opaque Config.freeProduct : Nat → Nat → W40

/-- The mean that FIN forms of q with n = 0, for which R248 states no result. -/
opaque Config.freeMean : W40 → W40

/-- The combined q of R249 where a present pair's k container holds no finite integer, for which no result is stated. -/
opaque Config.freeCombineQ : List W40 → W40

/-- The combined k in that case. -/
opaque Config.freeCombineK : List W40 → Int

/-- The set of the weight cache, modulo 768, that a line of an object falls in: R21 to R25 give the sets but not the
function. Applied to the handle and the line offset. -/
opaque Config.cacheSet : Nat → Nat → Nat

/-- The bank of a buffer that holds a row: R381 speaks of banks and no rule lays them out. Applied to the buffer's code and the
row. -/
opaque Config.rowBank : Nat → Nat → Nat

/-- Whether an entry on its way between two clock domains is in its crossing when one side enters reset: R577 has the entries in
flight discarded, and no rule gives a crossing's fill. The numbers are a counter of State and the entry's place. -/
opaque Config.inCrossing : Nat → Nat → Bool

/-- What the spec calls undefined after an access or a host action it does not define; applied to a counter of State. -/
opaque Config.freeWord : Nat → Word

end Sys2Proof
end

