-- ==== Sys2Proof/Machine/Map.lean ====
section
/-!
DEFINITION. Sparse maps in one canonical form: a list of (key, value) pairs with strictly rising keys and no pair
that holds the default value. Every indexed piece of the block's state is held in one, so equal contents are equal data.
-/

namespace Sys2Proof.Machine

/-- A sparse map from numbers to `β`. What an unlisted key reads as is the default its reader names. -/
abbrev SMap (β : Type) := List (Nat × β)

/-- The value at key `i`, the default where the key is not listed. -/
def mapGet {β : Type} (d : β) : SMap β → Nat → β
  | [], _ => d
  | (k, v) :: m, i => if k = i then v else if i < k then d else mapGet d m i

/-- The list without its leading pairs whose key is at most `i`. -/
def mapDropTo {β : Type} (i : Nat) : SMap β → SMap β
  | [] => []
  | (k, v) :: m => if k ≤ i then mapDropTo i m else (k, v) :: m

/-- `m` with key `i` holding `b`. Storing the default removes the key. -/
def mapPut {β : Type} [DecidableEq β] (d : β) : SMap β → Nat → β → SMap β
  | [], i, b => if b = d then [] else [(i, b)]
  | (k, v) :: m, i, b =>
    if i < k then (if b = d then (k, v) :: m else (i, b) :: (k, v) :: m)
    else if i = k then (if b = d then mapDropTo i m else (i, b) :: m)
    else (k, v) :: mapPut d m i b

/-- Store a run of values at consecutive keys from `i`. -/
def mapPutRun {β : Type} [DecidableEq β] (d : β) : SMap β → Nat → List β → SMap β
  | m, _, [] => m
  | m, i, b :: bs => mapPutRun d (mapPut d m i b) (i + 1) bs

/-- Read a run of `n` values at consecutive keys from `i`. -/
def mapRun {β : Type} (d : β) (m : SMap β) (i n : Nat) : List β :=
  (List.range n).map fun k => mapGet d m (i + k)

/-- Every listed value replaced, pairs that become the default left out. -/
def mapVals {β : Type} [DecidableEq β] (d : β) (g : β → β) : SMap β → SMap β
  | [] => []
  | (k, v) :: m => if g v = d then mapVals d g m else (k, g v) :: mapVals d g m

/-- Every key is above `lo` (when given), keys rise strictly and no pair holds the default. -/
def mapWfFrom {β : Type} [DecidableEq β] (d : β) : Option Nat → SMap β → Bool
  | _, [] => true
  | lo, (k, v) :: m => (match lo with | none => true | some l => decide (l < k)) && !decide (v = d) && mapWfFrom d (some k) m

/-- The canonical form: keys rise strictly and no pair holds the default. -/
def mapWf {β : Type} [DecidableEq β] (d : β) (m : SMap β) : Bool := mapWfFrom d none m

/-- The list `f 0, …, f (n - 1)`. -/
def tab {β : Type} (n : Nat) (f : Nat → β) : List β := (List.range n).map f

end Sys2Proof.Machine
end

