-- ==== Sys2Proof/Machine/Num.lean ====
section
/-!
DEFINITION. Exact arithmetic for the thirteen formats (chapter 02): a value is a NaN, a signed infinity or an exact
dyadic number; every rounding of the engine is one call of a rounding function below.
-/

namespace Sys2Proof.Machine

/-- An exact value. `fin neg m e` is (−1)^neg × m × 2^e; `m = 0` is a zero of its sign. -/
inductive Num
  | nan
  | inf (neg : Bool)
  | fin (neg : Bool) (m : Nat) (e : Int)
  deriving DecidableEq, Repr

/-- Layout of a floating-point format (R41, Table 2-2): widths of exponent and mantissa, bias, and whether the
all-ones exponent encodes infinity and NaN (otherwise the code of negative zero is the one NaN). -/
structure FloatFmt where
  eb : Nat
  mb : Nat
  bias : Nat
  ieee : Bool
  deriving DecidableEq, Repr

/-- F4, 1/2/1 (Table 2-2). -/
def fmtF4 : FloatFmt := ⟨2, 1, 1, false⟩
/-- F6, 1/3/2. -/
def fmtF6 : FloatFmt := ⟨3, 2, 3, false⟩
/-- F8e4, 1/4/3. -/
def fmtF8e4 : FloatFmt := ⟨4, 3, 7, false⟩
/-- F8e5, 1/5/2. -/
def fmtF8e5 : FloatFmt := ⟨5, 2, 15, true⟩
/-- F16b, 1/8/7. -/
def fmtF16b : FloatFmt := ⟨8, 7, 127, true⟩
/-- F16h, 1/5/10. -/
def fmtF16h : FloatFmt := ⟨5, 10, 15, true⟩
/-- F32, 1/8/23. -/
def fmtF32 : FloatFmt := ⟨8, 23, 127, true⟩
/-- W40, 1/10/29. -/
def fmtW40 : FloatFmt := ⟨10, 29, 511, true⟩

/-- The number of significant bits of `m`, 0 for 0. -/
def bitLen (m : Nat) : Nat := if m = 0 then 0 else Nat.log2 m + 1

/-- `m / 2^k` rounded to nearest, ties to even. -/
def rneShift (m k : Nat) : Nat :=
  let q := m >>> k
  let r := m - (q <<< k)
  if k = 0 then m
  else if 2 * r < 2 ^ k then q
  else if 2 ^ k < 2 * r then q + 1
  else q + q % 2

/-- The exponent of the unit in the last place of the smallest binades: every finite value is a multiple of 2^it. -/
def ulpMin (f : FloatFmt) : Int := 1 - (f.bias : Int) - (f.mb : Int)

/-- The largest finite value as (integer, exponent). -/
def maxFinite (f : FloatFmt) : Nat × Int :=
  (2 ^ (f.mb + 1) - 1, (2 ^ f.eb - (if f.ieee then 2 else 1) : Int) - (f.bias : Int) - (f.mb : Int))

/-- Exponent of the unit kept when `m × 2^e` is rounded to `p` bits with no unit below 2^`lo`. -/
def unitOf (p : Nat) (lo : Int) (m : Nat) (e : Int) : Int := max lo (e + (bitLen m : Int) - (p : Int))

/-- `m × 2^e` rounded to nearest even to `p` significant bits, no unit below 2^`lo`: (integer, exponent). -/
def rneTo (p : Nat) (lo : Int) (m : Nat) (e : Int) : Nat × Int :=
  let q := unitOf p lo m e
  if q ≤ e then (m <<< (e - q).toNat, q) else (rneShift m (q - e).toNat, q)

/-- Whether `m1 × 2^e1 ≤ m2 × 2^e2`. -/
def magLe (m1 : Nat) (e1 : Int) (m2 : Nat) (e2 : Int) : Bool :=
  let e := min e1 e2
  decide (m1 <<< (e1 - e).toNat ≤ m2 <<< (e2 - e).toNat)

/-- The code of the canonical NaN (Table 2-2). -/
def nanCode (f : FloatFmt) : Nat :=
  if f.ieee then (2 ^ f.eb - 1) * 2 ^ f.mb + 2 ^ (f.mb - 1) else 2 ^ (f.eb + f.mb)

/-- The code of the infinity of a sign, in a format that has one. -/
def infCode (f : FloatFmt) (neg : Bool) : Nat :=
  (if neg then 2 ^ (f.eb + f.mb) else 0) + (2 ^ f.eb - 1) * 2 ^ f.mb

/-- The code of the largest finite value of a sign. -/
def maxCode (f : FloatFmt) (neg : Bool) : Nat :=
  (if neg then 2 ^ (f.eb + f.mb) else 0) + (if f.ieee then (2 ^ f.eb - 1) * 2 ^ f.mb - 1 else 2 ^ (f.eb + f.mb) - 1)

/-- The code of the zero of a sign; a format without negative zero gives +0 (R73). -/
def zeroCode (f : FloatFmt) (neg : Bool) : Nat := if neg && f.ieee then 2 ^ (f.eb + f.mb) else 0

/-- The code of the value ±m × 2^q already rounded to the format, in range. -/
def packCode (f : FloatFmt) (neg : Bool) (m : Nat) (q : Int) : Nat :=
  if m = 0 then zeroCode f neg
  else
    let carry := decide (2 ^ (f.mb + 1) ≤ m)
    let m' := if carry then m / 2 else m
    let q' := if carry then q + 1 else q
    let s := if neg then 2 ^ (f.eb + f.mb) else 0
    if m' < 2 ^ f.mb then s + m'
    else s + (q' + (f.mb : Int) + (f.bias : Int)).toNat * 2 ^ f.mb + (m' - 2 ^ f.mb)

/-- The value of a code (R41 to R45); a NaN of any payload is one NaN (R43). -/
def decodeFloat (f : FloatFmt) (code : Nat) : Num :=
  let mant := code % 2 ^ f.mb
  let ef := code / 2 ^ f.mb % 2 ^ f.eb
  let neg := decide (code / 2 ^ (f.eb + f.mb) % 2 = 1)
  if !f.ieee && neg && decide (mant = 0) && decide (ef = 0) then .nan
  else if f.ieee && decide (ef = 2 ^ f.eb - 1) then (if mant = 0 then .inf neg else .nan)
  else if ef = 0 then .fin neg mant (ulpMin f)
  else .fin neg (2 ^ f.mb + mant) ((ef : Int) - (f.bias : Int) - (f.mb : Int))

/-- The value of an integer. -/
def numOfInt (i : Int) : Num := .fin (decide (i < 0)) i.natAbs 0

/-- The value of an L32 code taken as its log₂ (R51, R76): CUT is −∞. -/
def numOfL32 (x : Word) : Num :=
  if x = 0x80000000#32 then .inf true else .fin (decide (x.toInt < 0)) x.toInt.natAbs (-24)

/-- The value of a code of any format (R41, R51, R54 to R56). -/
def decodeFmt (f : Fmt) (code : Nat) : Num :=
  match f with
  | .f4 => decodeFloat fmtF4 code
  | .f6 => decodeFloat fmtF6 code
  | .f8e4 => decodeFloat fmtF8e4 code
  | .f8e5 => decodeFloat fmtF8e5 code
  | .f16b => decodeFloat fmtF16b code
  | .f16h => decodeFloat fmtF16h code
  | .f32 => decodeFloat fmtF32 code
  | .w40 => decodeFloat fmtW40 code
  | .l32 => numOfL32 (BitVec.ofNat 32 code)
  | .i8 => numOfInt (BitVec.ofNat 8 code).toInt
  | .i16 => numOfInt (BitVec.ofNat 16 code).toInt
  | .i32 => numOfInt (BitVec.ofNat 32 code).toInt
  | .e8 => if code % 256 = 255 then .nan else .fin false 1 (Int.ofNat (code % 256) - 127)

/-- The value of an F32 code. -/
def f32v (x : Word) : Num := decodeFloat fmtF32 x.toNat
/-- The value of a W40 code. -/
def w40v (x : W40) : Num := decodeFloat fmtW40 x.toNat

/-- The value with its sign reversed. -/
def numNeg : Num → Num
  | .nan => .nan
  | .inf n => .inf (!n)
  | .fin n m e => .fin (!n) m e

/-- The magnitude. -/
def numAbs : Num → Num
  | .nan => .nan
  | .inf _ => .inf false
  | .fin _ m e => .fin false m e

/-- Whether the value is a zero. -/
def numIsZero : Num → Bool
  | .fin _ 0 _ => true
  | _ => false

/-- Exact product, specials as in Table 2-5. -/
def numMul : Num → Num → Num
  | .nan, _ => .nan
  | _, .nan => .nan
  | .inf a, .inf b => .inf (xor a b)
  | .inf a, .fin b m _ => if m = 0 then .nan else .inf (xor a b)
  | .fin a m _, .inf b => if m = 0 then .nan else .inf (xor a b)
  | .fin a m e, .fin b n g => .fin (xor a b) (m * n) (e + g)

/-- The integer that ±m × 2^e is, in units of 2^lo (lo ≤ e). -/
def scaledInt (neg : Bool) (m : Nat) (e lo : Int) : Int :=
  let v := Int.ofNat (m <<< (e - lo).toNat)
  if neg then -v else v

/-- Exact sum, specials and the sign of a zero sum as in Table 2-5. -/
def numAdd : Num → Num → Num
  | .nan, _ => .nan
  | _, .nan => .nan
  | .inf a, .inf b => if a = b then .inf a else .nan
  | .inf a, .fin _ _ _ => .inf a
  | .fin _ _ _, .inf b => .inf b
  | .fin a m e, .fin b n g =>
    let lo := min e g
    let t := scaledInt a m e lo + scaledInt b n g lo
    if t = 0 then .fin (a && b && decide (m = 0) && decide (n = 0)) 0 lo
    else .fin (decide (t < 0)) t.natAbs lo

/-- Difference. -/
def numSub (a b : Num) : Num := numAdd a (numNeg b)

/-- The value times 2^k, exact. -/
def numScale (k : Int) : Num → Num
  | .fin n m e => .fin n m (e + k)
  | x => x

/-- ⌊log₂ |x|⌋ of a nonzero finite magnitude. -/
def floorLog2 (m : Nat) (e : Int) : Int := (bitLen m : Int) - 1 + e

/-- Order of two values that are not NaN, −0 equal to +0: whether `a < b`. -/
def numLt : Num → Num → Bool
  | .nan, _ => false
  | _, .nan => false
  | .inf a, .inf b => a && !b
  | .inf a, .fin _ _ _ => a
  | .fin _ _ _, .inf b => !b
  | .fin a m e, .fin b n g =>
    let lo := min e g
    decide (scaledInt a m e lo < scaledInt b n g lo)

/-- Whether two values that are not NaN are equal, −0 equal to +0. -/
def numEq (a b : Num) : Bool :=
  match a, b with
  | .nan, _ => false
  | _, .nan => false
  | a, b => !numLt a b && !numLt b a

/-- A rounding to a float format: the code, and whether a finite value was beyond range (R68) and gave the largest
finite value of its sign. An infinity keeps its sign in a format that has one. -/
def roundFloat (f : FloatFmt) : Num → Nat × Bool
  | .nan => (nanCode f, false)
  | .inf n => (if f.ieee then infCode f n else maxCode f n, false)
  | .fin n m e =>
    let r := rneTo (f.mb + 1) (ulpMin f) m e
    let top := maxFinite f
    if magLe r.1 r.2 top.1 top.2 then (packCode f n r.1 r.2, false) else (maxCode f n, true)

/-- Round to W40 (R46, Table 2-5): the code, and whether it saturated (NUM_ACC_SAT). -/
def roundW40 (x : Num) : W40 × Bool :=
  let r := roundFloat fmtW40 x
  (BitVec.ofNat 40 r.1, r.2)

/-- Round to F32 with the saturation of R268: the code, and whether it saturated. -/
def roundF32 (x : Num) : Word × Bool :=
  let r := roundFloat fmtF32 x
  (BitVec.ofNat 32 r.1, r.2)

/-- The canonical W40 NaN. -/
def w40NaN : W40 := 0x7FF0000000#40

/-- The unbiased exponent of a W40 value, −510 for zero and subnormals (R47). -/
def w40Exp (v : W40) : Int :=
  let ef := v.toNat / 2 ^ 29 % 1024
  if ef = 0 then -510 else Int.ofNat ef - 511

/-- Whether a W40 code is an infinity or a NaN. -/
def w40Special (v : W40) : Bool := decide (v.toNat / 2 ^ 29 % 1024 = 1023)

/-- The W40 part of an entry. -/
def entryW (x : Entry) : W40 := x.setWidth 40
/-- The C16 part of an entry. -/
def entryC (x : Entry) : BitVec 16 := (x >>> 40).setWidth 16
/-- An entry from its W40 and its C16. -/
def mkEntry (v : W40) (c : BitVec 16) : Entry := (c.setWidth 56 <<< 40) ||| v.setWidth 56

/-- The compensated value v + c × 2^(E − 45) of an entry (R47, R50). -/
def entryValue (x : Entry) : Num :=
  let v := entryW x
  if w40Special v then w40v v
  else
    let c := (entryC x).toInt
    if c = 0 then w40v v else numAdd (w40v v) (.fin (decide (c < 0)) c.natAbs (w40Exp v - 45))

/-- The residual z − v in units of 2^(E − 45), rounded to nearest even (R48). -/
def compResidual (z : Num) (v : W40) : Int :=
  match numSub z (w40v v) with
  | .fin n m e =>
    let u := w40Exp v - 45
    let k := if u ≤ e then m <<< (e - u).toNat else rneShift m (u - e).toNat
    if n then -(k : Int) else (k : Int)
  | _ => 0

/-- The W40 code adjacent to a finite `v` in the direction of +∞. -/
def w40Up (v : W40) : W40 :=
  if v = 0x8000000000#40 then 0x0000000001#40
  else if v.toNat < 2 ^ 39 then v + 1 else v - 1

/-- The compensated pair that holds `z` (R48 to R50), and whether v saturated. -/
def roundComp (z : Num) : Entry × Bool :=
  match z with
  | .fin n m e =>
    let r := roundW40 z
    let top := maxFinite fmtW40
    if !magLe m e top.1 top.2 then (mkEntry (BitVec.ofNat 40 (maxCode fmtW40 n)) 0, true)
    else
      let c := compResidual z r.1
      if c = 32768 then
        let v := w40Up r.1
        (mkEntry v (BitVec.ofInt 16 (compResidual z v)), false)
      else (mkEntry r.1 (BitVec.ofInt 16 c), false)
  | z => (mkEntry (roundW40 z).1 0, false)

/-- L32 CUT, MIN, ONE and MAX (Table 2-6). -/
def l32Cut : Word := 0x80000000#32
/-- The smallest finite code. -/
def l32Min : Word := 0x80000001#32
/-- The decay 1. -/
def l32One : Word := 0#32
/-- The largest code. -/
def l32Max : Word := 0x7FFFFFFF#32

/-- Composition of two L32 decays and whether it saturated (R52, R53). -/
def composeL32 (a b : Word) : Word × Bool :=
  if a = l32Cut ∨ b = l32Cut then (l32Cut, false)
  else
    let t := a.toInt + b.toInt
    if t > 0x7FFFFFFF then (l32Max, true)
    else if t < -0x7FFFFFFF then (l32Min, true)
    else (BitVec.ofInt 32 t, false)

end Sys2Proof.Machine
end

