-- ==== Sys2Proof/Machine/Decay.lean ====
section
/-!
DEFINITION. Powers of two of a fixed-point exponent, the decay units of R110 and the group reduction of R94.
-/

namespace Sys2Proof.Machine

/-- 2^(2^-1), …, 2^(2^-24), each in units of 2^-128, rounded down. -/
def rootTable : List Nat :=
  [0x16A09E667F3BCC908B2FB1366EA957D3E,0x1306FE0A31B7152DE8D5A46305C85EDEC,
   0x1172B83C7D517ADCDF7C8C50EB14A7920,0x10B5586CF9890F6298B92B71842A98364,
   0x1059B0D31585743AE7C548EB68CA417FE,0x102C9A3E778060EE6F7CACA4F7A29BDE9,
   0x10163DA9FB33356D84A66AE336DCDFA40,0x100B1AFA5ABCBED6129AB13EC11DC9544,
   0x10058C86DA1C09EA1FF19D294CF2F679C,0x1002C605E2E8CEC506D21BFC89A23A010,
   0x100162F3904051FA128BCA9C55C31E5E0,0x1000B175EFFDC76BA38E31671CA939726,
   0x100058BA01FB9F96D6CACD4B180917C3E,0x10002C5CC37DA9491D0985C348C68E7B3,
   0x1000162E525EE054754457D5995292026,0x10000B17255775C040618BF4A4ADE83FC,
   0x1000058B91B5BC9AE2EED81E9B7D4CFAC,0x100002C5C89D5EC6CA4D7C8ACC017B7C9,
   0x10000162E43F4F831060E02D839A9D16D,0x100000B1721BCFC99D9F890EA06911763,
   0x10000058B90CF1E6D97F9CA14DBCC1628,0x1000002C5C863B73F016468F6BAC5CA2C,
   0x100000162E430E5A18F6119E3C02282A5,0x1000000B1721835514B86E6D96EFD1BFF]

/-- 2^(f / 2^24) in units of 2^-128, for a fraction of 24 bits: the product of the roots its set bits name. -/
def pow2Frac (f : Nat) : Nat :=
  (rootTable.zipIdx).foldl (fun a p => if f.testBit (23 - p.2) then (a * p.1) >>> 128 else a) (2 ^ 128)

/-- The linear factor δ of an L32 decay: 2^(x / 2^24) rounded to nearest even to a 32-bit significand, exactly 1 for
ONE and exactly 0 for CUT (R110, R174). -/
def decayFactor (x : Word) : Num :=
  if x = l32Cut then .fin false 0 0
  else
    let i := x.toInt
    let n := i / 2 ^ 24
    let p := pow2Frac (i % 2 ^ 24).toNat
    let r := rneTo 32 (-100000) p (n - 128)
    .fin false r.1 r.2

/-- Whether some product is a NaN, or infinities of both signs are present (R94). -/
def groupNaN (l : List Num) : Bool :=
  l.any (fun p => decide (p = .nan)) || (l.any (fun p => decide (p = .inf false)) && l.any (fun p => decide (p = .inf true)))

/-- ⌊log₂⌋ of the largest nonzero product, `none` when every product is zero. -/
def groupTop (l : List Num) : Option Int :=
  l.foldl (fun a p => match p with
    | .fin _ m e => if m = 0 then a else match a with
      | none => some (floorLog2 m e)
      | some t => some (max t (floorLog2 m e))
    | _ => a) none

/-- A product truncated toward zero in units of 2^`q`. -/
def truncAt (q : Int) : Num → Int
  | .fin n m e =>
    let k := if q ≤ e then m <<< (e - q).toNat else m >>> (q - e).toNat
    if n then -Int.ofNat k else Int.ofNat k
  | _ => 0

/-- The group sum g of R94 before the accumulator: 26 bit positions from the largest product's leading bit, no
sticky bit, the block-scale pair applied exactly. -/
def groupSum (l : List Num) (ePair : Int) : Num :=
  if groupNaN l then .nan
  else if l.any (fun p => decide (p = .inf false)) then .inf false
  else if l.any (fun p => decide (p = .inf true)) then .inf true
  else match groupTop l with
    | none => .fin false 0 0
    | some top =>
      let q := top - 25
      let t := (l.map (truncAt q)).foldl (· + ·) 0
      .fin (decide (t < 0)) t.natAbs (q + ePair)

/-- reduce_group of R94: the accumulator is the W40 partial sum when the operation accumulates. The second part says
whether the result saturated. -/
def reduceGroup (l : List Num) (ePair : Int) (acc : Option W40) : W40 × Bool :=
  match acc with
  | none => roundW40 (groupSum l ePair)
  | some a => roundW40 (numAdd (w40v a) (groupSum l ePair))

end Sys2Proof.Machine
end

