-- ==== Sys2Proof/Machine/Conv.lean ====
section
/-!
DEFINITION. Conversion between formats (R57 to R80): the conversion descriptor, rounding to each target and what it
counts, stochastic rounding and its generators, block-scale generation, and the packing of elements in rows.
-/

namespace Sys2Proof.Machine

/-- The numeric events of one operation, one count for each register of Table 2-11. -/
structure NumEv where
  sat : Nat := 0
  infClamp : Nat := 0
  ovfInf : Nat := 0
  nanLoss : Nat := 0
  accSat : Nat := 0
  l32Sat : Nat := 0
  scaleClamp : Nat := 0
  deriving DecidableEq, Repr

/-- The events of two operations together. -/
def evAdd (a b : NumEv) : NumEv :=
  ⟨a.sat + b.sat, a.infClamp + b.infClamp, a.ovfInf + b.ovfInf, a.nanLoss + b.nanLoss, a.accSat + b.accSat,
   a.l32Sat + b.l32Sat, a.scaleClamp + b.scaleClamp⟩

/-- No event. -/
def evNone : NumEv := {}

/-- The events of a list of operations. -/
def evSum (l : List NumEv) : NumEv := l.foldl evAdd evNone

/-- One NUM_ACC_SAT when `b`. -/
def evAcc (b : Bool) : NumEv := { accSat := if b then 1 else 0 }
/-- One NUM_L32_SAT when `b`. -/
def evL32 (b : Bool) : NumEv := { l32Sat := if b then 1 else 0 }

/-- The float layout of a format code, `none` for L32, the integers and E8. -/
def floatOf : Fmt → Option FloatFmt
  | .f4 => some fmtF4
  | .f6 => some fmtF6
  | .f8e4 => some fmtF8e4
  | .f8e5 => some fmtF8e5
  | .f16b => some fmtF16b
  | .f16h => some fmtF16h
  | .f32 => some fmtF32
  | .w40 => some fmtW40
  | .l32 => none
  | .i8 => none
  | .i16 => none
  | .i32 => none
  | .e8 => none

/-- Storage bits of an element (Table 2-7). -/
def fmtBits : Fmt → Nat
  | .f4 => 4
  | .f6 => 6
  | .f8e4 => 8
  | .f8e5 => 8
  | .f16b => 16
  | .f16h => 16
  | .f32 => 32
  | .w40 => 64
  | .l32 => 32
  | .i8 => 8
  | .i16 => 16
  | .i32 => 32
  | .e8 => 8

/-- Whether the format is a scaled element format (chapter 02, "Format codes"). -/
def fmtScaled : Fmt → Bool
  | .f4 => true
  | .f6 => true
  | .f8e4 => true
  | .f8e5 => true
  | .i8 => true
  | .f16b => false
  | .f16h => false
  | .f32 => false
  | .w40 => false
  | .l32 => false
  | .i16 => false
  | .i32 => false
  | .e8 => false

/-- Elements in a row (Table 2-7). -/
def fmtPerRow : Fmt → Nat
  | .f4 => 256
  | .f6 => 160
  | .f8e4 => 128
  | .f8e5 => 128
  | .f16b => 64
  | .f16h => 64
  | .f32 => 32
  | .w40 => 16
  | .l32 => 32
  | .i8 => 128
  | .i16 => 64
  | .i32 => 32
  | .e8 => 128

/-- Whether a descriptor is one that R67 accepts. -/
def cvtLegal (d : Cvt) : Bool :=
  !decide (d.target = .e8)
  && (!d.stoch || decide (d.target = .f4 ∨ d.target = .f6 ∨ d.target = .f8e4 ∨ d.target = .f8e5))
  && (!d.ovf || (match floatOf d.target with | some f => f.ieee | none => false))
  && (!d.scale || fmtScaled d.target)

/-- ±(m × 2^e) rounded under R77 with the draw `r`: the unit is the one nearest-even rounding would keep; the
sixteen bits below it are compared with the draw. -/
def stochTo (p : Nat) (lo : Int) (m : Nat) (e : Int) (r : Nat) : Nat × Int :=
  let q := unitOf p lo m e
  if q ≤ e then (m <<< (e - q).toNat, q)
  else
    let k := (q - e).toNat
    let whole := m >>> k
    let frac := m - (whole <<< k)
    let f16 := (frac * 65536) >>> k
    (if 65536 ≤ f16 + r then whole + 1 else whole, q)

/-- Conversion of a finite value to a float target (R68 to R70, R73, R77). -/
def convFinite (f : FloatFmt) (r : Option Nat) (ovf : Bool) (neg : Bool) (m : Nat) (e : Int) : Nat × NumEv :=
  let n := rneTo (f.mb + 1) (ulpMin f) m e
  let top := maxFinite f
  if magLe n.1 n.2 top.1 top.2 then
    match r with
    | none => (packCode f neg n.1 n.2, evNone)
    | some r =>
      let t := stochTo (f.mb + 1) (ulpMin f) m e r
      if magLe t.1 t.2 top.1 top.2 then (packCode f neg t.1 t.2, evNone) else (maxCode f neg, evNone)
  else if ovf && f.ieee then (infCode f neg, { ovfInf := 1 })
  else (maxCode f neg, { sat := 1 })

/-- A finite value in units of 2^`u`, rounded to nearest even. -/
def rneInt (neg : Bool) (m : Nat) (e u : Int) : Int :=
  let k := if u ≤ e then m <<< (e - u).toNat else rneShift m (u - e).toNat
  if neg then -(k : Int) else (k : Int)

/-- Conversion to a two's-complement integer of `w` bits (R69, R71, R72, R74). -/
def convInt (w : Nat) : Num → Nat × NumEv
  | .nan => (0, { nanLoss := 1 })
  | .inf n => (if n then 2 ^ (w - 1) else 2 ^ (w - 1) - 1, { infClamp := 1 })
  | .fin n m e =>
    let v := rneInt n m e 0
    if v > 2 ^ (w - 1) - 1 then (2 ^ (w - 1) - 1, { sat := 1 })
    else if v < -2 ^ (w - 1) then (2 ^ (w - 1), { sat := 1 })
    else ((v % 2 ^ w).toNat, evNone)

/-- Conversion of a value, taken as a log₂, to L32 (R75, R72). -/
def convL32 : Num → Nat × NumEv
  | .nan => (0x80000000, { nanLoss := 1 })
  | .inf n => if n then (0x80000000, evNone) else (0x7FFFFFFF, { infClamp := 1 })
  | .fin n m e =>
    let v := rneInt n m e (-24)
    if v > 0x7FFFFFFF then (0x7FFFFFFF, { sat := 1 })
    else if v < -0x7FFFFFFF then (0x80000001, { sat := 1 })
    else ((v % 2 ^ 32).toNat, evNone)

/-- Conversion of one value under TARGET, RND (the draw of R77 when stochastic) and OVF (R66 to R76). E8 is no
target (R56); its code 0xFF, the invalid block, answers there. -/
def convert (t : Fmt) (r : Option Nat) (ovf : Bool) (x : Num) : Nat × NumEv :=
  let flt (f : FloatFmt) : Nat × NumEv :=
    match x with
    | .nan => (nanCode f, evNone)
    | .inf n => if f.ieee then (infCode f n, evNone) else (maxCode f n, { infClamp := 1 })
    | .fin n m e => convFinite f r ovf n m e
  match t with
  | .f4 => flt fmtF4
  | .f6 => flt fmtF6
  | .f8e4 => flt fmtF8e4
  | .f8e5 => flt fmtF8e5
  | .f16b => flt fmtF16b
  | .f16h => flt fmtF16h
  | .f32 => flt fmtF32
  | .w40 => flt fmtW40
  | .l32 => convL32 x
  | .i8 => convInt 8 x
  | .i16 => convInt 16 x
  | .i32 => convInt 32 x
  | .e8 => (255, evNone)

/-- One step of the Galois LFSR x³² + x²² + x² + x + 1, shifting right (R78). -/
def lfsrStep (g : Word) : Word := if g.getLsbD 0 then (g >>> 1) ^^^ 0x80200003#32 else g >>> 1

/-- `n` steps of the LFSR. -/
def lfsrSteps : Nat → Word → Word
  | 0, g => g
  | n + 1, g => lfsrSteps n (lfsrStep g)

/-- The generator after one converted element: 16 steps (R78). Its low 16 bits are the draw. -/
def srAdvance (g : Word) : Word := lfsrSteps 16 g

/-- The generator of lane `i` under a seed (R79). -/
def srSeed (seed : Word) (i : Nat) : Word :=
  let v := seed ^^^ BitVec.ofNat 32 (i * 0x01010101)
  if v = 0#32 then 1#32 else v

/-- emax of a scaled target (chapter 02, "Two-level scaling"), 0 otherwise. -/
def emaxOf : Fmt → Int
  | .f4 => 2
  | .f6 => 4
  | .f8e4 => 8
  | .f8e5 => 15
  | .i8 => 6
  | .f16b => 0
  | .f16h => 0
  | .f32 => 0
  | .w40 => 0
  | .l32 => 0
  | .i16 => 0
  | .i32 => 0
  | .e8 => 0

/-- Whether |m × 2^e| rounds to nearest even beyond the largest finite value of a scaled target. -/
def roundsBeyond (t : Fmt) (m : Nat) (e : Int) : Bool :=
  match floatOf t with
  | some f =>
    let n := rneTo (f.mb + 1) (ulpMin f) m e
    let top := maxFinite f
    !magLe n.1 n.2 top.1 top.2
  | none => decide (rneInt false m e 0 > 127)

/-- The larger of two magnitudes. -/
def magMax (a b : Nat × Int) : Nat × Int := if magLe a.1 a.2 b.1 b.2 then b else a

/-- The largest finite nonzero magnitude of a list, (0, 0) when there is none. -/
def amaxOf (x : List Num) : Nat × Int :=
  x.foldl (fun a v => match v with
    | .fin _ m e => if m = 0 then a else if a.1 = 0 then (m, e) else magMax a (m, e)
    | _ => a) (0, 0)

/-- The block's E8 code and whether it was clamped (R65). -/
def blockScale (t : Fmt) (x : List Num) : Nat × NumEv :=
  let a := amaxOf x
  if a.1 = 0 then (127, evNone)
  else
    let s := floorLog2 a.1 a.2 - emaxOf t
    let s := if roundsBeyond t a.1 (a.2 - s) then s + 1 else s
    let e := s + 127
    if e < 0 then (0, { scaleClamp := 1 })
    else if e > 254 then (254, { scaleClamp := 1 })
    else (e.toNat, evNone)

/-- The field of `w` bits at bit `lo` of a row. -/
def rowField (r : Row) (lo w : Nat) : Nat := r.toNat / 2 ^ lo % 2 ^ w

/-- Element `i` of a row of a format (R57); of a W40 row the container's [39:0]. DESIGN CHOICE (log entry 115): a C16 in the
container takes no part. -/
def rowElem (f : Fmt) (r : Row) (i : Nat) : Nat :=
  match f with
  | .w40 => rowField r (64 * i) 40
  | f => rowField r (fmtBits f * i) (fmtBits f)

/-- A row from the element codes of a format, unused bits 0 (R57, R58). -/
def packRow (f : Fmt) (l : List Nat) : Row :=
  BitVec.ofNat 1024 ((l.zipIdx).foldl (fun a p => a + p.1 % 2 ^ fmtBits f * 2 ^ (fmtBits f * p.2)) 0)

/-- A row with the elements from `i` replaced by the codes of `l`. -/
def rowPutRun (f : Fmt) (r : Row) (i : Nat) (l : List Nat) : Row :=
  let w := fmtBits f * l.length
  let lo := fmtBits f * i
  let v := (l.zipIdx).foldl (fun a p => a + p.1 % 2 ^ fmtBits f * 2 ^ (fmtBits f * p.2)) 0
  let n := r.toNat
  BitVec.ofNat 1024 (n % 2 ^ lo + v * 2 ^ lo + n / 2 ^ (lo + w) * 2 ^ (lo + w))

end Sys2Proof.Machine
end

