-- ==== Sys2Proof/Machine/Elem.lean ====
section
/-!
DEFINITION. Elementwise, reducing and prefix arithmetic of the vector engine (R266 to R273), on lists of 32-bit
elements.
-/

namespace Sys2Proof.Machine

/-- Bits of an integer width. -/
def wbits : IWid → Nat
  | .w8 => 8
  | .w16 => 16
  | .w32 => 32

/-- A result and how often F32 arithmetic saturated in it (VEC_F32_SAT) beside its numeric events. -/
structure Elt where
  val : Word
  f32Sat : Nat := 0
  ev : NumEv := {}
  deriving DecidableEq, Repr

/-- A plain result. -/
def eltOf (x : Word) : Elt := { val := x }

/-- The integer an element holds at a width: its low bits, sign-extended (R260, R266). -/
def intAt (w : IWid) (x : Word) : Int :=
  match w with
  | .w8 => (x.setWidth 8).toInt
  | .w16 => (x.setWidth 16).toInt
  | .w32 => x.toInt

/-- An exact integer saturated to a width and held sign-extended (R54, R266). -/
def satInt (w : IWid) (v : Int) : Elt :=
  let top : Int := 2 ^ (wbits w - 1) - 1
  if v > top then { val := BitVec.ofInt 32 top, ev := evAcc true }
  else if v < -top - 1 then { val := BitVec.ofInt 32 (-top - 1), ev := evAcc true }
  else { val := BitVec.ofInt 32 v }

/-- An exact integer under WRAP: modulo 2³² at width 32 (R266); the bundle table allows WRAP at width 32 only. -/
def wrapInt (wrap : Bool) (w : IWid) (v : Int) : Elt := if wrap then { val := BitVec.ofInt 32 v } else satInt w v

/-- An exact value as an F32 element (R268). -/
def f32Elt (x : Num) : Elt :=
  let r := roundF32 x
  { val := r.1, f32Sat := if r.2 then 1 else 0 }

/-- ZCLAMP (R269): a negative result or −0 becomes +0, a NaN stays NaN. -/
def zclamp (on : Bool) (r : Elt) : Elt :=
  if on && r.val.getLsbD 31 && !decide (f32v r.val = .nan) then { r with val := 0#32 } else r

/-- FADD. -/
def fAdd (a b : Word) : Elt := f32Elt (numAdd (f32v a) (f32v b))
/-- FSUB. -/
def fSub (a b : Word) : Elt := f32Elt (numSub (f32v a) (f32v b))
/-- FMUL. -/
def fMul (a b : Word) : Elt := f32Elt (numMul (f32v a) (f32v b))
/-- FMA: a·b + c, one rounding. -/
def fFma (a b c : Word) : Elt := f32Elt (numAdd (numMul (f32v a) (f32v b)) (f32v c))

/-- The canonical F32 NaN. -/
def f32NaN : Word := 0x7FC00000#32

/-- Whether `a` precedes `b` in F32 order with −0 less than +0 (R268); neither is NaN. -/
def f32Less (a b : Word) : Bool :=
  numLt (f32v a) (f32v b) || (numEq (f32v a) (f32v b) && a.getLsbD 31 && !b.getLsbD 31)

/-- FMIN (R268). -/
def fMin (a b : Word) : Word :=
  if f32v a = .nan ∨ f32v b = .nan then f32NaN else if f32Less b a then b else a

/-- FMAX (R268). -/
def fMax (a b : Word) : Word :=
  if f32v a = .nan ∨ f32v b = .nan then f32NaN else if f32Less a b then b else a

/-- FABS and FNEG; a NaN gives the canonical NaN (R43). -/
def fAbs (a : Word) : Word := if f32v a = .nan then f32NaN else a &&& 0x7FFFFFFF#32
/-- FNEG. -/
def fNeg (a : Word) : Word := if f32v a = .nan then f32NaN else a ^^^ 0x80000000#32

/-- Minimum of a type (R268, R270). -/
def tyMin (t : ETy) (a b : Word) : Word :=
  match t with
  | .f32 => fMin a b
  | .i32 => if b.toInt < a.toInt then b else a
  | .l32 => if b.toInt < a.toInt then b else a

/-- Maximum of a type. -/
def tyMax (t : ETy) (a b : Word) : Word :=
  match t with
  | .f32 => fMax a b
  | .i32 => if a.toInt < b.toInt then b else a
  | .l32 => if a.toInt < b.toInt then b else a

/-- Whether `a < b` in a type's order (R270). -/
def tyLt (t : ETy) (a b : Word) : Bool :=
  match t with
  | .f32 => numLt (f32v a) (f32v b)
  | .i32 => decide (a.toInt < b.toInt)
  | .l32 => decide (a.toInt < b.toInt)

/-- Whether `a` equals `b` in a type's order. -/
def tyEq (t : ETy) (a b : Word) : Bool :=
  match t with
  | .f32 => numEq (f32v a) (f32v b)
  | .i32 => decide (a = b)
  | .l32 => decide (a = b)

/-- CMP of one element (R270): with a NaN operand every condition but NE is false. -/
def cmpElt (t : ETy) (c : Cond) (a b : Word) : Bool :=
  match c with
  | .eq => tyEq t a b
  | .ne => !tyEq t a b
  | .lt => tyLt t a b
  | .le => tyLt t a b || tyEq t a b
  | .gt => tyLt t b a
  | .ge => tyLt t b a || tyEq t a b

/-- Composition of L32 decays as an element (R271). -/
def lComp (a b : Word) : Elt :=
  let r := composeL32 a b
  { val := r.1, ev := evL32 r.2 }

/-- Two elements' counts joined to a third value. -/
def eltJoin (a b : Elt) (r : Elt) : Elt :=
  { val := r.val, f32Sat := a.f32Sat + b.f32Sat + r.f32Sat, ev := evAdd (evAdd a.ev b.ev) r.ev }

/-- One level of the balanced pairwise tree: sums of elements 2i and 2i + 1 (R273). -/
def pairLevel : List Elt → List Elt
  | a :: b :: l => eltJoin a b (fAdd a.val b.val) :: pairLevel l
  | l => l

/-- `k` levels of the tree. -/
def pairTree : Nat → List Elt → List Elt
  | 0, l => l
  | k + 1, l => pairTree k (pairLevel l)

/-- The F32 sum of 2^k elements by the balanced pairwise tree in position order (R273). -/
def treeSum (l : List Word) : Elt :=
  match pairTree (Nat.log2 l.length) (l.map eltOf) with
  | a :: _ => a
  | [] => eltOf 0#32

/-- Sizes of the aligned blocks of positions 0 to n − 1: the powers of two of n's binary digits, descending (R273). -/
def blockSizes (n : Nat) : List Nat :=
  ((List.range 9).reverse.map fun b => if n.testBit b then 2 ^ b else 0).filter (fun k => decide (0 < k))

/-- Sums of consecutive blocks of the given sizes. -/
def blockSums : List Nat → List Word → List Elt
  | [], _ => []
  | k :: ks, l => treeSum (l.take k) :: blockSums ks (l.drop k)

/-- The F32 sum of positions 0 to n − 1 as a SUM prefix forms it: block sums added from left to right (R273). -/
def prefixSum (l : List Word) : Elt :=
  match blockSums (blockSizes l.length) l with
  | [] => eltOf 0#32
  | b :: bs => bs.foldl (fun a x => eltJoin a x (fAdd a.val x.val)) b

/-- The identity an inactive element enters as (R273). -/
def redIdent (op : ROp) (t : ETy) : Word :=
  match op with
  | .sum => 0x80000000#32
  | .lcomp => l32One
  | .min => match t with
    | .f32 => 0x7F800000#32
    | .i32 => 0x7FFFFFFF#32
    | .l32 => 0x7FFFFFFF#32
  | .max => match t with
    | .f32 => 0xFF800000#32
    | .i32 => 0x80000000#32
    | .l32 => 0x80000000#32

/-- Left-to-right composition of L32 codes (R271). -/
def compAll : List Word → Elt
  | [] => eltOf l32One
  | x :: xs => xs.foldl (fun a y => eltJoin a (eltOf y) (lComp a.val y)) (eltOf x)

/-- Left-to-right fold by a minimum or maximum. -/
def foldTy (f : Word → Word → Word) (d : Word) : List Word → Elt
  | [] => eltOf d
  | x :: xs => eltOf (xs.foldl f x)

/-- A reduction over elements, inactive ones already replaced by the identity; `live` says whether any is active. -/
def reduceElems (op : ROp) (t : ETy) (live : Bool) (l : List Word) : Elt :=
  match op with
  | .sum => if live then treeSum l else eltOf 0#32
  | .min => foldTy (tyMin t) (redIdent .min t) l
  | .max => foldTy (tyMax t) (redIdent .max t) l
  | .lcomp => compAll l

/-- An F32 result with a NaN in its canonical code (R43). -/
def canonElt (t : ETy) (r : Elt) : Elt := if t = .f32 ∧ f32v r.val = .nan then { r with val := f32NaN } else r

/-- The prefix over elements up to and including the last (R43, R271, R273). An LCOMP prefix counts the last composition
only: the earlier ones are counted at their own positions. DEDUCED (log entry 70): a NaN that stands alone is canonical. -/
def prefixElems (op : ROp) (t : ETy) (l : List Word) : Elt :=
  match op with
  | .sum => canonElt .f32 (prefixSum l)
  | .min => canonElt t (foldTy (tyMin t) (redIdent .min t) l)
  | .max => canonElt t (foldTy (tyMax t) (redIdent .max t) l)
  | .lcomp => match l.getLast? with
    | none => eltOf l32One
    | some x => if l.length = 1 then eltOf x else lComp (compAll l.dropLast).val x

end Sys2Proof.Machine
end

