-- ==== Sys2Proof/Machine/Parts.lean ====
section
/-!
DEFINITION. The parts of State as plain data: one structure for each piece of the block that the spec gives state to.
A `SMap` is a sparse map; its key and its default are said where the field is declared.
-/

namespace Sys2Proof.Machine

/-- What the SECDED check bits of a stored word find: clean, correctable or uncorrectable (R137, R330, R380). -/
inductive Ecc
  | ok | ce | ue
  deriving DecidableEq, Repr

/-- One state tile (R135, R140): entries by e = 32i + j, default 0; the ECC finding of each field of an entry, default clean,
by 2e for VALUE with its check bits and 2e + 1 for COMP with its own. -/
structure Tile where
  ent : SMap Entry := []
  err : SMap Ecc := []
  mire : Bool := false
  invalid : Bool := true
  frozen : Bool := false
  deriving DecidableEq, Repr

/-- One weight plane of an array (R83, R97, R98, R106). `cells` is keyed by 32i + j and `scales` by scale byte, both
`none` where undefined; `id` is what the free values of the undefined ones are applied to. `loading` holds the quadrants that
mired rows of the TLOAD now filling the plane from its first row have reached. -/
structure Plane where
  id : Nat := 0
  fmt : Option WFmt := none
  sc : Bool := false
  cells : SMap (Option Word) := []
  scales : SMap (Option Byte) := []
  uniform : Option Bool := none
  mire : BitVec 4 := 0
  loading : Option (BitVec 4) := none
  deriving DecidableEq, Repr

/-- One array's planes and occupancy (R119, R121, R203): `compCk` is the CK in which a COMP = 1 operation still occupies
it, `portTo` the CK before which its state port is held, `stateCk` the CK of the last state operation's issue, `scrub` the
depth the scrubber is at with the fields of its pending write-back, if any, and `scrubAt` the CK from which it may work. -/
structure ArrayState where
  front : Plane := {}
  back : Plane := {}
  compCk : Option Nat := none
  portTo : Nat := 0
  stateCk : Option Nat := none
  scrub : Nat := 0
  scrubRead : Option (List Nat) := none
  scrubAt : Nat := 0
  deriving DecidableEq, Repr

/-- A TLOAD held by the load bus (R104, R108). Once it has started, `start` is the CK of its first read and `shown` how
many of its rows are in the back planes. -/
structure LoadJob where
  op : TLoadOp
  issued : Nat
  start : Option Nat
  shown : Nat
  deriving DecidableEq, Repr

/-- A pointer register (R360). -/
structure Ptr where
  buf : BufId := .w
  slot : Nat := 0
  row : Nat := 0
  deriving DecidableEq, Repr

/-- The carry context (Table 9-13, CSET). -/
structure CarryCtx where
  scan : Fin 16 := 0
  vbase : Fin 32 := 0
  abs : Bool := false
  ret : RetKind := .none
  deriving DecidableEq, Repr

/-- A row in progress of RMS normalisation (R248, R356): q, k (`none` before any nonzero element), after FIN the
reciprocal root r, and whether an element or a merged part was not zero (R250). -/
structure NormRow where
  q : W40 := 0
  k : Option Int := none
  r : Word := 0
  live : Bool := false
  mire : Bool := false
  deriving DecidableEq, Repr

/-- What a phase of NRM changes in a row in progress at its result (R356, R358): KMAX merges an exponent maximum, after
clearing the row or not; SQ adds the squares of elements pre-scaled by 2⁻ᵏ; FIN leaves the pair that it merged and r. -/
inductive NormUpd
  | kmax (clr : Bool) (k : Option Int)
  | sq (k : Int) (l : List Num)
  | fin (pair : Option (Option Int × W40)) (r : Option Word)
  deriving DecidableEq, Repr

/-- A query row of RANGE softmax (R254, R255): the accumulator, whether the row has left its bounds, its mire. -/
structure RangeRow where
  l : W40 := 0
  past : Bool := false
  mire : Bool := false
  deriving DecidableEq, Repr

/-- One output of an array operation: container or element, group sums in the order they are added, mire, and the
quadrants whose failure mires it. -/
structure ArrOut where
  pos : Nat
  sums : List Num
  mire : Bool
  free : Option (Nat × Nat)
  deriving DecidableEq, Repr

/-- A carry (R193, R225): row and column decays, entries of the state part by 32i + j, the mire mark. -/
structure Carry where
  lr : List Word
  lc : List Word
  st : List W40
  mired : Bool
  deriving DecidableEq, Repr

/-- A write that an issued operation makes at a later CK. -/
inductive FenWr
  /-- W40 results to containers of a P-buffer row (R93, R115): with `acc` added to `base`, the row and its mire bit as read at
  issue, into which the results of earlier TMULs on the way to the row are forwarded (R117). -/
  | prow (row : Nat) (outs : List ArrOut) (acc : Bool) (base : Option (Row × Bool))
  /-- F32 results of TREAD or TSTEP to a tile-register vector (R115). -/
  | pvec (reg vec : Nat) (outs : List ArrOut)
  /-- State entries of a tile (R118). -/
  | entries (tile : Nat) (vals : List (Nat × Entry)) (mire : Bool)
  /-- A tile register: elements of active lanes, and for each destination vector whether an active lane of it takes an
  input from a mired vector (R263, R264). -/
  | vreg (reg : Nat) (vals : List (Option Word)) (mire : List (Option Bool))
  /-- One vector of a tile register, wholly or in part, from a buffer row or a delivery (R261, R201). -/
  | vec (reg vec : Nat) (vals : List (Option Word)) (mire : Bool)
  /-- A CPULL's write of a tile (R201): the delivery, `none` where there was none, ADD, and whether it is compensated. -/
  | pull (tile : Nat) (carry : Option Carry) (add comp : Bool)
  /-- A predicate tile: bits of active lanes. -/
  | preg (reg : Nat) (bits mask : BitVec 256)
  /-- A run of elements of a buffer row, all of it or part; `src` names the elements of a tile that supplied it (first,
  number, and whether they passed through the special-function unit), for the lanes that a fault strikes. -/
  | rowPart (buf : BufId) (row : Nat) (fmt : Fmt) (first : Nat) (codes : List Nat) (mire : Bool)
    (src : Option (Nat × Nat × Bool))
  /-- A phase of NRM on a row in progress: whether a source was not zero, and mired. -/
  | norm (row : Nat) (upd : NormUpd) (live mire : Bool)
  /-- The exponentials that RANGE pass 0 adds to query rows from `first` on, each with whether its score breaks the bound, and
  the mire of each row's scores (R254, R255). -/
  | range (first : Nat) (clr : Bool) (rows : List (List (Num × Bool) × Bool))
  /-- A slot's tag. -/
  | tag (buf : BufId) (slot : Nat) (full : Bool)
  /-- A chain credit leaving for the previous stage. -/
  | credit (link : Nat)
  /-- A mask pair. -/
  | mask (i : Nat) (rows cols : Word)
  /-- A pointer register. -/
  | ptr (i : Nat) (v : Ptr)
  /-- A loop count. -/
  | lc (i : Nat) (v : BitVec 16)
  /-- The carry context. -/
  | ctx (v : CarryCtx)
  /-- Nothing but the operation's completion (a SUMMARY's flit, a port transfer's end). -/
  | done
  deriving DecidableEq, Repr

/-- The unit a pending write belongs to. -/
inductive WrCls
  | tmul | stread | state | vector | sfu | move
  deriving DecidableEq, Repr

/-- A pending write: it happens at the end of CK `due` − 1, seen by an operation issued at `due`; `seq` is the order of
issue. -/
structure PendWr where
  due : Nat
  seq : Nat
  cls : WrCls
  wr : FenWr
  deriving DecidableEq, Repr

/-- Where a SEND goes: an in-block fen (logical number, buffer, first row as 32·slot + row, counter), or a block. -/
inductive Dest
  | fen (n : Nat) (buf : BufId) (row : Nat) (group : Nat)
  | remote (c : Nat) (block : Nat) (n : Nat) (buf : BufId) (row : Nat) (group : Nat)
  deriving DecidableEq, Repr

/-- A queued or begun SEND with its destination. -/
structure SendRec where
  issued : Nat
  start : Option Nat
  n : Nat
  rows : List (Row × Bool)
  dest : Dest
  deriving DecidableEq, Repr

/-- States of the sequencer (Table 9-18). -/
inductive SeqSt
  | idle | running | waiting | ended | halted
  deriving DecidableEq, Repr

/-- A running loop (R343). -/
structure LoopFrame where
  level : Nat
  first : Nat
  last : Nat
  left : Nat
  deriving DecidableEq, Repr

/-- The sequencer (R330 to R347, R364): `segStart` is the CK of the first bundle, `slotCk` and `slotUsed` the CK of the
last issue and the slots used in it, `waitFrom` the CK a stalled WAIT issued, `stallFrom` the CK up to which SEQ_STALL has counted its stall, `ahead` how many
bundles from `pc` on the fetch unit has read, `fetched` those of them with an uncorrectable error. -/
structure Seq where
  st : SeqSt := .idle
  pc : Nat := 0
  waitDesc : Nat := 0
  waitFrom : Nat := 0
  stallFrom : Nat := 0
  sluiceOver : Bool := false
  loops : List LoopFrame := []
  endIssued : Bool := false
  segStart : Nat := 0
  slotCk : Nat := 0
  slotUsed : BitVec 4 := 0
  passedPc : Option (Nat × Nat) := none
  ahead : Nat := 0
  fetched : List Nat := []
  deriving DecidableEq, Repr

/-- A chain link of a fen (R367 to R370). -/
structure ChainLink where
  set : Bool := false
  nextFen : Nat := 0
  nextFirst : Nat := 0
  nextK : Nat := 0
  nextCounter : Nat := 0
  hasNext : Bool := false
  prevFen : Nat := 0
  prevLink : Nat := 0
  hasPrev : Bool := false
  credit : Nat := 0
  creditPrev : Nat := 0
  creditAt : Nat := 0
  cur : Nat := 0
  last : BitVec 64 := 0
  deriving DecidableEq, Repr

/-- The image a fen holds of its plan (Table 9-1): bundles, variant table (4s + v), wait descriptors, routes with their
current destination row, epilogue descriptors, each with the ECC finding of its word. -/
structure Image where
  plan : Option Nat := none
  entry : BitVec 12 := 0
  imem : SMap (BitVec 128) := []
  imemErr : SMap Ecc := []
  variants : SMap (BitVec 12) := []
  waits : SMap (BitVec 128) := []
  waitErr : SMap Ecc := []
  routes : SMap (BitVec 64) := []
  routeErr : SMap Ecc := []
  routeRow : SMap Nat := []
  epis : SMap (BitVec 64) := []
  epiErr : SMap Ecc := []
  win : Word := 0
  links : SMap ChainLink := []
  scrub : Nat := 0
  deriving DecidableEq, Repr

/-- An arrival counter (Table 10-3); OLD.GEN is always CUR.GEN − 1. `seen`, `oldSeen` and `seenGen` are CUR.COUNT,
OLD.COUNT and CUR.GEN before the changes of CK `since`. -/
structure Counter where
  gen : BitVec 16 := 0
  cnt : Nat := 0
  old : Nat := 0
  inflight : Nat := 0
  seen : Nat := 0
  oldSeen : Nat := 0
  seenGen : BitVec 16 := 0
  since : Nat := 0
  deriving DecidableEq, Repr

/-- A slot's tag (R384, R385): its value, its value before the changes of CK `since`, and what was asked of it in that CK. -/
structure Tag where
  full : Bool := false
  seen : Bool := false
  since : Nat := 0
  askFull : Bool := false
  askEmpty : Bool := false
  deriving DecidableEq, Repr

/-- A select slot (R281): the variant it holds, `none` at count 0, and the CK of its writing. -/
structure SelectSlot where
  variant : Option (BitVec 2) := none
  since : Nat := 0
  deriving DecidableEq, Repr

/-- One buffer (R377): rows by 32·slot + row, default 0; mire bits; the ECC finding of word 8·row + w; tags by slot; the
scrubber's row, its pending write-back and the CK from which it may work. -/
structure Buffer where
  rows : SMap Row := []
  mire : SMap Bool := []
  err : SMap Ecc := []
  tags : SMap Tag := []
  scrub : Nat := 0
  scrubRead : Option (List Nat) := none
  scrubAt : Nat := 0
  deriving DecidableEq, Repr

/-- A push on its way from a state port to the leaf (R197, R210): complete at CK `due`. -/
structure PushJob where
  due : Nat
  array : Nat
  scan : Nat
  tile : Nat
  ret : RetKind
  carry : Carry
  deriving DecidableEq, Repr

/-- A delivery waiting in the leaf for an array (R200, R204). -/
structure Delivery where
  carry : Carry
  since : Nat
  deriving DecidableEq, Repr

/-- A decay part kept for a ring correction (R215). -/
structure KeptPart where
  scan : Nat
  tile : Nat
  array : Nat
  lr : List Word
  lc : List Word
  deriving DecidableEq, Repr

/-- One push held by a leaf for a tile (R208); `bad` says that the check of its composition into the aggregate failed (R211). -/
structure LeafPush where
  array : Nat
  ret : RetKind
  carry : Carry
  bad : Bool := false
  deriving DecidableEq, Repr

/-- A leaf's tile (R208, R613): the pushes held in order, whether the aggregate has left, and the prefix that came down. -/
structure LeafTile where
  pushes : List LeafPush := []
  sent : Bool := false
  delivered : Bool := false
  deriving DecidableEq, Repr

/-- Power states of a fen (Table 15-2). -/
inductive PwrSt
  | on | idle | retain | off
  deriving DecidableEq, Repr

/-- Phases of a fen's power transition (Table 15-10). -/
inductive PwrPhase
  | none | fenced | draining | ramping
  deriving DecidableEq, Repr

/-- A reference to a command in progress: its queue and which enabling of it accepted the command (R493), and what its
replies carry (Table 13-3). -/
structure Cmd where
  q : Nat
  gen : Nat
  tag : BitVec 16
  qseq : BitVec 32
  opcode : BitVec 8
  irq : Bool
  deriving DecidableEq, Repr

/-- What a command's TARGET names (Table 13-1). -/
inductive Target
  | block
  | fen (n : Nat)
  | pfen (p : Nat)
  deriving DecidableEq, Repr

/-- The targets an opcode takes (Table 13-4). -/
inductive TargetKind
  | block | blockOrFen | fen | fenOrPfen
  deriving DecidableEq, Repr

/-- A row of Table 13-4: the opcode, P, the parameter bytes it names, its target. -/
structure OpForm where
  opcode : Nat
  len : Nat
  used : List Nat
  target : TargetKind
  deriving DecidableEq, Repr

/-- A FEN_POWER or another power request that waits for, or runs as, a transition (R561, R562). -/
structure PwrJob where
  target : PwrSt
  cmd : Option Cmd
  deriving DecidableEq, Repr

/-- Power of a fen (R560 to R566): state, the transition in progress with the time it began, requests behind it, the
records of dropped writes (buffer, row) and the state to return to after a woken transfer (R564). -/
structure Power where
  st : PwrSt := .off
  job : Option PwrJob := none
  phase : PwrPhase := .none
  since : Nat := 0
  queue : List PwrJob := []
  records : List (BufId × Nat) := []
  lost : Bool := false
  wakeFor : Bool := false
  deriving DecidableEq, Repr

/-- Life of a pfen (Table 14-11, R544 to R550), stale from a block reset on (R545). The logical fen it holds is what the spare map says. -/
structure Life where
  epoch : Word := 0
  stale : Bool := true
  restored : Bool := false
  retired : Bool := false
  retentionFault : Bool := false
  reserved : Bool := false
  disabled : Bool := false
  bistFailed : Bool := false
  deriving DecidableEq, Repr

/-- An update of a state tile in the last CKs: the order of issue of its operation, the CK it was due, the tile's index and
what the tile was before it. -/
structure TileUndo where
  seq : Nat
  due : Nat
  tile : Nat
  old : Tile
  deriving DecidableEq, Repr

/-- One fen, indexed by pfen (R16, Table 1-2). Registers of its window that are plain counters or controls lie in State's
register file. `faults` holds for each array fault the order of issue of the failing operation and the quadrants, bit 4a + q,
that it stopped, and `undo` the updates that a fault still to be reported takes back (R129). `useRows` are the buffer rows that
were read or written in CK `useCk` (R381). -/
structure Fen where
  v : SMap (List Word) := []
  vMire : SMap (BitVec 8) := []
  pr : SMap (BitVec 256) := []
  masks : SMap (Word × Word) := []
  pts : SMap Ptr := []
  lcs : SMap (BitVec 16) := []
  ctx : CarryCtx := {}
  arrays : SMap ArrayState := []
  tiles : SMap Tile := []
  faults : List (Nat × Nat) := []
  undo : List TileUndo := []
  loads : List LoadJob := []
  busFree : Nat := 0
  useCk : Nat := 0
  useRows : List (BufId × Nat) := []
  bufW : Buffer := {}
  bufA : Buffer := {}
  bufP : Buffer := {}
  counters : SMap Counter := []
  countOldSample : Word := 0
  selects : SMap SelectSlot := []
  norms : SMap NormRow := []
  ranges : SMap RangeRow := []
  sfuFree : Nat := 0
  sfuBad : List Nat := []
  vecBad : List Nat := []
  seed : Word := 1
  gens : SMap (Option Word) := []
  seq : Seq := {}
  img : Image := {}
  pend : List PendWr := []
  sends : List SendRec := []
  sendEnd : Nat := 0
  net : List SendRec := []
  creditsOut : List Nat := []
  pushes : List PushJob := []
  deliveries : SMap (List Delivery) := []
  kept : List KeptPart := []
  flits : List (Nat × Nat × Word × BitVec 8 × Bool) := []
  posted : List Nat := []
  pwr : Power := {}
  life : Life := {}
  resetUntil : Option Nat := none
  energyPj : Nat := 0
  lastNj : Nat := 0
  volts : List (BitVec 16) := []
  temps : List (BitVec 16) := []
  vmin : BitVec 16 := 0
  load : BitVec 16 := 0
  droops : Nat := 0
  deriving DecidableEq, Repr

/-- A reply ring as it stood when its queue was enabled (R492, R493): fabric address, entries, tail and phase. -/
structure ReplyRing where
  base : Nat := 0
  size : Nat := 16
  tail : Nat := 0
  phase : Bool := true
  deriving DecidableEq, Repr

/-- A command queue (Table 13-14). `inprog` are the commands without a final reply, each with the ring entries still
reserved for it; `gen` counts the times the queue was enabled; `old` are the rings of the earlier times (R493). -/
structure Queue where
  enabled : Bool := false
  stopped : Bool := false
  reason : BitVec 2 := 0
  head : Nat := 0
  tail : Nat := 0
  replies : ReplyRing := {}
  expSeq : BitVec 32 := 0
  inprog : List (Cmd × Nat) := []
  gen : Nat := 0
  old : SMap ReplyRing := []
  deriving DecidableEq, Repr

/-- Tiers a base resolves to (Table 11-5). -/
inductive Tier
  | a | b | bAsC
  deriving DecidableEq, Repr

/-- Lode states (Table 10-12). -/
inductive LodeSt
  | free | armed | running | blocked | done | halted | ended
  deriving DecidableEq, Repr

/-- A transfer of a lode in flight: its generation, base entry and number, its rows as (buffer row, byte offset in the
object or fabric address), the slots that it is the last to move, the tier it goes to (`none` for the fabric), the object
handle and the byte address of the copy, which of its rows lay in an OFF rank, the time of its issue, and which of its rows a reset discarded in a crossing (R577). -/
structure Xfer where
  gen : BitVec 16
  base : Nat
  j : Nat
  rows : List (Nat × Nat)
  lastOfSlot : List Nat
  tier : Option Tier
  handle : Word
  origin : Nat
  offRows : List Nat
  issued : Nat
  flushed : List Nat := []
  deriving DecidableEq, Repr

/-- A lode (Tables 10-4 and 10-11, R396 to R405): `stepWait` is how many generation steps wait (R400), `baseStep` whether the
one that waits is a step to the next base, `issuedAt` the time of its last issue, `fed` the logical fen and counter that an index
without a descriptor last fed, to which its `gs` still belongs. -/
structure Lode where
  desc : BitVec 512 := 0
  st : LodeSt := .free
  gen : BitVec 16 := 0
  gs : BitVec 16 := 0
  base : Nat := 0
  next : Nat := 0
  done : Nat := 0
  inflight : List Xfer := []
  miredRows : Nat := 0
  code : BitVec 16 := 0
  plan : Option Nat := none
  tiers : List Tier := []
  held : Bool := false
  slot : Nat := 0
  row : Nat := 0
  placed : Bool := false
  stepWait : Nat := 0
  baseStep : Bool := false
  segRun : Bool := false
  issuedAt : Option Nat := none
  newBases : Option (BitVec 384 × Nat × List Tier) := none
  haltCmd : List Cmd := []
  fed : Option (Nat × Nat) := none
  deriving DecidableEq, Repr

/-- An ARM_LODE whose descriptor is being fetched. -/
structure ArmJob where
  l : Nat
  addr : BitVec 64
  cmd : Cmd
  deriving DecidableEq, Repr

/-- Stream states (Table 4-5). -/
inductive StreamSt
  | closed | opening | open | resetting | moving | awaiting
  deriving DecidableEq, Repr

/-- A stream context (Table 4-4), with the plan and the tiles of its binding as (logical fen, array, depth). -/
structure Stream where
  sid : BitVec 16 := 0
  st : StreamSt := .closed
  comp : Bool := false
  initMode : BitVec 2 := 0
  binding : BitVec 16 := 0
  initHandle : Word := 0
  initOffset : Word := 0
  position : BitVec 48 := 0
  plan : Nat := 0
  tiles : List (Nat × Nat × Nat) := []
  deriving DecidableEq, Repr

/-- A PROMOTE that waits for a copy, or a DEMOTE that is deferred or writing back (R434 to R438). -/
structure ObjJob where
  cmd : Cmd
  promote : Bool
  toA : Bool
  deadline : Nat
  started : Bool
  deriving DecidableEq, Repr

/-- An object entry (Table 11-3) with the copies' progress that only the engine knows: pages done out of order, whether
some page was written mired, the next page or extent to issue, the failed extents that are to be read again (first page and
pages), the commands that wait. -/
structure Obj where
  home : BitVec 2 := 0
  valid : Bool := false
  resB : Bool := false
  resA : Bool := false
  pendB : Bool := false
  pendA : Bool := false
  dirty : Bool := false
  demoting : Bool := false
  epoch : BitVec 20 := 0
  holds : Nat := 0
  readers : Nat := 0
  writers : Nat := 0
  size : Nat := 0
  nsid : Word := 0
  homeAddr : BitVec 64 := 0
  addrB : BitVec 48 := 0
  addrA : BitVec 48 := 0
  donePages : Nat := 0
  doneA : Nat := 0
  fmt : BitVec 4 := 0
  sc : Bool := false
  extDone : List Nat := []
  extNext : Nat := 0
  extRetry : List (Nat × Nat) := []
  miredB : Bool := false
  miredA : Bool := false
  writeback : Bool := false
  jobs : List ObjJob := []
  deriving DecidableEq, Repr

/-- An OBJ_CMD operation that the control core has not taken yet (R429, R448): its code, EPOCH, the entry that OBJ_SEL named and
the staging words. -/
structure ObjOp where
  op : Nat
  epoch : BitVec 20
  sel : Nat
  stage : SMap Word
  deriving DecidableEq, Repr

/-- Kinds of tile transfers through a state port (R145 to R155, R478). -/
inductive PortKind
  /-- Initial-state load of a stream: image number `image` in INIT_HANDLE, or zero. -/
  | init (sid : BitVec 16) (image : Option Nat)
  /-- Read of a moving stream's source tile `i` of its binding. -/
  | moveRead (sid : BitVec 16) (i : Nat)
  /-- Write of a moved tile's image, `none` until it has been read. -/
  | moveWrite (sid : BitVec 16) (i : Nat) (ent : Option (List Entry))
  deriving DecidableEq, Repr

/-- A pending tile transfer, kept in command acceptance order (R147), of which `seq` is the number; `due` where the boundary in
progress executes it (R148). -/
structure PortXfer where
  pfen : Nat
  array : Nat
  depth : Nat
  kind : PortKind
  start : Option Nat
  due : Bool := false
  seq : Nat := 0
  deriving DecidableEq, Repr

/-- A stream command in progress or waiting behind one (R161); `seq` numbers it in acceptance order. -/
structure StreamJob where
  cmd : Cmd
  sid : BitVec 16
  p : Packet
  kind : Nat
  started : Bool
  seq : Nat
  deriving DecidableEq, Repr

/-- A STATE_MOVE in progress (R152 to R155, R479): tiles as (logical fen, array, depth), the source tiles read, the
tiles written, tier writes outstanding. `incoming` is the destination side of a remote one, which may have been rejected. -/
structure Move where
  sid : BitVec 16
  incoming : Bool
  copy : Bool
  dest : Nat
  plan : Nat
  binding : Nat
  handle : Word
  offset : Nat
  cw : Nat
  remoteSid : BitVec 16
  src : List (Nat × Nat × Nat)
  dst : List (Nat × Nat × Nat)
  readDone : Nat
  writeDone : Nat
  tierWr : Nat
  rejected : Bool := false
  deriving DecidableEq, Repr

/-- A binding of a plan (Table 13-7): COMP, positions per tempo, tiles and initial-state tiles as (logical fen, array,
depth), the family. -/
structure Binding where
  index : Nat
  comp : Bool
  positions : Nat
  tiles : List (Nat × Nat × Nat)
  initTiles : List (Nat × Nat × Nat)
  family : Nat := 1
  deriving DecidableEq, Repr

/-- A scan declaration (Table 5-8a) with the pushes each leaf expects for a tile (R613), as (logical fen, tile, number). -/
structure ScanDecl where
  scan : Nat
  dir : Bool
  ring : Bool
  tiles : Nat
  ringFirst : Nat
  ringLast : Nat
  leaves : BitVec 64
  expect : List (Nat × Nat × Nat)
  deriving DecidableEq, Repr

/-- A loaded plan: what QUERY returns (R509) and what the engine keeps of its sections and counts. `gone` says that the boundary of
its unload has come and only transfers in flight keep it; `msgCounters` are the
counters that it declares send-fed, as (logical fen, counter); `writes` the buffer rows that its SENDs write, each with its
counter; `frames` the frames of its messages on each link and then the carries on each; `carried` the arrivals that it declares
carried from the previous tempo, by 256 · logical fen + counter. -/
structure Plan where
  fens : BitVec 64
  mapGen : BitVec 16
  unloading : Bool
  gone : Bool := false
  worst : Nat
  bindings : List Binding
  scans : List ScanDecl
  decisions : List (BitVec 256)
  msgCounters : List (Nat × Nat)
  writes : SMap (Option Nat)
  tierA : Nat
  tierB : Nat
  frames : List Nat
  energyPj : Nat
  carried : SMap Nat := []
  deriving DecidableEq, Repr

/-- A LOAD_PLAN in progress: parameters and whether its fetch has begun (R507). -/
structure LoadPlanJob where
  cmd : Cmd
  addr : BitVec 64
  size : Nat
  plan : Nat
  deriving DecidableEq, Repr

/-- Work a command leaves for a boundary. -/
inductive BoundaryJob
  | commit (c : Cmd)
  | unload (c : Cmd) (plan : Nat)
  | close (c : Cmd) (sid : BitVec 16)
  | mode (c : Cmd) (service : Bool)
  | retire (c : Cmd) (n : Nat) (spare : Option Nat)
  | admitFen (c : Cmd) (n : Nat) (epoch : Word)
  | domainOff (tier : Bool)
  deriving DecidableEq, Repr

/-- A decision in a tempo (R280, R282): the summaries received as (fen, value, mire), and the variant chosen. -/
structure Decision where
  got : List (Nat × Word × Bool) := []
  chosen : Option Nat := none
  deriving DecidableEq, Repr

/-- A node or leaf of the carry tree at work on one tile: what came up from the left and the right child, whether it has
sent up, the prefix that came down, whether it has passed it on. Times are the CK from which the next hop may happen. -/
structure TreeCell where
  left : Option Carry := none
  right : Option Carry := none
  keep : Option Carry := none
  upDone : Bool := false
  down : Option Carry := none
  downDone : Bool := false
  since : Nat := 0
  downAt : Nat := 0
  deriving DecidableEq, Repr

/-- A ring tile (R214): the block aggregate G that waits, H when it has arrived, progress of its broadcast, and the nodes and
leaves on whose upper edge the parity of H failed (R211). -/
structure RingCell where
  scan : Nat
  tile : Nat
  g : Option Carry
  h : Option Carry
  broadcast : Bool
  since : Nat
  bad : List Nat := []
  deriving DecidableEq, Repr

/-- A flash queue (Table 11-9, R440 to R443). Outstanding commands are (CID, object, first page, pages, retried, issue
time, slow logged). -/
structure FlashCmd where
  cid : Nat
  obj : Nat
  page : Nat
  pages : Nat
  retried : Bool
  issued : Nat
  slow : Bool
  deriving DecidableEq, Repr

/-- One flash queue; `sqUsed` counts the submission entries that no reported SQ head has freed. -/
structure FlashQueue where
  bound : Bool := false
  unbinding : Bool := false
  tail : Nat := 0
  head : Nat := 0
  sqUsed : Nat := 0
  phase : Bool := false
  sqid : Nat := 0
  cqid : Nat := 0
  sqBase : Nat := 0
  cqBase : Nat := 0
  listBase : Nat := 0
  sqdb : Nat := 0
  cqdb : Nat := 0
  out : List FlashCmd := []
  doorbell : Nat := 0
  lastPoll : Nat := 0
  unbindCmd : Option Cmd := none
  deriving DecidableEq, Repr

/-- Rank power states (Table 11-7). -/
inductive RankSt
  | on | fenced | draining | off | waking
  deriving DecidableEq, Repr

/-- A tier B rank (R444 to R446): records of dropped writes as (byte addresses of the rows, FMT, SC). -/
structure Rank where
  st : RankSt := .on
  since : Nat := 0
  records : List (List Nat × Nat × Bool) := []
  deriving DecidableEq, Repr

/-- A weight-cache line (R21, R24): object handle and line offset, its way, its 4 KiB as bytes, its pin, its ECC finding, and
those of its 32 rows that the tier reported uncorrectable when it was filled (R421). The cache holds its lines in the order of their last use. -/
structure CacheLine where
  handle : Word
  line : Nat
  way : Nat
  data : List Byte
  pinned : Bool
  err : Ecc
  lost : List Nat := []
  deriving DecidableEq, Repr

/-- A frame waiting to leave a link (R455, R472, R483): its priority class, type, type-specific field and payload. -/
structure TxFrame where
  kind : Nat
  ts : BitVec 64
  payload : BitVec 2048
  deriving DecidableEq, Repr

/-- One logical lane of a causeway, both directions (R458 to R461). -/
structure Lane where
  nextSeq : BitVec 8 := 0
  unacked : List (BitVec 8 × TxFrame × Nat) := []
  replay : List (BitVec 8 × TxFrame) := []
  credits : Nat := 64
  replays : Nat := 0
  rxNext : BitVec 8 := 0
  rxCredits : Nat := 0
  nakDue : Bool := false
  nakMissing : Bool := false
  nakAt : Nat := 0
  crcRun : Nat := 0
  slotAt : Nat := 0
  deriving DecidableEq, Repr

/-- A message being reassembled (R476): fragments got, whether it was rejected, and the rows of a tile image so far. -/
structure RxMsg where
  ts : BitVec 64
  got : List Nat
  rejected : Bool
  data : List (Nat × Row)
  deriving DecidableEq, Repr

/-- Link states (Table 12-6). -/
inductive LinkSt
  | off | training | up | retraining | down
  deriving DecidableEq, Repr

/-- A causeway (chapter 12). -/
structure Causeway where
  st : LinkSt := .off
  reason : BitVec 4 := 0
  window : Nat := 0
  rxExcl : BitVec 4 := 0xF
  txExcl : BitVec 4 := 0xF
  role : BitVec 3 := 0
  hbLost : Bool := false
  partner : BitVec 27 := 0
  partnerUid : BitVec 64 := 0
  lastUpUid : Option (BitVec 64) := none
  rtt : BitVec 24 := 0
  delay : BitVec 24 := 0
  cable : BitVec 16 := 0
  newRtt : Option (BitVec 24) := none
  fresh : Bool := true
  phase : Nat := 0
  fast : Bool := false
  phaseAt : Nat := 0
  partnerCaps : Option (BitVec 192) := none
  checked : Bool := false
  cmds : List Cmd := []
  lanes : SMap Lane := []
  tx : List TxFrame := []
  rx : SMap (Option RxMsg) := []
  nextMsg : Nat := 0
  carryTx : List (Row × Bool) := []
  carryIdx : Nat := 0
  carryTempo : BitVec 16 := 0
  carryRx : SMap (Option (BitVec 64 × BitVec 2048)) := []
  carryNext : Nat := 0
  carryRows : List Row := []
  carryReady : List (List Row) := []
  echoNum : BitVec 16 := 0
  echoAt : Nat := 0
  echoOut : Option (BitVec 16 × Nat) := none
  echoRuns : List (BitVec 24) := []
  exchanges : List (BitVec 16 × BitVec 24) := []
  hbAt : Nat := 0
  hbBoundaries : Nat := 0
  hbDueAt : Nat := 0
  answers : List (BitVec 8 × BitVec 16 × Nat) := []
  enabled : Bool := false
  resetUntil : Option Nat := none
  deriving DecidableEq, Repr

/-- A boundary that a marker announces (Table 8-2): the tempo that begins at it, its time and its flags, and whether it
comes earlier than the flywheel predicted. A master keeps those it has sent, a follower those it has accepted. -/
structure Mark where
  number : BitVec 48
  time : Nat
  hold : Bool := false
  resume : Bool := false
  stop : Bool := false
  early : Bool := false
  deriving DecidableEq, Repr

/-- The tempo generator and the tempo's progress (chapter 08). Times are in State's unit. `due` is the time of the next
boundary that the generator or the flywheel predicts, `marks` the boundaries announced; at G, `atG` is set until the boundary
actions begin, `waitF` where some fen had not ended; `ran` says that segments of a tempo have started that no boundary
has ended yet; `reqs` are the reasons of the hold requests that the master has received; `actAt` is the beginning of actions that wait for a snapshot's drain or for
state transfers, with what they captured; `first` says that the boundary due starts the first tempo. -/
structure Tempo where
  count : BitVec 48 := 0
  running : Bool := false
  first : Bool := false
  startCmds : List Cmd := []
  due : Option Nat := none
  marks : List Mark := []
  atG : Bool := false
  gTime : Nat := 0
  gMark : Option Mark := none
  waitF : Bool := false
  actAt : Option Nat := none
  capSet : Option (SMap (Option Word)) := none
  capJobs : List BoundaryJob := []
  capPlans : List Nat := []
  startTime : Nat := 0
  startCk : Nat := 0
  pj : Nat := 0
  lagCk : Nat := 0
  locked : Bool := false
  missed : Nat := 0
  held : Bool := false
  causes : List Nat := []
  lastCause : Nat := 0
  ringHold : Bool := false
  ringSince : Nat := 0
  ringStalled : Bool := false
  asked : List Nat := []
  released : BitVec 64 := 0
  slipped : Bool := false
  stopCmds : List Cmd := []
  holdCmds : List Cmd := []
  cmdHold : Bool := false
  holdG : Option Nat := none
  holdReq : Bool := false
  markFor : Option Nat := none
  markNum : BitVec 48 := 0
  periodIn : Nat := 0
  skew : BitVec 16 := 0
  stretches : Nat := 0
  clockStopped : Bool := false
  awaitFirst : Bool := false
  ran : Bool := false
  reqs : List Nat := []
  deriving DecidableEq, Repr

/-- A snapshot's armings and progress (R529 to R537): the command and the automatic arming that wait; while one drains,
where its image begins, its area, SOURCE, INTERVAL, command, tempo, header and fen sketches; and what the last one left. -/
structure Snap where
  armedCmd : Option (Cmd × Nat) := none
  armedAuto : Bool := false
  draining : Bool := false
  addr : Nat := 0
  area : Option Nat := none
  source : BitVec 2 := 0
  interval : Bool := false
  cmd : Option Cmd := none
  tempo : BitVec 48 := 0
  mired : Bool := false
  header : List Byte := []
  sketches : List Word := []
  score : BitVec 16 := 0
  lastSource : BitVec 2 := 0
  lastMired : Bool := false
  lastFailed : Bool := false
  busy0 : Bool := false
  busy1 : Bool := false
  lastArea : Option Nat := none
  snapTempo : BitVec 48 := 0
  digest : BitVec 64 := 0
  began : Nat := 0
  deriving DecidableEq, Repr

/-- One interval tempo's digests, own or partner's (R552, R553). -/
structure TwinDigest where
  tempo : BitVec 48
  manifest : Option (BitVec 64 × BitVec 64 × BitVec 16)
  sk0 : Option (BitVec 1024)
  sk1 : Option (BitVec 1024)
  since : Nat
  late : Bool
  deriving DecidableEq, Repr

/-- The twin comparison (R553, R554). -/
structure Twin where
  own : List TwinDigest := []
  partner : List TwinDigest := []
  result : BitVec 2 := 0
  missing : Bool := false
  tempo : BitVec 48 := 0
  risk : BitVec 16 := 0
  deriving DecidableEq, Repr

/-- The heron (R523 to R528): score in Q16.8, the inputs of the last update, what its counters held when it last read them
(less what clear-on-read accesses have taken since), when it last updated and whether it has in this tempo, the highest
temperature and load since then, the mirrored rail reading, the 16 other temperatures, the sensors at or above the trip in
the last sample and in the last two. -/
structure Heron where
  score : Nat := 0
  triggered : Bool := false
  inputs : List Nat := []
  seen : List Int := []
  upAt : Nat := 0
  upDone : Bool := false
  tMax : Nat := 0
  lMax : Nat := 0
  rail : BitVec 16 := 0
  railAt : Nat := 0
  railStale : Bool := false
  temps : List (BitVec 16) := []
  overTemp : List Nat := []
  tripped : List Nat := []
  hottest : Word := 0
  deriving DecidableEq, Repr

/-- Firmware states (Table 13-15). -/
inductive FwSt
  | boot | loading | checking | running
  deriving DecidableEq, Repr

/-- The service mailbox and the firmware slot (R516 to R522). -/
structure Mailbox where
  fw : FwSt := .boot
  reason : BitVec 4 := 0
  image : SMap Byte := []
  err : Bool := false
  coreNext : Bool := false
  crc : Word := 0xFFFFFFFF
  crcFresh : Bool := true
  version : Word := 0
  size : Word := 0
  fromCore : Word := 0
  checkAt : Nat := 0
  deriving DecidableEq, Repr

/-- Clocks, domains and start-up (chapter 15); `stopSince` and `stopEnd` are when CK last stopped and last returned. -/
structure Plant where
  step : Nat := 1
  pll0 : Bool := false
  pll1 : Bool := false
  mkLock : Bool := false
  ckStopped : Bool := false
  stopSince : Nat := 0
  stopEnd : Nat := 0
  pllActive : Bool := false
  genActive : Bool := false
  genSpareOk : Bool := true
  treeActive : Bool := false
  core : Bool := false
  cacheUp : Bool := false
  tierUp : Bool := false
  cacheOnAt : Option Nat := none
  tierOnAt : Option Nat := none
  stretching : Bool := false
  deep : Bool := false
  stretchFrom : Nat := 0
  fatal : BitVec 2 := 0
  resetCause : BitVec 3 := 0
  resetUntil : Option Nat := none
  tierResetUntil : Option Nat := none
  attachFault : Bool := false
  fuses : Option Fuses := none
  bist : Option Bist := none
  deriving DecidableEq, Repr

/-- An entry of the error log (Table 13-11). -/
structure LogEntry where
  kind : BitVec 16
  error : Bool
  source : BitVec 16
  tempo : BitVec 48
  detail : BitVec 128
  deriving DecidableEq, Repr

/-- What the block sends out: reads' values, replies, fabric writes, frames, doorbells. The model's own record. -/
inductive Out
  | readValue (off : Nat) (v : Word)
  | reply (q : Nat) (addr : Nat) (bits : BitVec 256)
  | fabricFetch (addr : Nat) (bytes : Nat)
  | fabricWrite (addr : Nat) (data : List Byte)
  | frame (c : Nat) (lane : Nat) (f : Frame)
  | doorbell (addr : Nat) (v : Word)
  deriving DecidableEq, Repr

/-- How a register takes a write (Table 0-5): RW, W1C or RWS, the bits that are not reserved, and its enumerated fields as
(high bit, low bit, least and greatest value that is not reserved). -/
inductive RegAccess
  | rw | w1c | rws
  deriving DecidableEq, Repr

/-- The write form of a register. -/
structure RegForm where
  access : RegAccess
  mask : Word
  enums : List (Nat × Nat × Nat × Nat) := []
  deriving DecidableEq, Repr

/-- What the events of one MK cycle did (R12), by register: its value before the first of them, and the value that they would
have left in the register had it been clear. -/
structure CycleEvents where
  cycle : Nat := 0
  regs : SMap (Option (Word × Word)) := []
  deriving DecidableEq, Repr

/-- RESTORE or COMPARE in progress (R538 to R542): parameters, and the tiles of the image, by index, with the rows of 128 B that the
memory controller reports uncorrectable, a mark of the state as ECC findings are (R151, R421). -/
structure ImageJob where
  cmd : Cmd
  compare : Bool
  target : Option Nat
  addr1 : Nat
  addr2 : Nat
  tolerant : Bool
  verify : Bool
  eps : Word
  badRows : List (Nat × List Nat) := []
  deriving DecidableEq, Repr

end Sys2Proof.Machine
end

