-- ==== Sys2Proof/Machine/State.lean ====
section
/-!
DEFINITION. State: every piece of state the spec gives the block, as plain data, with the queue of waiting commands; the
faults and refusals; and the block right after a block cold reset (start-up step 1 done, Table 15-8).
-/

namespace Sys2Proof.Machine

/-- Why a step stops. -/
inductive Fault
  /-- Raised by a register access whose offset is no multiple of 4: a fabric protocol violation, whose results R3 and R10
  leave undefined. Safe: the model stops where the hardware may do anything. -/
  | fabricProtocolViolation
  deriving DecidableEq, Repr

/-- Why a command has no meaning. -/
inductive Refusal
  /-- Raised by an arm of exec that has no meaning yet. Safe. -/
  | notModelled (mnemonic : String)
  deriving DecidableEq, Repr

/-- The block. -/
structure State where
  /-- Commands that wait, first in, first out. -/
  pending : List Instr
  /-- Time since reset, one CK at its nominal period being 2 units and one TK 45 (R288). -/
  now : Nat
  /-- CK cycles since reset. -/
  ck : Nat
  /-- Fens by pfen (default `{}`). -/
  fens : SMap Fen
  /-- The register file by window offset: `none` reads as the reset value of the register's table. -/
  regs : SMap (Option Word)
  /-- The events of the latest MK cycle in which a clearable register took one (R12). -/
  events : CycleEvents
  /-- The shadow copies of the RWS registers (R510, R594), as `regs`. -/
  shadow : SMap (Option Word)
  /-- The pending set of COMMIT (R510). -/
  pendSet : Option (SMap (Option Word))
  /-- High words latched by Table 16-3, in its order. -/
  latch : SMap Word
  /-- The cycles that the stalemate detector has reported since STALE_INFO.VALID was last cleared (R412), as parties: pfen p,
  or 1000 + lode. -/
  staleSeen : List (List Nat)
  /-- LODE_STAT0–3 as last sampled (R416). -/
  lodeSample : List Word
  /-- OBJ_DATA0–11 as last sampled (R447). -/
  objSample : List Word
  /-- The staging words of OBJ_CMD (R448). -/
  objStage : SMap Word
  /-- The OBJ_CMD operation in progress while OBJ_RESULT.BUSY is 1 (R448). -/
  objOp : Option ObjOp
  /-- The error log, oldest first (R515). -/
  log : List LogEntry
  /-- ENG_MODE.SERVICE (R237). -/
  service : Bool
  /-- The spare map (R597): pfen of a logical fen. -/
  spareMap : SMap (Option Nat)
  /-- The spare-map generation (R19). -/
  mapGen : BitVec 16
  /-- ENG_SPARES.SPARE_FENS, SPARE_TREE, SPARE_CORE, SPARE_WAY and SPARE_TA_PORTS (Table 1-12). -/
  spareFens : Nat
  spareTree : Bool
  spareCore : Bool
  spareWay : Bool
  spareTa : BitVec 2
  /-- ENG_ACTIVE.RETIRED_WAY (Table 1-13), and a way that waits for its substitution (R599). -/
  retiredWay : BitVec 5
  wayPending : Option Nat
  /-- Tiers A and B (R418). -/
  tierA : List Host.Cell
  tierB : List Host.Cell
  /-- The weight cache (R21 to R27). -/
  cache : List CacheLine
  /-- The object table (R425). -/
  objs : SMap Obj
  /-- The lodes (R393, R413) and the descriptors being fetched. -/
  lodes : SMap Lode
  arms : List ArmJob
  /-- The loaded plans and the LOAD_PLANs in progress (R505, R507). -/
  plans : SMap (Option Plan)
  loads : List LoadPlanJob
  /-- The stream contexts by context number (R156), stream commands in progress (R161), moves and port transfers. -/
  streams : SMap Stream
  streamJobs : List StreamJob
  moves : List Move
  ports : List PortXfer
  /-- Decisions of the tempo by 64 · plan + number (R280), and selections on their way to a fen, as (decision, logical fen). -/
  decisions : SMap Decision
  selPending : List (Nat × Nat)
  /-- The carry tree: cells by (node, scan, tile), leaf tiles by (logical fen, scan, tile); the ring store (R206 to R215). -/
  carryTree : SMap TreeCell
  leaves : SMap LeafTile
  /-- The CK of the last carry that left a tree cell upward (2 · node) or downward (2 · node + 1) (R207). -/
  treeBusy : SMap Nat
  ring : List RingCell
  /-- The causeways, and CW_ADDR (Table 12-15). -/
  cws : SMap Causeway
  ringId : BitVec 4
  ringPos : BitVec 6
  ringSize : BitVec 6
  c2Role : BitVec 3
  /-- The tempo, snapshots, the twin, the heron. -/
  tempo : Tempo
  snap : Snap
  twin : Twin
  heron : Heron
  /-- The mailbox and firmware; clocks, domains and start-up. -/
  mbox : Mailbox
  plant : Plant
  /-- The command queues, flash queues and tier B ranks. -/
  queues : SMap Queue
  flash : SMap FlashQueue
  flashNext : Nat
  ranks : SMap Rank
  /-- Work left for the next boundary, RESTORE and COMPARE in progress, QUERY records being written. -/
  jobs : List BoundaryJob
  images : List ImageJob
  queries : List (Cmd × BitVec 96)
  /-- The model's own record of what the block sent, oldest last. -/
  out : List Out
  /-- The model's own counter that free values are applied to. -/
  free : Nat
  deriving DecidableEq, Repr

/-- The block right after a block cold reset, START_STEP = 1: fens and domains off, SERVICE in force, the firmware in
BOOT, queues disabled; every register at its table's reset value, and what fuses and start-up set not yet set. -/
def State.reset : State where
  pending := []
  now := 0
  ck := 0
  fens := []
  regs := []
  events := {}
  shadow := []
  pendSet := none
  latch := []
  staleSeen := []
  lodeSample := []
  objSample := []
  objStage := []
  objOp := none
  log := []
  service := true
  spareMap := []
  mapGen := 0
  spareFens := 0
  spareTree := true
  spareCore := true
  spareWay := false
  spareTa := 0
  retiredWay := 31
  wayPending := none
  tierA := []
  tierB := []
  cache := []
  objs := []
  lodes := []
  arms := []
  plans := []
  loads := []
  streams := []
  streamJobs := []
  moves := []
  ports := []
  decisions := []
  selPending := []
  carryTree := []
  leaves := []
  treeBusy := []
  ring := []
  cws := [(1, { role := 1 }), (2, { role := 4 })]
  ringId := 0
  ringPos := 0
  ringSize := 0
  c2Role := 4
  tempo := {}
  snap := {}
  twin := {}
  heron := {}
  mbox := {}
  plant := {}
  queues := []
  flash := []
  flashNext := 0
  ranks := []
  jobs := []
  images := []
  queries := []
  out := []
  free := 0

end Sys2Proof.Machine
end

