-- ==== Sys2Proof/Machine/Ops.lean ====
section
/-!
DEFINITION. The operations that every family shares: the register file, the error log, time, fens and the spare map,
acceptance of command packets and their replies.
-/

namespace Sys2Proof.Machine

/-! ## The register file (chapter 16) -/

/-- Window offset of register `o` of pfen `p`'s fen window (Table 16-1). -/
def fenWin (p o : Nat) : Nat := 0x10000 + 0x1000 * p + o

/-- Window offset of register `o` of causeway `c`'s section (Table 16-1). -/
def cwWin (c o : Nat) : Nat := 0x8000 + 0x1000 * c + o

/-- Window offset of register `o` of queue `q`'s block (R602). -/
def cqWin (q o : Nat) : Nat := 0x2000 + 0x40 * q + o

/-- Nonzero reset values of the block sections (Tables 16-9 to 16-16). -/
def blockResets : SMap Word :=
  [(0x0000, 0x4E520100#32), (0x0004, 0x7F044048#32), (0x0240, 0x00101400#32),
   (0x1000, 0x100#32), (0x1004, 0x190#32), (0x1008, 8#32), (0x100C, 0x190#32), (0x1034, 0x64#32),
   (0x3004, 0xF#32),
   (0x5000, 0xBB8#32), (0x5004, 3#32), (0x500C, 0x029E02B2#32), (0x5010, 0x1CC#32), (0x5100, 1#32),
   (0x5108, 0x40#32), (0x510C, 0x20003000#32), (0x5110, 0x00102710#32), (0x5114, 0x800#32), (0x5118, 0x04082010#32),
   (0x511C, 0x01FF0440#32), (0x5120, 0xFF400810#32), (0x5124, 0x017C02BC#32), (0x5128, 0x0186014A#32), (0x512C, 0x37#32),
   (0x60C0, 0xFFFF#32), (0x60CC, 0xA#32), (0x60D0, 0x64#32), (0x7200, 0x1F4#32), (0x7204, 0x64#32)]

/-- Nonzero reset values of a fen window (Table 16-17). The repair records name nothing before FUSE_LOAD (DESIGN CHOICE, log
entry 4). -/
def fenResets : SMap Word :=
  [(0x300, 0x00FFFFFF#32), (0x304, 0x00FFFFFF#32), (0x308, 0x00FFFFFF#32), (0x30C, 0x00FFFFFF#32), (0x41C, 1#32), (0x510, 1#32), (0x700, 0x0FFFFFFF#32), (0xB08, 1#32)]

/-- Nonzero reset values of a causeway section (Table 16-15a). -/
def cwResets : SMap Word := [(0x000, 0x1001#32), (0x020, 0x64#32)]

/-- The reset value of the register at a window offset. -/
def regReset (off : Nat) : Word :=
  if 0x10000 ≤ off then mapGet 0#32 fenResets (off % 0x1000)
  else if 0x8000 ≤ off ∧ off < 0xB000 then mapGet 0#32 cwResets (off % 0x1000)
  else if 0x2000 ≤ off ∧ off < 0x2400 then (if off % 0x40 = 0x10 then 8#32 else 0#32)
  else mapGet 0#32 blockResets off

/-- A register of a register file whose unlisted registers hold their reset value. -/
def fileGet (m : SMap (Option Word)) (off : Nat) : Word := (mapGet none m off).getD (regReset off)

/-- A register file with one register set. -/
def filePut (m : SMap (Option Word)) (off : Nat) (v : Word) : SMap (Option Word) :=
  mapPut none m off (if v = regReset off then none else some v)

/-- The register at a window offset, an RWS register's value in force. -/
def reg (s : State) (off : Nat) : Word := fileGet s.regs off

/-- The state with a register set. -/
def setReg (off : Nat) (v : Word) (s : State) : State := { s with regs := filePut s.regs off v }

/-- A fen-window register. -/
def fenReg (s : State) (p o : Nat) : Word := reg s (fenWin p o)

/-- The state with a fen-window register set. -/
def setFenReg (p o : Nat) (v : Word) (s : State) : State := setReg (fenWin p o) v s

/-- A counter that has counted `n` more events, holding at 0xFFFF_FFFF (R81). -/
def satCount (v : Word) (n : Nat) : Word := BitVec.ofNat 32 (min (v.toNat + n) 0xFFFFFFFF)

/-- The MK cycle in which the block is: one is 9 units of time (R288). -/
def mkCycle (s : State) : Nat := s.now / 9

/-- What the events of this MK cycle did to a register, as CycleEvents holds it (R12). -/
def eventsOf (s : State) (off : Nat) : Option (Word × Word) :=
  if s.events.cycle = mkCycle s then mapGet none s.events.regs off else none

/-- The state with what the events of this MK cycle did to a register. -/
def noteEvents (off : Nat) (x : Word × Word) (s : State) : State :=
  let l := if s.events.cycle = mkCycle s then s.events.regs else []
  { s with events := ⟨mkCycle s, mapPut none l off (some x)⟩ }

/-- An event that changes a clearable register as `f` says (R12). -/
def eventReg (off : Nat) (f : Word → Word) (s : State) : State :=
  let x := (eventsOf s off).getD (reg s off, 0#32)
  noteEvents off (x.1, f x.2) (setReg off (f (reg s off)) s)

/-- What a clearing read returns: the value from before the events of the same MK cycle (R12). -/
def beforeEvents (s : State) (off : Nat) : Word := ((eventsOf s off).map (·.1)).getD (reg s off)

/-- What the events of this MK cycle leave in a register that is cleared in it (R12). -/
def survivors (s : State) (off : Nat) : Word := ((eventsOf s off).map (·.2)).getD 0#32

/-- A register cleared by a read: it keeps what the events of the same MK cycle set or counted, for the next read (R12). -/
def clearRead (off : Nat) (s : State) : State :=
  let v := survivors s off
  let s := if v = 0#32 then s else noteEvents off (0#32, v) s
  setReg off v s

/-- Add `n` to a counter. -/
def bump (off n : Nat) (s : State) : State := if n = 0 then s else eventReg off (fun v => satCount v n) s

/-- Add `n` to a counter of a fen window. -/
def fenBump (p o n : Nat) (s : State) : State := bump (fenWin p o) n s

/-- Set bits of a sticky register. -/
def orReg (off : Nat) (v : Word) (s : State) : State := eventReg off (fun x => x ||| v) s

/-- Whether bit `i` of a register is set. -/
def regBit (s : State) (off i : Nat) : Bool := (reg s off).getLsbD i

/-- Bits [hi:lo] of a word as a number. -/
def bitsOf (v : Word) (hi lo : Nat) : Nat := v.toNat / 2 ^ lo % 2 ^ (hi + 1 - lo)

/-- Bits [hi:lo] of a register as a number. -/
def regBits (s : State) (off hi lo : Nat) : Nat := bitsOf (reg s off) hi lo

/-! ## Repair records -/

/-- Those of the numbers below `n` that `k` fields of `w` bits each name, from bit `lo` on, ascending: what a repair record
names bad. -/
def namedBad (v : Word) (lo w k n : Nat) : List Nat :=
  (List.range n).filter fun i => (List.range k).any fun j => decide (bitsOf v (lo + w * j + w - 1) (lo + w * j) = i)

/-- The physical index of logical index `i` of `n` where `bad` are named bad: the (i + 1)-th that is not (R131, R229). -/
def physIndex (bad : List Nat) (n i : Nat) : Option Nat := ((List.range n).filter fun k => !bad.contains k)[i]?

/-- The physical row or column of a logical one under an array's repair record (R131). -/
def physRow (record : Word) (i : Nat) : Option Nat := physIndex (namedBad record 0 6 2 34) 34 i
def physCol (record : Word) (i : Nat) : Option Nat := physIndex (namedBad record 12 6 2 34) 34 i

/-- The physical special-function lane of a logical one under a unit's repair record (R229). -/
def physLane (record : Word) (i : Nat) : Option Nat := physIndex (namedBad record 0 7 4 68) 68 i

/-- Count an operation's numeric events in the registers of Table 2-11. -/
def countEv (p : Nat) (e : NumEv) (s : State) : State :=
  fenBump p 0x418 e.scaleClamp <| fenBump p 0x414 e.l32Sat <| fenBump p 0x410 e.accSat <| fenBump p 0x40C e.nanLoss
    <| fenBump p 0x408 e.ovfInf <| fenBump p 0x404 e.infClamp <| fenBump p 0x400 e.sat s

/-! ## The error log (R515) -/

/-- A log kind: its value and whether it is of class ERROR (Table 13-12). -/
abbrev LogKind := Nat × Bool

def lkReserved : LogKind := (0x0001, false)
def lkCmdSequence : LogKind := (0x0002, true)
def lkCmdFetchErr : LogKind := (0x0003, true)
def lkCmdDoorbell : LogKind := (0x0004, false)
def lkTempoGenSwitch : LogKind := (0x0010, false)
def lkTempoUnlock : LogKind := (0x0011, false)
def lkTempoStep : LogKind := (0x0012, false)
def lkPeriodMismatch : LogKind := (0x0013, false)
def lkTempoSlip : LogKind := (0x0014, false)
def lkRingStall : LogKind := (0x0015, false)
def lkLocalLate : LogKind := (0x0016, false)
def lkOverrun : LogKind := (0x0017, true)
def lkArrayHazard : LogKind := (0x0020, false)
def lkArrayFault : LogKind := (0x0021, true)
def lkSfuFault : LogKind := (0x0022, true)
def lkVectorFault : LogKind := (0x0023, true)
def lkMoveHazard : LogKind := (0x0024, false)
def lkChainOverrun : LogKind := (0x0025, false)
def lkFenHalt : LogKind := (0x0026, true)
def lkImemUe : LogKind := (0x0027, false)
def lkCarryHazard : LogKind := (0x0030, false)
def lkCarryFault : LogKind := (0x0031, true)
def lkCarryReject : LogKind := (0x0032, false)
def lkStalemate : LogKind := (0x0040, true)
def lkTierLate : LogKind := (0x0041, true)
def lkRecordLost : LogKind := (0x0042, false)
def lkFlashSlow : LogKind := (0x0043, false)
def lkCwProtocol : LogKind := (0x0050, true)
def lkMsgReject : LogKind := (0x0051, true)
def lkHeartbeatLost : LogKind := (0x0052, true)
def lkPartnerChanged : LogKind := (0x0053, false)
def lkCableChange : LogKind := (0x0054, false)
def lkLinkBudget : LogKind := (0x0055, false)
def lkFwRejected : LogKind := (0x0060, true)
def lkHeronTrigger : LogKind := (0x0070, false)
def lkSnapSkipped : LogKind := (0x0071, false)
def lkSnapFailed : LogKind := (0x0072, true)
def lkTwinMismatch : LogKind := (0x0073, true)
def lkTwinMissing : LogKind := (0x0074, false)
def lkRailRange : LogKind := (0x0075, true)
def lkFenStale : LogKind := (0x0076, false)
def lkFatal : LogKind := (0x0080, true)
def lkFenRecordLost : LogKind := (0x0081, false)
def lkBistFail : LogKind := (0x0082, false)
def lkPwrDomainBusy : LogKind := (0x0083, false)
def lkRailStale : LogKind := (0x0084, false)

/-- Items of a log detail, each in a 32-bit word from bit 128 of the entry up (log entry 9). -/
def detailOf : List Nat → BitVec 128
  | [] => 0
  | x :: l => (detailOf l <<< 32) ||| BitVec.ofNat 128 (x % 2 ^ 32)

/-- Log an entry: while the log holds 256, it is dropped and counted; class ERROR sets ERR_STATUS.ERROR either way. -/
def logAdd (k : LogKind) (source : Nat) (detail : List Nat) (s : State) : State :=
  let e : LogEntry := ⟨BitVec.ofNat 16 k.1, k.2, BitVec.ofNat 16 source, s.tempo.count, detailOf detail⟩
  let s := if 256 ≤ s.log.length then bump 0x400C 1 s else { s with log := s.log ++ [e] }
  if k.2 then orReg 0x4000 1#32 s else s

/-- The SOURCE of Table 13-11 whose registers the section of an offset holds (Table 16-1; log entry 112). -/
def regSource (off : Nat) : Nat :=
  if 0x10000 ≤ off ∧ off < 0x58000 then (off - 0x10000) / 0x1000
  else if 0x1000 ≤ off ∧ off < 0x2000 then 0x600
  else if 0x2000 ≤ off ∧ off < 0x2400 then 0x400 + (off - 0x2000) / 0x40
  else if 0x6000 ≤ off ∧ off < 0x7000 then 0x200
  else if 0x8000 ≤ off ∧ off < 0xB000 then 0x100 + (off - 0x8000) / 0x1000
  else 0x300

/-- Log under R14 a write that places a reserved value in an enumerated field. -/
def logReserved (off : Nat) (v : Word) (s : State) : State := logAdd lkReserved (regSource off) [off, v.toNat] s

/-- Record something the block sends out. -/
def emit (o : Out) (s : State) : State := { s with out := s.out ++ [o] }

/-! ## Time (R288; log entries 2 and 3) -/

/-- Units of State's time in one CK. -/
def unitsCk : Nat := 2
/-- Units in one TK. -/
def unitsTk : Nat := 45
/-- Units in one MK. -/
def unitsMk : Nat := 9
/-- Units in one microsecond. -/
def unitsUs : Nat := 4500

/-- Whether CK runs: neither stopped for a PLL switch (R30) nor by a fatal error (R574). -/
def ckRuns (s : State) : Bool := !s.plant.ckStopped && decide (s.plant.fatal = 0)

/-- Time moves on to `t`, if that is still to come; CK counts its cycles while it is not stopped. -/
def advanceTo (t : Nat) (s : State) : State :=
  if t ≤ s.now then s
  else { s with now := t, ck := if s.plant.ckStopped then s.ck else s.ck + (t / 2 - s.now / 2) }

/-- Time moves on to CK `c`, if that is still to come. -/
def advanceCk (c : Nat) (s : State) : State :=
  if c ≤ s.ck then s else { s with now := 2 * (s.now / 2 + (c - s.ck)), ck := c }

/-- One CK in which nothing is commanded. -/
def idleTick (s : State) : State := advanceTo (s.now + unitsCk) s

/-- CK of the TK-based time `t` as a difference in whole CK from now. -/
def ckAt (s : State) (t : Nat) : Nat := s.ck + (t / 2 - s.now / 2)

/-! ## Fens and the spare map -/

/-- The fen of a pfen. -/
def fenOf (s : State) (p : Nat) : Fen := mapGet {} s.fens p

/-- The state with a pfen's fen replaced. -/
def putFen (p : Nat) (f : Fen) (s : State) : State := { s with fens := mapPut {} s.fens p f }

/-- The state with a pfen's fen changed. -/
def modFen (p : Nat) (g : Fen → Fen) (s : State) : State := putFen p (g (fenOf s p)) s

/-- The pfen that holds a logical fen under the spare map in force. -/
def pfenOf (s : State) (n : Nat) : Option Nat := mapGet none s.spareMap n

/-- The logical fen that a pfen holds. -/
def logicalOf (s : State) (p : Nat) : Option Nat :=
  (s.spareMap.find? fun e => decide (e.2 = some p)).map (·.1)

/-- Whether the fen is ON and no transition runs its supply up (R560, R561). -/
def fenIsOn (f : Fen) : Bool := decide (f.pwr.st = .on) && decide (f.pwr.phase ≠ .ramping)

/-- A causeway. -/
def cwOf (s : State) (c : Nat) : Causeway := mapGet {} s.cws c

/-- The state with a causeway changed. -/
def modCw (c : Nat) (g : Causeway → Causeway) (s : State) : State := { s with cws := mapPut {} s.cws c (g (cwOf s c)) }

/-- The state with the plant (clocks, domains, start-up) changed. -/
def modPlant (g : Plant → Plant) (s : State) : State := { s with plant := g s.plant }

/-- A start-up step completes: START_STEP reports it when the step before it was the last (R582). -/
def startDone (k : Nat) (s : State) : State :=
  if s.plant.step + 1 = k then modPlant (fun x => { x with step := k }) s else s

/-- The state with the tempo changed. -/
def modTempo (g : Tempo → Tempo) (s : State) : State := { s with tempo := g s.tempo }

/-- A lode. -/
def lodeOf (s : State) (l : Nat) : Lode := mapGet {} s.lodes l

/-- The state with a lode changed. -/
def modLode (l : Nat) (g : Lode → Lode) (s : State) : State := { s with lodes := mapPut {} s.lodes l (g (lodeOf s l)) }

/-- An object entry. -/
def objOf (s : State) (o : Nat) : Obj := mapGet {} s.objs o

/-- The state with an object entry changed. -/
def modObj (o : Nat) (g : Obj → Obj) (s : State) : State := { s with objs := mapPut {} s.objs o (g (objOf s o)) }

/-- A stream context. -/
def streamOf (s : State) (k : Nat) : Stream := mapGet {} s.streams k

/-- The state with a stream context changed. -/
def modStream (k : Nat) (g : Stream → Stream) (s : State) : State :=
  { s with streams := mapPut {} s.streams k (g (streamOf s k)) }

/-- A loaded plan. -/
def planOf (s : State) (k : Nat) : Option Plan := mapGet none s.plans k

/-- The state with a loaded plan put, or taken away. -/
def putPlan (k : Nat) (x : Option Plan) (s : State) : State := { s with plans := mapPut none s.plans k x }

/-- The plan that a fen holds the image of. -/
def planOfFen (s : State) (p : Nat) : Option Plan := (fenOf s p).img.plan.bind (planOf s)

/-- The loaded plans with their indices. -/
def plansOf (s : State) : List (Nat × Plan) := s.plans.filterMap fun e => e.2.map fun x => (e.1, x)

/-! ## Command packets (chapter 13) -/

/-- Status codes (Table 13-5). -/
abbrev Status := BitVec 16

def stOk : Status := 0x0000
def stHeld : Status := 0x0001
def stDeferred : Status := 0x0002
def stRefusedSlots : Status := 0x0100
def stRefusedStateDepth : Status := 0x0101
def stRefusedCycles : Status := 0x0102
def stRefusedSlotCycle : Status := 0x0103
def stRefusedBandwidth : Status := 0x0104
def stRefusedLodes : Status := 0x0105
def stRefusedPower : Status := 0x0106
def stRefusedConfig : Status := 0x0107
def stEpochMismatch : Status := 0x0200
def stStaleFen : Status := 0x0201
def stMired : Status := 0x0300
def stDeadBank : Status := 0x0301
def stStalemate : Status := 0x0302
def stCompareMismatch : Status := 0x0400
def stCompareTolerant : Status := 0x0401

/-- `n` parameter bytes from byte `k` as a little-endian number (R15, R496). -/
def par (p : Packet) (k n : Nat) : Nat := p.params.toNat / 2 ^ (8 * k) % 2 ^ (8 * n)

/-- A command queue. -/
def queueOf (s : State) (q : Nat) : Queue := mapGet {} s.queues q

/-- The state with a queue replaced. -/
def putQueue (q : Nat) (x : Queue) (s : State) : State := { s with queues := mapPut {} s.queues q x }

/-- Entries of a queue's rings, E (R492). -/
def ringSizeOf (s : State) (q : Nat) : Nat := 2 ^ regBits s (cqWin q 0x10) 4 1

/-- The bits of a reply (Table 13-3). -/
def replyBits (c : Cmd) (st : Status) (final phase : Bool) (tempo : BitVec 48) (res : BitVec 96) : BitVec 256 :=
  res ++ (0 : BitVec 16) ++ tempo ++ c.qseq ++ (0 : BitVec 18) ++ BitVec.ofBool phase ++ BitVec.ofBool final
    ++ BitVec.ofNat 4 c.q ++ c.opcode ++ st ++ c.tag

/-- The commands in progress after a reply: a final one takes the command away, an interim one leaves it one reserved
entry fewer. -/
def inprogAfter (c : Cmd) (final : Bool) : List (Cmd × Nat) → List (Cmd × Nat)
  | [] => []
  | e :: l => if e.1 = c then (if final then l else (e.1, e.2 - 1) :: l) else e :: inprogAfter c final l

/-- The reply ring of a command: the one of the enabling of its queue that accepted it (R493). -/
def repliesFor (x : Queue) (gen : Nat) : ReplyRing := if gen = x.gen then x.replies else mapGet {} x.old gen

/-- A reply ring after a reply: the tail moves on, and a wrap inverts the phase (R495). -/
def replyMoved (r : ReplyRing) : ReplyRing :=
  { r with tail := if r.size ≤ r.tail + 1 then 0 else r.tail + 1, phase := xor r.phase (decide (r.size ≤ r.tail + 1)) }

/-- The queue with a command's reply ring replaced. -/
def putReplies (gen : Nat) (r : ReplyRing) (x : Queue) : Queue :=
  if gen = x.gen then { x with replies := r } else { x with old := mapPut {} x.old gen r }

/-- Post a reply at the tail of the command's reply ring (R493, R495, R497, R514). -/
def replyWith (c : Cmd) (st : Status) (final : Bool) (res : BitVec 96) (s : State) : State :=
  let x := queueOf s c.q
  let r := repliesFor x c.gen
  let s := emit (.reply c.q (r.base + 32 * r.tail) (replyBits c st final r.phase s.tempo.count res)) s
  let s := putQueue c.q (putReplies c.gen (replyMoved r) { x with inprog := inprogAfter c final x.inprog }) s
  if c.irq then orReg 0x3008 (1#32 <<< c.q) s else s

/-- Post a final reply with no result. -/
def reply (c : Cmd) (st : Status) (s : State) : State := replyWith c st true 0 s

/-- Post a final reply to each command of a list. -/
def replyAll (l : List Cmd) (st : Status) (s : State) : State := l.foldl (fun s c => reply c st s) s

/-- Stop a queue (R499, R514). -/
def stopQueue (q : Nat) (reason : BitVec 2) (s : State) : State :=
  orReg 0x3008 (1#32 <<< q) (putQueue q { queueOf s q with stopped := true, reason := reason } s)

/-- What a TARGET names (Table 13-1). -/
def targetOf (t : BitVec 16) : Option Target :=
  if t = 0xFFFF#16 then some .block
  else if t.getLsbD 15 then (if t.toNat % 2 ^ 15 < 72 then some (.pfen (t.toNat % 2 ^ 15)) else none)
  else if t.toNat < 64 then some (.fen t.toNat) else none

/-- Table 13-4: P, the parameter bytes the opcode uses, and the targets it takes. -/
def opForms : List OpForm :=
  [⟨0x01, 0, [], .block⟩,
   ⟨0x02, 16, [0, 2, 3, 4, 5, 8, 9, 10, 11, 12, 13, 14, 15], .block⟩,
   ⟨0x08, 16, [0, 1, 2, 3, 4, 5, 6, 7, 8, 9, 10, 11, 12], .block⟩,
   ⟨0x09, 4, [0], .block⟩,
   ⟨0x0A, 0, [], .block⟩,
   ⟨0x10, 16, [0, 1, 8, 9, 10, 11, 12, 13, 14, 15], .block⟩,
   ⟨0x11, 16, [0, 1, 2, 8, 9, 10, 11, 12, 13, 14, 15], .block⟩,
   ⟨0x12, 4, [0, 1], .block⟩,
   ⟨0x18, 16, [0, 1, 2, 3, 4, 5, 8, 9, 10, 11, 12, 13, 14, 15], .block⟩,
   ⟨0x19, 4, [0, 1], .block⟩,
   ⟨0x1A, 4, [0, 1], .block⟩,
   ⟨0x1B, 24, [0, 1, 2, 3, 4, 6, 7, 8, 9, 10, 11, 12, 13, 14, 15, 16, 18, 19], .block⟩,
   ⟨0x20, 16, [0, 1, 2, 3, 4, 8, 9, 10, 11, 12, 13, 14, 15], .block⟩,
   ⟨0x21, 8, [0, 1, 2, 3, 4, 6, 7], .block⟩,
   ⟨0x22, 4, [0, 1, 2, 3], .block⟩,
   ⟨0x23, 4, [0, 1, 2, 3], .block⟩,
   ⟨0x28, 8, [0, 1, 2, 3, 4, 5], .block⟩,
   ⟨0x29, 0, [], .block⟩,
   ⟨0x2A, 0, [], .block⟩,
   ⟨0x30, 16, [0, 1, 2, 3, 4, 5, 6, 7, 8, 9, 10, 11], .block⟩,
   ⟨0x31, 16, [0, 1, 2, 3, 4, 5, 6, 7], .blockOrFen⟩,
   ⟨0x32, 24, [0, 1, 2, 3, 4, 5, 6, 7, 8, 9, 10, 11, 12, 13, 14, 15, 16, 17, 20, 21, 22, 23], .block⟩,
   ⟨0x38, 4, [0], .fen⟩,
   ⟨0x39, 4, [0, 1, 2, 3], .fen⟩,
   ⟨0x3A, 4, [0], .fenOrPfen⟩,
   ⟨0x40, 4, [0, 1], .block⟩,
   ⟨0x41, 4, [0, 1, 2, 3], .block⟩,
   ⟨0x48, 40, [0, 1, 2, 3, 4, 5, 8, 9, 10, 11, 12, 13, 14, 15, 16, 17, 18, 19, 24, 25, 26, 27, 28, 29, 30, 31,
     32, 33, 34, 35, 36, 37, 38, 39], .block⟩,
   ⟨0x50, 4, [0], .block⟩]

/-- The form of an opcode, `none` for an opcode that Table 13-4 does not assign. -/
def opForm (opcode : Nat) : Option OpForm := opForms.find? fun f => decide (f.opcode = opcode)

/-- Replies a command may post (R495). -/
def repliesOf (opcode : Nat) : Nat := if opcode = 0x21 ∨ opcode = 0x48 then 2 else 1

/-- Whether an opcode takes a fen target that is stale (R499 step 3). -/
def staleExempt (opcode : Nat) : Bool :=
  decide (opcode = 0x02 ∨ opcode = 0x31 ∨ opcode = 0x38 ∨ opcode = 0x39 ∨ opcode = 0x3A)

/-- Whether a target is of the kind an opcode takes. -/
def targetFits : TargetKind → Target → Bool
  | .block, .block => true
  | .blockOrFen, .block => true
  | .blockOrFen, .fen _ => true
  | .fen, .fen _ => true
  | .fenOrPfen, .fen _ => true
  | .fenOrPfen, .pfen _ => true
  | _, _ => false

/-- Free entries of a queue's reply ring (R495): the entries from RQ_HEAD up to the tail and those reserved are not
free, and one entry always stays empty (log entry 10). Commands of an earlier enabling hold entries of their own ring
(R493, log entry 105). -/
def replyRoom (s : State) (q : Nat) : Nat :=
  let x := queueOf s q
  let n := x.replies.size
  let used := (x.replies.tail + n - regBits s (cqWin q 0x18) 11 0 % n) % n
  n - 1 - used - ((x.inprog.filter fun e => decide (e.1.gen = x.gen)).map (·.2)).sum

/-- Whether the control core may accept the next command of a queue (R494, R495, R498, R518). -/
def cmdReady (opcode : Nat) (q : Nat) (p : Packet) (s : State) : Bool :=
  let x := queueOf s q
  x.enabled && !x.stopped && decide (x.head ≠ x.tail) && decide (s.mbox.fw = .running)
    && decide (repliesOf opcode ≤ replyRoom s q) && (!p.flags.getLsbD 1 || x.inprog.isEmpty)

/-- Steps 2 and 3 of R499: the status that refuses the command, or its target. -/
def packetCheck (opcode : Nat) (p : Packet) (s : State) : Status ⊕ Target :=
  match opForm opcode, targetOf p.target with
  | some f, some t =>
    if !decide (p.flags.toNat < 4) || !decide (p.length.toNat = f.len) || !targetFits f.target t
        || !((List.range 48).all fun k => f.used.contains k || decide (par p k 1 = 0)) then .inl stRefusedConfig
    else match t with
      | .block => if p.epoch = 0 then .inr t else .inl stRefusedConfig
      | .pfen _ => if p.epoch = 0 then .inr t else .inl stEpochMismatch
      | .fen n =>
        match pfenOf s n with
        | none => if staleExempt opcode && decide (p.epoch = 0) then .inr t
                  else .inl (if staleExempt opcode then stEpochMismatch else stStaleFen)
        | some ph =>
          let lf := (fenOf s ph).life
          if lf.stale && !staleExempt opcode then .inl stStaleFen
          else if p.epoch = lf.epoch then .inr t else .inl stEpochMismatch
  | _, _ => .inl stRefusedConfig

/-- The command record of a packet that a queue gives. -/
def cmdOf (opcode : Nat) (q : Nat) (p : Packet) (s : State) : Cmd :=
  { q := q, gen := (queueOf s q).gen, tag := p.tag, qseq := p.qseq, opcode := BitVec.ofNat 8 opcode, irq := p.flags.getLsbD 0 }

/-- Acceptance of a command packet (R498, R499). When the control core may not accept it, nothing happens. Otherwise
the head passes it and the first failed check replies; a command that passes steps 1 to 3 goes on to its own checks. -/
def acceptCmd (opcode : Nat) (q : Nat) (p : Packet) (body : Cmd → Target → State → State) (s : State) : State :=
  if cmdReady opcode q p s then
    let x := queueOf s q
    let c := cmdOf opcode q p s
    let s := putQueue q { x with head := (x.head + 1) % ringSizeOf s q, inprog := x.inprog ++ [(c, repliesOf opcode)] } s
    if p.qseq ≠ x.expSeq then
      logAdd lkCmdSequence (0x400 + q) [x.expSeq.toNat, p.qseq.toNat]
        (stopQueue q 1 (replyWith c stRefusedConfig true 0xFE s))
    else
      let s := putQueue q { queueOf s q with expSeq := x.expSeq + 1 } s
      match packetCheck opcode p s with
      | .inl st => reply c st s
      | .inr t => body c t s
  else s

/-! ## The heron's counters -/

/-- Change the heron. -/
def modHeron (g : Heron → Heron) (s : State) : State := { s with heron := g s.heron }

/-- The counters that heron inputs 5 to 8, 10 and 11 sum (Table 14-1), by window offset. -/
def heronCounters (i : Nat) : List Nat :=
  let fens (o : Nat) : List Nat := (List.range 72).map fun p => fenWin p o
  let links (o : Nat) : List Nat := (List.range 3).map fun c => cwWin c o
  match i with
  | 5 => fens 0x500 ++ fens 0xB00 ++ fens 0xA10 ++ [0xB100]
  | 6 => fens 0x504 ++ fens 0xB04 ++ fens 0xA14 ++ [0xB104]
  | 7 => ((List.range 9).map fun k => links (0x080 + 4 * k)).flatten
  | 8 => links 0x048
  | 10 => links 0x064
  | 11 => [0x6048, 0x604C, 0x6050]
  | _ => []

/-- Counters lose what `lost` says of each: the heron's inputs that sum them count from what is left (R524, log entry 27). -/
def heronForget (lost : Nat → Nat) (s : State) : State :=
  let left (old : List Int) (i : Nat) : Int := old.getD i 0 - ((((heronCounters i).map lost).sum : Nat) : Int)
  modHeron (fun h => { h with seen := (List.range 12).map (left h.seen) }) s

/-! ## The tempo -/

/-- Whether the tempo is stopped (TEMPO_STATUS.RUNNING is 0). -/
def tempoStopped (s : State) : Bool := !s.tempo.running

end Sys2Proof.Machine
end

