-- ==== Sys2Proof/Machine/FenMem.lean ====
section
/-!
DEFINITION. What one fen holds, and how it is read and written: tile registers, predicates and masks, buffer rows with
their ECC and mire, tags, arrival counters, and the pending writes of issued operations.
-/

namespace Sys2Proof.Machine

/-! ## Registers of the vector engine -/

/-- 256 zero elements. -/
def zeroElems : List Word := List.replicate 256 0#32

/-- The 256 elements of a tile register. -/
def tileReg (f : Fen) (r : Nat) : List Word := mapGet zeroElems f.v r

/-- The list's element, zero beyond its end. -/
def elemAt (l : List Word) (i : Nat) : Word := l.getD i 0#32

/-- Vector `m` of a tile register: elements 32m to 32m + 31 (R109). -/
def vecOf (f : Fen) (r m : Nat) : List Word := ((tileReg f r).drop (32 * m)).take 32

/-- The mire bit of a vector (R261). -/
def vecMire (f : Fen) (r m : Nat) : Bool := (mapGet 0#8 f.vMire r).getLsbD m

/-- A predicate tile; P0 is all ones (R262). -/
def predOf (f : Fen) (i : Nat) : BitVec 256 := if i = 0 then BitVec.allOnes 256 else mapGet 0#256 f.pr i

/-- A mask pair; M0 is all ones (R122). -/
def maskOf (f : Fen) (i : Nat) : Word × Word :=
  if i = 0 then (0xFFFFFFFF#32, 0xFFFFFFFF#32) else mapGet (0#32, 0#32) f.masks i

/-- Elements replaced where a new value is given. -/
def overlay : List Word → List (Option Word) → List Word
  | [], _ => []
  | l, [] => l
  | _ :: l, some y :: m => y :: overlay l m
  | x :: l, none :: m => x :: overlay l m

/-- A tile register's mire bits after a write (R264): `taint` gives for each destination vector whether an active lane
takes a mired input; a vector that keeps an inactive lane keeps its mire. -/
def mireAfter (old : BitVec 8) (vals : List (Option Word)) (taint : List (Option Bool)) : BitVec 8 :=
  (List.range 8).foldl (fun b m =>
    match taint.getD m none with
    | none => b
    | some t =>
      let keep := ((vals.drop (32 * m)).take 32).any Option.isNone
      let bit := t || (keep && old.getLsbD m)
      if bit then b ||| (1#8 <<< m) else b &&& ~~~(1#8 <<< m)) old

/-- Destination vectors that end mired. -/
def miredCount (b : BitVec 8) (taint : List (Option Bool)) : Nat :=
  ((List.range 8).filter fun m => (taint.getD m none).isSome && b.getLsbD m).length

/-! ## Buffers (R377 to R382) -/

/-- One buffer of a fen. -/
def bufOf (f : Fen) : BufId → Buffer
  | .w => f.bufW
  | .a => f.bufA
  | .p => f.bufP

/-- A fen with one buffer replaced. -/
def putBuf (f : Fen) (b : BufId) (x : Buffer) : Fen :=
  match b with
  | .w => { f with bufW := x }
  | .a => { f with bufA := x }
  | .p => { f with bufP := x }

/-- Slots of a buffer (Table 10-1). -/
def bufSlots : BufId → Nat
  | .w => 384
  | .a => 256
  | .p => 128

/-- The number of a buffer in descriptors (Tables 9-4, 9-14, 10-4). -/
def bufCode : BufId → Nat
  | .w => 0
  | .a => 1
  | .p => 2

/-- The buffer a 2-bit field names; 3 is reserved. -/
def bufOfCode : Nat → Option BufId
  | 0 => some .w
  | 1 => some .a
  | 2 => some .p
  | _ => none

/-- Row number `row` of a buffer, wrapped at its end (R360). -/
def bufWrap (b : BufId) (row : Nat) : Nat := row % (32 * bufSlots b)

/-- The data of a row. -/
def rowData (x : Buffer) (row : Nat) : Row := mapGet 0#1024 x.rows row

/-- The stored mire bit of a row. -/
def rowMire (x : Buffer) (row : Nat) : Bool := mapGet false x.mire row

/-- The ECC findings of a row's eight words. -/
def rowEcc (x : Buffer) (row : Nat) : List Ecc := mapRun .ok x.err (8 * row) 8

/-- Whether a read of the row is uncorrectable. -/
def rowBad (x : Buffer) (row : Nat) : Bool := (rowEcc x row).any (fun e => decide (e = .ue))

/-- Whether a read of the row corrects something. -/
def rowFixed (x : Buffer) (row : Nat) : Bool := (rowEcc x row).any (fun e => decide (e = .ce))

/-- A row as a read delivers it, with its mire (R380). -/
def rowRead (x : Buffer) (row : Nat) : Row × Bool := (rowData x row, rowMire x row || rowBad x row)

/-- A buffer after a read of a row: an uncorrectable word sets the stored mire bit (R380). -/
def bufAfterRead (x : Buffer) (row : Nat) : Buffer :=
  if rowBad x row then { x with mire := mapPut false x.mire row true } else x

/-- Rows of a buffer are read or written in the present CK (R381). -/
def noteUse (p : Nat) (b : BufId) (rows : List Nat) (s : State) : State :=
  modFen p (fun f => { f with
    useCk := s.ck
    useRows := (if f.useCk = s.ck then f.useRows else []) ++ rows.map fun r => (b, r) }) s

/-- The effects of reading rows of a buffer (R380): stored mire bits, BUF_CE and BUF_UE. -/
def touchRows (p : Nat) (b : BufId) (rows : List Nat) (s : State) : State :=
  rows.foldl (fun s row =>
    let x := bufOf (fenOf s p) b
    let s := fenBump p 0xB04 (if rowBad x row then 1 else 0) (fenBump p 0xB00 (if rowFixed x row then 1 else 0) s)
    if rowBad x row then modFen p (fun f => putBuf f b (bufAfterRead x row)) s else s) s

/-- A buffer whose scrubber drops a pending write-back of a row that is written (R381). -/
def scrubDrop (x : Buffer) (row : Nat) : Buffer :=
  if x.scrub = row ∧ x.scrubRead.isSome then { x with scrubRead := some [] } else x

/-- A buffer with a whole row written (R379). -/
def bufWrite (x : Buffer) (row : Nat) (data : Row) (mire : Bool) : Buffer :=
  let x := scrubDrop x row
  { x with rows := mapPut 0#1024 x.rows row data, mire := mapPut false x.mire row mire,
           err := mapPutRun .ok x.err (8 * row) (List.replicate 8 .ok) }

/-- Write a whole row of a fen's buffer. -/
def writeRow (p : Nat) (b : BufId) (row : Nat) (data : Row) (mire : Bool) (s : State) : State :=
  modFen p (fun f => putBuf f b (bufWrite (bufOf f b) row data mire)) s

/-- How a write of bits `lo` to `hi - 1` meets each word of a row: 0 untouched, 1 in part, 2 wholly. -/
def spanCover (lo hi : Nat) : List Nat :=
  (List.range 8).map fun w =>
    if hi ≤ 128 * w ∨ 128 * (w + 1) ≤ lo then 0 else if lo ≤ 128 * w ∧ 128 * (w + 1) ≤ hi then 2 else 1

/-- Words written in part whose merging read finds `e` (R379). -/
def mergeCount (x : Buffer) (row : Nat) (cover : List Nat) (e : Ecc) : Nat :=
  (((rowEcc x row).zip cover).filter fun w => decide (w.2 = 1) && decide (w.1 = e)).length

/-- The ECC findings of a row after a write: a word written wholly, or in part over a correctable error, is clean; a word
written in part keeps an uncorrectable error (R379). -/
def eccAfter (x : Buffer) (row : Nat) (cover : List Nat) : List Ecc :=
  ((rowEcc x row).zip cover).map fun w => if w.2 = 2 ∨ (w.2 = 1 ∧ w.1 = .ce) then .ok else w.1

/-- A buffer with part of a row written (R379, R362): the mire bit is set by mired data or an uncorrectable merge, and
otherwise unchanged. -/
def bufWritePart (x : Buffer) (row : Nat) (cover : List Nat) (data : Row) (mire : Bool) : Buffer :=
  let bad := decide (0 < mergeCount x row cover .ue)
  let y := scrubDrop x row
  { y with rows := mapPut 0#1024 y.rows row data, err := mapPutRun .ok y.err (8 * row) (eccAfter x row cover),
           mire := if mire || bad then mapPut false y.mire row true else y.mire }

/-- Write part of a row of a fen's buffer. -/
def writePart (p : Nat) (b : BufId) (row : Nat) (cover : List Nat) (data : Row) (mire : Bool) (s : State) : State :=
  let x := bufOf (fenOf s p) b
  let s := fenBump p 0xB04 (mergeCount x row cover .ue) (fenBump p 0xB00 (mergeCount x row cover .ce) s)
  modFen p (fun f => putBuf f b (bufWritePart x row cover data mire)) s

/-- The bits of a row that a format's elements use (Table 2-7). -/
def usedBits (fmt : Fmt) : Nat := fmtBits fmt * fmtPerRow fmt

/-- How a write of bits `lo` to `hi - 1` of a format, and of the row's unused bits, meets each word (R58). -/
def elemCover (fmt : Fmt) (lo hi : Nat) : List Nat :=
  if hi = usedBits fmt then spanCover lo 1024
  else ((spanCover lo hi).zip (spanCover (usedBits fmt) 1024)).map fun c => max c.1 c.2

/-- A row with elements from `i` replaced, its unused bits written as 0 (R58). -/
def rowPutElems (fmt : Fmt) (r : Row) (i : Nat) (l : List Nat) : Row :=
  BitVec.ofNat 1024 ((rowPutRun fmt r i l).toNat % 2 ^ usedBits fmt)

/-- Write elements `first` onwards of a format into a row of a fen's buffer, with the unused bits 0 (R58); a write of all the
elements of a row is a whole write. -/
def writeElems (p : Nat) (b : BufId) (row : Nat) (fmt : Fmt) (first : Nat) (codes : List Nat) (mire : Bool) (s : State) :
    State :=
  let lo := fmtBits fmt * first
  let hi := lo + fmtBits fmt * codes.length
  if codes = [] then s
  else if first = 0 ∧ fmtPerRow fmt ≤ codes.length then writeRow p b row (packRow fmt codes) mire s
  else writePart p b row (elemCover fmt lo hi) (rowPutElems fmt (rowData (bufOf (fenOf s p) b) row) first codes) mire s

/-! ## Tags and arrival counters (R384 to R392) -/

/-- A slot's tag. -/
def tagOf (f : Fen) (b : BufId) (slot : Nat) : Tag := mapGet {} (bufOf f b).tags slot

/-- A tag with its record of CK `c` opened. -/
def tagStamp (c : Nat) (t : Tag) : Tag :=
  if t.since = c then t else { full := t.full, seen := t.full, since := c, askFull := false, askEmpty := false }

/-- A change to FULL or EMPTY in CK `c`; of both in one CK, FULL stands (R385). -/
def tagChange (c : Nat) (full : Bool) (t : Tag) : Tag :=
  let t := tagStamp c t
  { t with askFull := t.askFull || full, askEmpty := t.askEmpty || !full, full := full || t.askFull }

/-- Whether a change in CK `c` meets the opposite change of the same CK. -/
def tagRace (c : Nat) (full : Bool) (t : Tag) : Bool :=
  let t := tagStamp c t
  (if full then t.askEmpty && !t.askFull else t.askFull && !t.askEmpty)

/-- Change a slot's tag in CK `c`, counting a race. -/
def setTag (p : Nat) (b : BufId) (slot : Nat) (full : Bool) (c : Nat) (s : State) : State :=
  let t := tagOf (fenOf s p) b slot
  let s := fenBump p 0xB0C (if tagRace c full t then 1 else 0) s
  modFen p (fun f => let x := bufOf f b
    putBuf f b { x with tags := mapPut {} x.tags slot (tagChange c full t) }) s

/-- What a WAIT issued in CK `k` sees of a tag: no change of CK `k` itself (R339). -/
def tagSeen (k : Nat) (t : Tag) : Bool := if t.since < k then t.full else t.seen

/-- An arrival counter. -/
def counterOf (f : Fen) (g : Nat) : Counter := mapGet {} f.counters g

/-- A counter with its record of CK `c` opened. -/
def ctrStamp (c : Nat) (x : Counter) : Counter :=
  if x.since = c then x else { x with seen := x.cnt, oldSeen := x.old, seenGen := x.gen, since := c }

/-- Change a counter in CK `c`. -/
def modCounter (p g c : Nat) (h : Counter → Counter) (s : State) : State :=
  modFen p (fun f => { f with counters := mapPut {} f.counters g (h (ctrStamp c (counterOf f g))) }) s

/-- A completed SEND or message in CK `c` increments CUR (R390); at 0xFFFF it is lost and counted. -/
def countArrival (p g c : Nat) (s : State) : State :=
  let full := decide (0xFFFF ≤ (counterOf (fenOf s p) g).cnt)
  fenBump p 0xB28 (if full then 1 else 0) (modCounter p g c (fun x => { x with cnt := if full then x.cnt else x.cnt + 1 }) s)

/-- A completed transfer of generation `gen` in CK `c` increments the entry of that generation (R390) and leaves OLD's
transfers in flight one fewer; an entry of no such generation counts nothing. -/
def countTransfer (p g c : Nat) (gen : BitVec 16) (s : State) : State :=
  let x := counterOf (fenOf s p) g
  if x.gen = gen then countArrival p g c s
  else if x.gen - 1 = gen then
    let full := decide (0xFFFF ≤ x.old)
    fenBump p 0xB28 (if full then 1 else 0)
      (modCounter p g c (fun x => { x with old := if full then x.old else x.old + 1, inflight := x.inflight - 1 }) s)
  else s

/-- A generation step of the lode that feeds a counter, from `gen` with `left` transfers in flight (R390). -/
def counterStep (p g c : Nat) (gen : BitVec 16) (left : Nat) (s : State) : State :=
  modCounter p g c (fun x => { x with old := if x.gen = gen then x.cnt else 0, inflight := left, gen := gen + 1, cnt := 0 }) s

/-! ## Tiles and planes -/

/-- Index of a state tile within a fen. -/
def tileIx (a d : Nat) : Nat := 128 * a + d

/-- A state tile. -/
def tileOf (f : Fen) (a d : Nat) : Tile := mapGet {} f.tiles (tileIx a d)

/-- A fen with a tile replaced. -/
def putTile (f : Fen) (a d : Nat) (t : Tile) : Fen := { f with tiles := mapPut {} f.tiles (tileIx a d) t }

/-- An array's planes and occupancy. -/
def arrOf (f : Fen) (a : Nat) : ArrayState := mapGet {} f.arrays a

/-- A fen with an array replaced. -/
def putArr (f : Fen) (a : Nat) (x : ArrayState) : Fen := { f with arrays := mapPut {} f.arrays a x }

/-- A state entry (R135). -/
def entryOf (t : Tile) (e : Nat) : Entry := mapGet 0#56 t.ent e

/-- A tile with entries written with fresh check bits in both fields (R137). -/
def tileWrite (t : Tile) (vals : List (Nat × Entry)) : Tile :=
  { t with ent := vals.foldl (fun m v => mapPut 0#56 m v.1 v.2) t.ent,
           err := if t.err = [] then [] else vals.foldl (fun m v => mapPut .ok (mapPut .ok m (2 * v.1) .ok) (2 * v.1 + 1) .ok) t.err }

/-- The entries of which a read of some cells finds `x` in a field that it senses: VALUE, and COMP for a compensated one
(R135, R137). -/
def tileFound (t : Tile) (comp : Bool) (cells : Nat → Bool) (x : Ecc) : List Nat :=
  ((t.err.filter fun e => decide (e.2 = x) && (comp || decide (e.1 % 2 = 0)) && cells (e.1 / 2)).map (·.1 / 2)).eraseDups

/-- A read of some cells of a tile meets ECC (R137): STATE_CE, STATE_UE, and an uncorrectable error sets the tile's MIRE. -/
def tileTouch (p a d : Nat) (comp : Bool) (cells : Nat → Bool) (s : State) : State :=
  let t := tileOf (fenOf s p) a d
  let ue := (tileFound t comp cells .ue).length
  let s := fenBump p 0x504 ue (fenBump p 0x500 (tileFound t comp cells .ce).length s)
  if 0 < ue then modFen p (fun f => putTile f a d { t with mire := true }) s else s

/-- The quadrant of cell (i, j): Q0 NW, Q1 NE, Q2 SW, Q3 SE (R126). -/
def quadOf (i j : Nat) : Nat := 2 * (i / 16) + j / 16

/-- The quadrants of array `a`, as four bits, that a fault of the operation numbered `seq` in order of issue, or of an earlier
one, has stopped as faulted or collateral (R129). -/
def badQuads (f : Fen) (a seq : Nat) : Nat :=
  f.faults.foldl (fun b x => if x.1 ≤ seq then b ||| x.2 / 2 ^ (4 * a) % 16 else b) 0

/-- Whether an output of operation `seq` that rests on the quadrants `mask` of array `a` is mired by a fault (R129). -/
def faultMires (f : Fen) (seq : Nat) : Option (Nat × Nat) → Bool
  | none => false
  | some (a, mask) => decide (badQuads f a seq &&& mask ≠ 0)

/-- Whether a cell of array `a` lies in a quadrant whose entries operation `seq` no longer updates (R129). -/
def cellStopped (f : Fen) (a seq e : Nat) : Bool := (badQuads f a seq).testBit (quadOf (e / 32) (e % 32))

/-! ## TLOAD on the load bus (R104 to R108) -/

/-- Rows of a tile, without its scale row (Table 3-6). -/
def tileRows : WFmt → Nat
  | .f4x2 => 8
  | .f4 => 4
  | .f6 => 7
  | .f8e4 => 8
  | .f8e5 => 8
  | .f16b => 16
  | .f16h => 16
  | .f32 => 32
  | .cf8e4 => 16
  | .cf8e5 => 16

/-- Weights of one tile row, and bits of each. -/
def tileShape : WFmt → Nat × Nat
  | .f4x2 => (64, 4)
  | .f4 => (32, 4)
  | .f6 => (32, 6)
  | .f8e4 => (32, 8)
  | .f8e5 => (32, 8)
  | .f16b => (32, 16)
  | .f16h => (32, 16)
  | .f32 => (32, 32)
  | .cf8e4 => (32, 16)
  | .cf8e5 => (32, 16)

/-- Whether TLOAD reads a scale row: SC as Table 9-6 gives it. -/
def tileScaled (op : TLoadOp) : Bool :=
  match op.wfmt with
  | .f4x2 => true
  | .f4 => true
  | .f6 => true
  | .f8e4 => op.sc
  | .f8e5 => op.sc
  | .f16b => false
  | .f16h => false
  | .f32 => false
  | .cf8e4 => true
  | .cf8e5 => true

/-- Rows that a TLOAD reads. -/
def loadRows (op : TLoadOp) : Nat := tileRows op.wfmt + if tileScaled op then 1 else 0

/-- S of Table 3-6: CK from the start of the reads to the plane complete, two rows in each. -/
def loadCk (op : TLoadOp) : Nat := (loadRows op + 1) / 2

/-- Buffer row of the `k`-th row a TLOAD reads: tile rows in ascending order, the scale row last. -/
def loadRowAt (op : TLoadOp) (k : Nat) : Nat :=
  32 * op.wslot.val + if k < tileRows op.wfmt then op.wrow.val + k else op.srow.val

/-- Cells and bits that row `k` of a tile fills: the entry of cell 32i + j takes its weights (R83, R90, R103). -/
def rowCells (w : WFmt) (row : Row) (k : Nat) : List (Nat × Word) :=
  let per := 1024 / (tileShape w).2
  let per := if w = .f6 then 160 else per
  let bits := (tileShape w).2
  match w with
  | .f4x2 => (List.range 128).filterMap fun e =>
      let n := 128 * k + e
      if n < 1024 then some (n, BitVec.ofNat 32 (rowField row (8 * e) 8)) else none
  | _ => (List.range per).filterMap fun e =>
      let n := per * k + e
      if n < 1024 then some (n, BitVec.ofNat 32 (rowField row (bits * e) bits)) else none

/-- The quadrants of a set of cells, as four bits. -/
def cellQuads (cells : List (Nat × Word)) : BitVec 4 :=
  cells.foldl (fun b c => b ||| (1#4 <<< quadOf (c.1 / 32) (c.1 % 32))) 0#4

/-- Scale bytes of a tile: one for each tile row, two for F4 at double rate (R105). -/
def scaleCount (w : WFmt) : Nat := if w = .f4x2 then 64 else 32

/-- A plane whose quadrants `q` a mired row of the TLOAD has reached. The last row of a TLOAD that filled the plane from its
first one clears the marks that no row of this tile set (R97). -/
def planeMark (q : BitVec 4) (last : Bool) (x : Plane) : Plane :=
  let seen := x.loading.map fun m => m ||| q
  if last then { x with mire := seen.getD (x.mire ||| q), loading := none } else { x with mire := x.mire ||| q, loading := seen }

/-- A plane with one row of its tile written; the first row also brings the tile's format, and a scaled tile has no UNIFORM
flag before its scale row (log entry 113). -/
def planeWrite (op : TLoadOp) (k : Nat) (row : Row) (mire : Bool) (x : Plane) : Plane :=
  let x := if k = 0 then { x with fmt := some op.wfmt, sc := tileScaled op, loading := some 0,
                                   uniform := if tileScaled op then none else some true } else x
  let last := decide (loadRows op ≤ k + 1)
  if k < tileRows op.wfmt then
    let cells := rowCells op.wfmt row k
    planeMark (if mire then cellQuads cells else 0) last
      { x with cells := cells.foldl (fun m c => mapPut none m c.1 (some c.2)) x.cells }
  else
    let sc := (List.range (scaleCount op.wfmt)).map fun i => BitVec.ofNat 8 (rowField row (8 * i) 8)
    planeMark (if mire then 0xF else 0) last
      { x with scales := mapPutRun none x.scales 0 (sc.map some), uniform := some (sc.all fun b => decide (b = sc.headD 0#8)) }

/-- The arrays a 4-bit mask names. -/
def arraysOf (mask : BitVec 4) : List Nat := (List.range 4).filter fun a => mask.getLsbD a

/-- Read and write the next `n` rows of a started TLOAD. -/
def loadSteps (p : Nat) (op : TLoadOp) : Nat → Nat → State → State
  | 0, _, s => s
  | n + 1, k, s =>
    let row := loadRowAt op k
    let r := rowRead (bufOf (fenOf s p) .w) row
    let s := touchRows p .w [row] s
    let s := modFen p (fun f => (arraysOf op.amask).foldl (fun f a =>
      let x := arrOf f a
      putArr f a { x with back := planeWrite op k r.1 r.2 x.back }) f) s
    loadSteps p op n (k + 1) s

/-- The load bus up to the present CK: a TLOAD starts at its issue or after the one before it, and shows two rows in each
CK (R104, R105). -/
def runLoads (p : Nat) : List LoadJob → State → State
  | [], s => s
  | j :: l, s =>
    let start := j.start.getD (max j.issued (fenOf s p).busFree)
    if s.ck < start then modFen p (fun f => { f with loads := j :: l }) s
    else
      let total := loadRows j.op
      let want := min total (2 * (s.ck - start))
      let s := modFen p (fun f => { f with busFree := start + loadCk j.op }) s
      let s := loadSteps p j.op (want - j.shown) j.shown s
      if want = total then runLoads p l s
      else modFen p (fun f => { f with loads := { j with start := some start, shown := want } ::
        l }) s

/-- Bring the load bus up to date. -/
def settleLoads (p : Nat) (s : State) : State :=
  let l := (fenOf s p).loads
  if l = [] then s else runLoads p l (modFen p (fun f => { f with loads := [] }) s)

/-! ## Pending writes -/

/-- One rounding of each group sum onto a W40 accumulator, in order (R94, R95). -/
def accumulate (a : W40) (sums : List Num) : W40 × Nat :=
  sums.foldl (fun r g => let x := roundW40 (numAdd (w40v r.1) g); (x.1, if x.2 then r.2 + 1 else r.2)) (a, 0)

/-- Group sums without an accumulator: the first is rounded alone. -/
def sumGroups : List Num → W40 × Nat
  | [] => (0, 0)
  | g :: l =>
    let x := roundW40 g
    let r := accumulate x.1 l
    (r.1, (if x.2 then 1 else 0) + r.2)

/-- Containers of a P-buffer row written by operation `seq` (R93, R96): values, saturations, whether a written output is
mired. -/
def prowValues (f : Fen) (seq : Nat) (outs : List ArrOut) (old : Row) (oldMire acc : Bool) :
    List (Nat × W40) × Nat × Bool :=
  outs.foldl (fun r o =>
    let v := if acc then accumulate (BitVec.ofNat 40 (rowElem .w40 old o.pos)) o.sums else sumGroups o.sums
    (r.1 ++ [(o.pos, v.1)], r.2.1 + v.2, r.2.2 || o.mire || (acc && oldMire) || faultMires f seq o.free)) ([], 0, false)

/-- A row with W40 results put into containers. -/
def putContainers (row : Row) (vals : List (Nat × W40)) : Row :=
  vals.foldl (fun r v => rowPutRun .w40 r v.1 [v.2.toNat]) row

/-- Write W40 results into containers of a P-buffer row; all sixteen are a whole row. -/
def writeContainers (p row : Nat) (vals : List (Nat × W40)) (mire : Bool) (s : State) : State :=
  if vals = [] then s
  else if vals.length = 16 then writeRow p .p row (packRow .w40 (vals.map (·.2.toNat))) mire s
  else
    let has (k : Nat) : Bool := vals.any fun v => decide (v.1 = k)
    let cover := (List.range 8).map fun w => (if has (2 * w) then 1 else 0) + (if has (2 * w + 1) then 1 else 0)
    writePart p .p row cover (putContainers (rowData (fenOf s p).bufP row) vals) mire s

/-- The result of a TMUL forwarded to the accumulation of a later one on its way to the row (R117). -/
def forwardRow (row : Nat) (vals : List (Nat × W40)) (mire : Bool) (w : PendWr) : PendWr :=
  match w.wr with
  | .prow r outs acc (some b) =>
    if r = row ∧ w.cls = .tmul then
      { w with wr := .prow r outs acc (some (putContainers b.1 vals, if vals.length = 16 then mire else b.2 || mire)) }
    else w
  | _ => w

/-- W40 results written to a P-buffer row, and forwarded where a TMUL wrote them. -/
def prowWrite (p row : Nat) (outs : List ArrOut) (acc : Bool) (base : Option (Row × Bool)) (w : PendWr) (s : State) : State :=
  let f := fenOf s p
  let old := base.getD (rowData f.bufP row, rowMire f.bufP row)
  let r := prowValues f w.seq outs old.1 old.2 acc
  let s := writeContainers p row r.1 r.2.2 (countEv p { accSat := r.2.1 } s)
  if w.cls = .tmul then modFen p (fun f => { f with pend := f.pend.map (forwardRow row r.1 r.2.2) }) s else s

/-- F32 results of a read written to a vector of a tile register (R115, R125). -/
def pvecWrite (p reg vec : Nat) (outs : List ArrOut) (seq : Nat) (s : State) : State :=
  let f := fenOf s p
  let conv := outs.map fun o => (o, convert .f32 none false (o.sums.headD (.fin false 0 0)))
  let vals := (List.range 256).map fun e =>
    ((conv.find? fun c => decide (32 * vec + c.1.pos = e)).map fun c => BitVec.ofNat 32 c.2.1)
  let taint := outs.any fun o => o.mire || faultMires f seq o.free
  let s := countEv p (evSum (conv.map (·.2.2))) s
  let t := (List.range 8).map fun m => if m = vec then some taint else none
  putFen p { fenOf s p with v := mapPut zeroElems f.v reg (overlay (tileReg f reg) vals),
                            vMire := mapPut 0#8 f.vMire reg (mireAfter (mapGet 0#8 f.vMire reg) vals t) } s

/-- An array whose scrubber drops a pending write-back of a depth that is written (R139). -/
def scrubTileDrop (f : Fen) (a d : Nat) : Fen :=
  let x := arrOf f a
  if x.scrub = d ∧ x.scrubRead.isSome then putArr f a { x with scrubRead := some [] } else f

/-- CK that an update of a tile stays open to a fault that its own result or a TMUL issued before it still reports. -/
def undoCk : Nat := 8

/-- The updates that a fault may still take back, with one more. -/
def undoAdd (x : TileUndo) (l : List TileUndo) : List TileUndo := (l.filter fun y => decide (x.due < y.due + undoCk)) ++ [x]

/-- Write updated state entries, but for those of stopped quadrants (R118, R129, R612). -/
def entriesWrite (p tile : Nat) (vals : List (Nat × Entry)) (mire : Bool) (seq due : Nat) (s : State) : State :=
  let a := tile / 128
  let f := fenOf s p
  let vals := vals.filter fun v => !cellStopped f a seq v.1
  if vals = [] then s
  else
    let t := mapGet {} f.tiles tile
    putFen p { scrubTileDrop f a (tile % 128) with
      undo := undoAdd ⟨seq, due, tile, t⟩ f.undo
      tiles := mapPut {} f.tiles tile { tileWrite t vals with mire := t.mire || mire } } s

/-- What a fault of operation `seq` takes back: the entries of the stopped quadrants go back to what they held before the
first update of that operation or a later one (R129). -/
def undoTiles (seq quads : Nat) (f : Fen) : Fen :=
  let l := f.undo.filter fun x => decide (seq ≤ x.seq)
  { f with
    undo := f.undo.filter fun x => !decide (seq ≤ x.seq)
    tiles := l.reverse.foldl (fun m x =>
      let t := mapGet {} m x.tile
      let cells := (List.range 1024).filter fun e => (quads / 2 ^ (4 * (x.tile / 128))).testBit (quadOf (e / 32) (e % 32))
      mapPut {} m x.tile { t with
        ent := cells.foldl (fun m e => mapPut 0#56 m e (entryOf x.old e)) t.ent
        err := if t.err = [] ∧ x.old.err = [] then [] else cells.foldl (fun m e =>
          mapPut .ok (mapPut .ok m (2 * e) (mapGet .ok x.old.err (2 * e))) (2 * e + 1) (mapGet .ok x.old.err (2 * e + 1))) t.err })
      f.tiles }

/-- The pattern of a mired tile (R150): canonical NaN with C16 = 0x8000, in every entry. -/
def mirePattern : Entry := mkEntry w40NaN 0x8000#16

/-- All entries of a tile as pairs. -/
def allEntries (g : Nat → Entry) : List (Nat × Entry) := (List.range 1024).map fun e => (e, g e)

/-- A CPULL's write of a delivery, or of the mired pattern where there was none (R201, R202, R205): ADD reads the entries
through ECC (R137), a FROZEN tile is not written, an INVALID one stays so and is mired, and entries of stopped quadrants stay
(R129). -/
def pullWrite (p tile : Nat) (carry : Option Carry) (add comp : Bool) (seq : Nat) (s : State) : State :=
  let frozen := (mapGet {} (fenOf s p).tiles tile).frozen
  let s := if add && !frozen && carry.any (fun c => !c.mired) then tileTouch p (tile / 128) (tile % 128) comp (fun _ => true) s else s
  let t := mapGet {} (fenOf s p).tiles tile
  if frozen then fenBump p 0x50C 1 s
  else
    let ok := match carry with
      | some c => if c.mired then none else some c
      | none => none
    let s := fenBump p 0x508 (if t.invalid then 1 else 0) s
    let s := fenBump p 0x60C (if carry.isSome && ok.isNone then 1 else 0) s
    let new : List (Nat × Entry) × Nat := match ok with
      | none => (allEntries fun _ => mirePattern, 0)
      | some c =>
        if add then
          let l := ((List.range 1024).filter fun e => !cellStopped (fenOf s p) (tile / 128) seq e).map fun e =>
            let x := entryOf t e
            let v := w40v (c.st.getD e 0)
            if comp then (e, roundComp (numAdd (entryValue x) v))
            else let r := roundW40 (numAdd (w40v (entryW x)) v); (e, (mkEntry r.1 0, r.2))
          (l.map fun r => (r.1, r.2.1), (l.filter fun r => r.2.2).length)
        else (allEntries fun e => mkEntry (c.st.getD e 0) 0, 0)
    let vals := new.1.filter fun v => !cellStopped (fenOf s p) (tile / 128) seq v.1
    if vals = [] then s
    else countEv p { accSat := new.2 } (modFen p (fun f => scrubTileDrop
      { f with tiles := mapPut {} f.tiles tile { tileWrite t vals with mire := t.mire || ok.isNone || t.invalid } }
      (tile / 128) (tile % 128)) s)

/-! ## Row accumulators of the special-function unit -/

/-- The larger of two exponents, `none` below all. -/
def expMax (a b : Option Int) : Option Int :=
  match a, b with
  | some x, some y => some (max x y)
  | some x, none => some x
  | none, b => b

/-- Squares of pre-scaled elements added to q one by one (R248), and saturations. -/
def addSquares (k : Int) (q : W40) (l : List Num) : W40 × Nat :=
  l.foldl (fun r x =>
    let z := numScale (-k) x
    let y := roundW40 (numAdd (w40v r.1) (numMul z z))
    (y.1, if y.2 then r.2 + 1 else r.2)) (q, 0)

/-- A row in progress after a phase, and the saturations it counts (R248, R356). -/
def normUpdate (u : NormUpd) (live mire : Bool) (n : NormRow) : NormRow × Nat :=
  match u with
  | .kmax clr k =>
    let n := if clr then { n with k := none, q := 0, live := false, mire := false } else n
    ({ n with k := expMax n.k k, live := n.live || live, mire := n.mire || mire }, 0)
  | .sq k l =>
    let r := addSquares k n.q l
    ({ n with q := r.1, live := n.live || live, mire := n.mire || mire }, r.2)
  | .fin pair r =>
    let n := { n with r := r.getD n.r }
    match pair with
    | some x => ({ n with k := x.1, q := x.2, live := live, mire := mire }, 0)
    | none => ({ n with mire := n.mire || mire }, 0)

/-- A query row of RANGE after the exponentials of 32 scores, each with whether the score breaks the bound, and the
saturations (R254, R255). -/
def rangeAdd (r : RangeRow) (l : List (Num × Bool)) : RangeRow × Nat :=
  l.foldl (fun a e =>
    let y := roundW40 (numAdd (w40v a.1.l) e.1)
    ({ a.1 with l := y.1, past := a.1.past || e.2 || y.2 }, if y.2 then a.2 + 1 else a.2)) (r, 0)

/-- Count rows out of bounds (R255). -/
def countRange (p n : Nat) (s : State) : State := if n = 0 then s else orReg (fenWin p 0x704) 2#32 (fenBump p 0x70C n s)

/-- RANGE pass 0 adds to its query rows. -/
def rangeWrite (p first : Nat) (clr : Bool) (rows : List (List (Num × Bool) × Bool)) (s : State) : State :=
  let f := fenOf s p
  let res := rows.zipIdx.map fun x =>
    let r : RangeRow := if clr then {} else mapGet {} f.ranges (first + x.2)
    let n := rangeAdd r x.1.1
    (first + x.2, { n.1 with mire := n.1.mire || x.1.2 }, n.2, n.1.past && !r.past)
  countRange p (res.filter fun r => r.2.2.2).length (countEv p { accSat := (res.map fun r => r.2.2.1).sum }
    (putFen p { f with ranges := res.foldl (fun m r => mapPut {} m r.1 r.2.1) f.ranges } s))

/-- One pending write takes place. -/
def applyWr (p : Nat) (w : PendWr) (s : State) : State :=
  match w.wr with
  | .prow row outs acc base => prowWrite p row outs acc base w s
  | .pvec reg vec outs => pvecWrite p reg vec outs w.seq s
  | .entries tile vals mire => entriesWrite p tile vals mire w.seq w.due s
  | .vreg reg vals taint =>
    let f := fenOf s p
    let b := mireAfter (mapGet 0#8 f.vMire reg) vals taint
    fenBump p 0x804 (miredCount b taint) (putFen p { f with v := mapPut zeroElems f.v reg (overlay (tileReg f reg) vals),
                                                            vMire := mapPut 0#8 f.vMire reg b } s)
  | .vec reg m vals mire =>
    let f := fenOf s p
    let all := List.replicate (32 * m) none ++ vals ++ List.replicate (224 - 32 * m) none
    let t := (List.range 8).map fun k => if k = m then some mire else none
    putFen p { f with v := mapPut zeroElems f.v reg (overlay (tileReg f reg) all),
                      vMire := mapPut 0#8 f.vMire reg (mireAfter (mapGet 0#8 f.vMire reg) all t) } s
  | .pull tile carry add comp => pullWrite p tile carry add comp w.seq s
  | .preg reg bits mask =>
    modFen p (fun f => { f with pr := mapPut 0#256 f.pr reg ((predOf f reg &&& ~~~mask) ||| (bits &&& mask)) }) s
  | .rowPart b row fmt first codes mire _ => writeElems p b row fmt first codes mire s
  | .norm row u live mire =>
    let f := fenOf s p
    let n := normUpdate u live mire (mapGet {} f.norms row)
    countEv p { accSat := n.2 } (putFen p { f with norms := mapPut {} f.norms row n.1 } s)
  | .range first clr rows => rangeWrite p first clr rows s
  | .tag b slot full => setTag p b slot full (w.due - 1) s
  | .credit link => modFen p (fun f => { f with creditsOut := f.creditsOut ++ [link] }) s
  | .mask i rows cols => modFen p (fun f => { f with masks := mapPut (0#32, 0#32) f.masks i (rows, cols) }) s
  | .ptr i v => modFen p (fun f => { f with pts := mapPut {} f.pts i v }) s
  | .lc i v => modFen p (fun f => { f with lcs := mapPut 0#16 f.lcs i v }) s
  | .ctx v => modFen p (fun f => { f with ctx := v }) s
  | .done => s

/-- The register of the vector engine that a write goes to: tile registers 0 to 31, predicates from 32; none for an
operation with no active lane, which writes nothing (R263). -/
def wrReg : FenWr → Option Nat
  | .vreg r vals _ => if vals.all (·.isNone) then none else some r
  | .vec r _ vals _ => if vals.all (·.isNone) then none else some r
  | .pvec r _ _ => some r
  | .preg r _ mask => if mask = 0 then none else some (32 + r)
  | _ => none

/-- Results of different operations written to one register in one CK, beyond the first (R277): the parts of one result
count once, at its last. -/
def sameCkWrites : List PendWr → Nat
  | [] => 0
  | w :: l =>
    let same := l.filter fun x => decide (x.due = w.due) && decide (wrReg x.wr = wrReg w.wr)
    (if (wrReg w.wr).isSome && !same.isEmpty && same.all (fun x => decide (x.seq ≠ w.seq)) then 1 else 0) + sameCkWrites l

/-- A pending write put in its place, by the CK it is due and then by order of issue. -/
def pendInsert (w : PendWr) : List PendWr → List PendWr
  | [] => [w]
  | x :: l => if w.due < x.due ∨ (w.due = x.due ∧ w.seq < x.seq) then w :: x :: l else x :: pendInsert w l

/-- Add a pending write. -/
def addPend (p : Nat) (w : PendWr) (s : State) : State := modFen p (fun f => { f with pend := pendInsert w f.pend }) s

/-- Add the writes of an operation, all due at one CK. -/
def addPends (p : Nat) (due seq : Nat) (cls : WrCls) (l : List FenWr) (s : State) : State :=
  l.foldl (fun s w => addPend p ⟨due, seq, cls, w⟩ s) s

/-- Begin the queued SENDs whose time has come (R364): each at the later of its issue and the end of the one before. -/
def sendsBegun (ck : Nat) : Nat → List SendRec → List SendRec × List SendRec × Nat
  | fin, [] => ([], [], fin)
  | fin, x :: l =>
    let b := max x.issued fin
    if ck < b then ([], x :: l, fin)
    else let r := sendsBegun ck (b + x.n) l; ({ x with start := some b } :: r.1, r.2.1, r.2.2)

/-- Bring the injection port of a fen up to date. -/
def settleSends (p : Nat) (s : State) : State :=
  let f := fenOf s p
  if f.sends = [] then s
  else
    let r := sendsBegun s.ck f.sendEnd f.sends
    putFen p { f with sends := r.2.1, net := f.net ++ r.1, sendEnd := r.2.2 } s

/-- The first of a fen's pending writes take place, while `go` says so; `n` bounds their number. -/
def runPends (p : Nat) (go : PendWr → Bool) : Nat → State → State
  | 0, s => s
  | n + 1, s =>
    match (fenOf s p).pend with
    | [] => s
    | w :: l => if go w then runPends p go n (applyWr p w (modFen p (fun f => { f with pend := l }) s)) else s

/-- Let every pending write of a fen that is due by the present CK take place, in order, and the load bus and the
injection port run; `mid` happens between the writes up to the first that `stop` names and the rest. -/
def settleWith (p : Nat) (stop : PendWr → Bool) (mid : State → State) (s : State) : State :=
  let s := settleSends p (settleLoads p s)
  let due (w : PendWr) : Bool := decide (w.due ≤ s.ck)
  let l := (fenOf s p).pend
  if (l.takeWhile due).isEmpty then s
  else fenBump p 0x800 (sameCkWrites (l.takeWhile due))
    (runPends p due l.length (mid (runPends p (fun w => due w && !stop w) l.length s)))

/-- Let everything of a fen that is due by the present CK take place. -/
def settle (p : Nat) (s : State) : State := settleWith p (fun _ => true) id s

/-! ## Writes from outside the fen -/

/-- Whether a fen's buffers are off (R560, R565): in RETAIN or OFF, or past the drain on the way there. -/
def bufsOff (f : Fen) : Bool :=
  decide (f.pwr.st = .retain ∨ f.pwr.st = .off)
    || (decide (f.pwr.phase = .ramping) && (match f.pwr.job with
      | some j => decide (j.target = .retain ∨ j.target = .off)
      | none => false))

/-- A write dropped at a fen whose buffers are off (R566). -/
def dropRow (p : Nat) (b : BufId) (row : Nat) (s : State) : State :=
  let s := fenBump p 0xD08 1 s
  let f := fenOf s p
  if 64 ≤ f.pwr.records.length then
    if f.pwr.lost then s else logAdd lkFenRecordLost p [p] (putFen p { f with pwr := { f.pwr with lost := true } } s)
  else putFen p { f with pwr := { f.pwr with records := f.pwr.records ++ [(b, row)] } } s

/-- A row that arrives at a fen's buffer from the network, a causeway or a lode. -/
def arriveRow (p : Nat) (b : BufId) (row : Nat) (data : Row) (mire : Bool) (s : State) : State :=
  if bufsOff (fenOf s p) then dropRow p b row s else writeRow p b row data mire (noteUse p b [row] s)

/-- The slots that a run of rows touches. -/
def slotsOf (rows : List Nat) : List Nat := (rows.map (· / 32)).eraseDups

/-- Rows of a SEND or a causeway message arrive (R363, R384, R387, R390): they are written from `row` on, each slot they
touch becomes FULL, and the counter counts once, all in the present CK. At a fen whose buffers are off nothing counts. -/
def arriveRows (p : Nat) (b : BufId) (row g : Nat) (rows : List (Row × Bool)) (s : State) : State :=
  let at_ := rows.zipIdx.map fun r => (bufWrap b (row + r.2), r.1)
  let off := bufsOff (fenOf s p)
  let s := at_.foldl (fun s r => arriveRow p b r.1 r.2.1 r.2.2 s) s
  if off then s
  else countArrival p g s.ck ((slotsOf (at_.map (·.1))).foldl (fun s k => setTag p b k true s.ck s) s)

end Sys2Proof.Machine
end

