-- ==== Sys2Proof/Machine/Operands.lean ====
section
/-!
DEFINITION. Operand forms: format, activation and conversion codes, pointers, and the descriptors that bundles name
(epilogues, waits, routes), read from their bits.
-/

namespace Sys2Proof.Machine

/-- A format code (Table 2-1); 13 to 15 are reserved. -/
def fmtOfCode : Nat → Option Fmt
  | 0 => some .f4
  | 1 => some .f6
  | 2 => some .f8e4
  | 3 => some .f8e5
  | 4 => some .f16b
  | 5 => some .f16h
  | 6 => some .f32
  | 7 => some .w40
  | 8 => some .l32
  | 9 => some .i8
  | 10 => some .i16
  | 11 => some .i32
  | 12 => some .e8
  | _ => none

/-- An activation code (Table 6-6). -/
def actOfCode : Nat → Option Act
  | 0 => some .identity
  | 1 => some .relu
  | 2 => some .silu
  | 3 => some .geluTanh
  | 4 => some .softplus
  | 5 => some .sigmoid
  | 6 => some .exp
  | 7 => some .decayMap
  | _ => none

/-- A conversion descriptor from its eight bits (Table 2-9). -/
def cvtOfBits (b : Nat) : Option Cvt :=
  (fmtOfCode (b % 16)).bind fun t =>
    if b / 128 % 2 = 1 then none
    else some { target := t, stoch := decide (b / 16 % 2 = 1), ovf := decide (b / 32 % 2 = 1), scale := decide (b / 64 % 2 = 1) }

/-- An epilogue descriptor's fields (Table 9-11). -/
structure Epi where
  act : Act
  conv : Cvt
  bias : Bool
  cscale : Bool
  src : Nat
  dst : Nat
  tscale : Word
  deriving DecidableEq, Repr

/-- The epilogue descriptor of 64 bits; `none` where a field is reserved or names DECAY_MAP (R245). -/
def epiOfBits (d : BitVec 64) : Option Epi :=
  match actOfCode (d.toNat % 16), cvtOfBits (d.toNat / 2 ^ 4 % 256) with
  | some a, some c =>
    if a = .decayMap ∨ !cvtLegal c ∨ d.toNat / 2 ^ 22 % 1024 ≠ 0 then none
    else some { act := a, conv := c, bias := d.getLsbD 12, cscale := d.getLsbD 13, src := d.toNat / 2 ^ 14 % 16,
                dst := d.toNat / 2 ^ 18 % 16, tscale := (d >>> 32).setWidth 32 }
  | _, _ => none

/-- Row number of a pointer. -/
def ptrRow (x : Ptr) : Nat := 32 * x.slot + x.row

/-- A pointer at a row number. -/
def ptrAt (b : BufId) (row : Nat) : Ptr := ⟨b, bufWrap b row / 32, bufWrap b row % 32⟩

/-- The row after one that holds scaled blocks: from row 29 to row 0 of the next slot (R383). -/
def scaledNext (b : BufId) (row : Nat) : Nat := bufWrap b (if 29 ≤ row % 32 then 32 * (row / 32 + 1) else row + 1)

/-- The next row a pointer names. -/
def rowAfter (scaled : Bool) (b : BufId) (row : Nat) : Nat := if scaled then scaledNext b row else bufWrap b (row + 1)

/-- `n` rows from `row` on, and the row after them. -/
def rowsFrom (scaled : Bool) (b : BufId) : Nat → Nat → List Nat × Nat
  | 0, row => ([], row)
  | n + 1, row => let r := rowsFrom scaled b n (rowAfter scaled b row); (row :: r.1, r.2)

/-- Fields of a wait descriptor (Table 9-4). -/
def waitField (d : BitVec 128) (hi lo : Nat) : Nat := d.toNat / 2 ^ lo % 2 ^ (hi + 1 - lo)

/-- Whether a wait descriptor is a sluice. -/
def waitSluice (d : BitVec 128) : Bool := d.getLsbD 15

/-- What a WAIT tests. -/
inductive WaitOn
  | tag (b : BufId) (slot : Nat) (empty : Bool)
  | counter (g n : Nat) (consume : Bool) (gen : Option (BitVec 16))
  | select (slot : Nat)
  | carry (a n : Nat)
  | credit (link n : Nat)
  deriving DecidableEq, Repr

/-- The condition of a descriptor; `none` for a reserved value. -/
def waitOn (d : BitVec 128) : Option WaitOn :=
  let ix := waitField d 14 6
  let n := waitField d 47 32
  match waitField d 2 0 with
  | 0 => (bufOfCode (waitField d 5 4)).map fun b => .tag b ix (d.getLsbD 3)
  | 1 => some (.counter ix n (d.getLsbD 16) (if d.getLsbD 17 then some (BitVec.ofNat 16 (waitField d 63 48)) else none))
  | 2 => some (.select ix)
  | 3 => some (.carry ix n)
  | 4 => some (.credit ix n)
  | _ => none

/-- A route's fields (Table 9-14). -/
structure Route where
  kind : Nat
  fen : Nat
  link : Nat
  buf : BufId
  row : Nat
  group : Nat
  block : Nat
  cw : Nat
  auto : Bool
  deriving DecidableEq, Repr

/-- Bits [hi:lo] of a 64-bit descriptor. -/
def field64 (d : BitVec 64) (hi lo : Nat) : Nat := d.toNat / 2 ^ lo % 2 ^ (hi + 1 - lo)

/-- The route of 64 bits; `none` where a field holds a reserved value. -/
def routeOf (d : BitVec 64) : Option Route :=
  (bufOfCode (field64 d 11 10)).bind fun b =>
    if field64 d 1 0 = 3 ∨ (field64 d 1 0 = 2 ∧ field64 d 42 41 = 3) ∨ field64 d 63 44 ≠ 0 then none
    else some { kind := field64 d 1 0, fen := field64 d 7 2, link := field64 d 9 8, buf := b,
                row := 32 * field64 d 20 12 + field64 d 25 21, group := field64 d 34 26, block := field64 d 40 35,
                cw := field64 d 42 41, auto := d.getLsbD 43 }

/-- Groups of a row that VLD and VST name (R361): one at 32 bits, two for W40, Table 2-7's elements by 32 otherwise. -/
def rowGroups : Fmt → Nat
  | .w40 => 2
  | f => fmtPerRow f / 32

/-- Whether VLD or VST may name a format and group (R361). -/
def vecFmtOk (fmt : Fmt) (g : Nat) : Bool := !decide (fmt = .e8) && decide (g < rowGroups fmt)

end Sys2Proof.Machine
end

