-- ==== Sys2Proof/Machine/Issue.lean ====
section
/-!
DEFINITION. How a slot's operation issues (R334 to R336): the CK it takes, what it reads, and the events by which issued
operations write their results.
-/

namespace Sys2Proof.Machine

/-- The slots of a bundle in the order R335 counts them. -/
def slotArray : Nat := 0
def slotVector : Nat := 1
def slotMove : Nat := 2
def slotControl : Nat := 3

/-- Whether a slot has issued an operation in the present CK. -/
def slotBusy (s : State) (p slot : Nat) : Bool :=
  let q := (fenOf s p).seq
  decide (q.slotCk = s.ck) && q.slotUsed.getLsbD slot

/-- Whether the fen can issue an operation of a slot: its segment runs and is not stalled at a WAIT; once its END has
issued, only the other slots of the END's bundle can (R331, R332, R336). -/
def canIssue (s : State) (p slot : Nat) : Bool :=
  let f := fenOf s p
  ckRuns s && fenIsOn f && decide (f.resetUntil = none) && decide (f.seq.st = .running)
    && (!f.seq.endIssued || (decide (f.seq.slotCk = s.ck) && !slotBusy s p slot))

/-- The CK in which the next operation of a slot issues: one bundle in each CK (R335). -/
def issueCk (s : State) (p slot : Nat) : Nat :=
  max (fenOf s p).seq.segStart (if slotBusy s p slot then s.ck + 1 else s.ck)

/-- Mark a slot used in the present CK. -/
def markSlot (p slot : Nat) (s : State) : State :=
  modFen p (fun f =>
    let used := if f.seq.slotCk = s.ck then f.seq.slotUsed else 0#4
    { f with seq := { f.seq with slotCk := s.ck, slotUsed := used ||| (1#4 <<< slot) } }) s

/-- The fen ready for the operation to read what it reads at issue: time at the issue CK, earlier results written. -/
def atIssue (p slot : Nat) (s : State) : State := markSlot p slot (settle p (advanceCk (issueCk s p slot) s))

/-- The order of issue of an operation of a slot in the present CK (R277, R335). -/
def issueSeq (s : State) (slot : Nat) : Nat := 4 * s.ck + slot

/-- The address of the bundle that issues in the present CK. -/
def bundlePc (s : State) (p : Nat) : Nat :=
  let q := (fenOf s p).seq
  match q.passedPc with
  | some (c, a) => if c = s.ck then a else q.pc
  | none => q.pc

/-- Bundles fetched ahead with an uncorrectable error that are now never issued, all but one that was about to, are counted and
logged (R374). -/
def dropFetched (p : Nat) (but : Option Nat) (s : State) : State :=
  let l := (fenOf s p).seq.fetched.filter fun a => decide (some a ≠ but)
  let s := modFen p (fun f => { f with seq := { f.seq with fetched := [] } }) s
  l.foldl (fun s a => logAdd lkImemUe p [a] (fenBump p 0xA14 1 s)) s

/-- The fen halts on an uncorrectable word of its image (R373). -/
def haltFen (p : Nat) (s : State) : State :=
  dropFetched p (some (bundlePc s p)) <| logAdd lkFenHalt p [bundlePc s p] (fenBump p 0xA14 1
    (modFen p (fun f => { f with seq := { f.seq with st := .halted } }) s))

/-- Use a word of the fen's image whose ECC finds `e` (R330, R373): a corrected one is counted, an uncorrectable one halts
the fen in place of its use. -/
def useImage (p : Nat) (e : Ecc) (body : State → State) (s : State) : State :=
  match e with
  | .ok => body s
  | .ce => body (fenBump p 0xA10 1 s)
  | .ue => haltFen p s

/-- Whether a bundle, or a descriptor that it uses, holds an uncorrectable error: its WAIT's, its SEND's route's or its EPI's (Tables
9-2, 9-3, 9-9 and 9-13). -/
def bundleBad (x : Image) (a : Nat) : Bool :=
  let b := (mapGet 0#128 x.imem a).toNat
  decide (mapGet .ok x.imemErr a = .ue)
    || (decide (b / 2 ^ 12 % 16 = 1) && decide (mapGet .ok x.waitErr (b % 2 ^ 10) = .ue))
    || (decide (b / 2 ^ 36 % 16 = 5) && decide (mapGet .ok x.routeErr (b / 2 ^ 23 % 16) = .ue))
    || (decide (b / 2 ^ 74 % 64 = 0x38) && decide (mapGet .ok x.epiErr (b / 2 ^ 40 % 64) = .ue))

/-- Issue an operation of a slot, if the fen can and its bundle holds no uncorrectable error (R373). -/
def issueOp (p slot : Nat) (body : State → State) (s : State) : State :=
  if canIssue s p slot then
    let t := atIssue p slot s
    if bundleBad (fenOf t p).img (bundlePc t p) then haltFen p t else body t
  else s

/-- Add the energy of an event to the fen (R571, Table 15-5). -/
def spend (p pj : Nat) (s : State) : State := modFen p (fun f => { f with energyPj := f.energyPj + pj }) s

/-- Energy of `n` buffer rows read or written. -/
def spendRows (p n : Nat) (s : State) : State := spend p (14 * n) s

/-- The first CK at which a pending write of a class is seen. -/
def nextDue (f : Fen) (cls : WrCls) : Option Nat :=
  (f.pend.find? fun w => decide (w.cls = cls)).map (·.due)

/-- Results of a class are written: time moves to the first of them, what comes before it is written, `fault` records a failed
check that struck it, and it and the rest of what is due are written. With none pending, nothing happens. -/
def resultWrite (p : Nat) (cls : WrCls) (fault : PendWr → State → State) (s : State) : State :=
  match (fenOf s p).pend.find? fun w => decide (w.cls = cls) with
  | none => s
  | some w =>
    if ckRuns s then settleWith p (fun x => decide (x = w)) (fault w) (advanceCk w.due s) else s

end Sys2Proof.Machine
end

