-- ==== Sys2Proof/Machine/Array.lean ====
section
/-!
DEFINITION. The array slot (chapters 03 and 04): TLOAD, TMUL, the state operations and the events by which their
results are written.
-/

namespace Sys2Proof.Machine

/-- An array hazard: ARR_HAZARD and an ARRAY_HAZARD entry with kind, array and PC (R107, R108, R121). -/
def arrayHazard (p kind a : Nat) (s : State) : State :=
  logAdd lkArrayHazard p [kind, a, bundlePc s p] (fenBump p 0x318 1 s)

/-- The number of bits set among the first `n` of a word. -/
def countBits (v : Word) : Nat := ((List.range 32).filter fun i => v.getLsbD i).length

/-! ## TLOAD -/

/-- TLOAD at its issue (R104, R108): it joins the queue of the load bus, which holds four that have not started. -/
def tloadIssue (p : Nat) (op : TLoadOp) (s : State) : State :=
  let f := fenOf s p
  if 4 ≤ (f.loads.filter fun j => decide (j.start = none)).length then
    arrayHazard p 2 ((arraysOf op.amask).headD 0) s
  else
    let s := modFen p (fun f => { f with loads := f.loads ++ [⟨op, s.ck, none, 0⟩] }) s
    spendRows p (loadRows op) (settleLoads p s)

/-- ANOP. -/
def execAnop (p : Fin 72) (s : State) : Host.Outcome State Fault Refusal := .next (issueOp p slotArray id s)

/-- TLOAD. -/
def execTload (p : Fin 72) (op : TLoadOp) (s : State) : Host.Outcome State Fault Refusal :=
  .next (issueOp p slotArray (fun s => if op.wslot.val < bufSlots .w then tloadIssue p op s else s) s)

/-- TLOAD_READ_START (R105): time moves to the CK in which the load bus starts the TLOAD at the head of its queue. -/
def execTloadReadStart (p : Fin 72) (s : State) : Host.Outcome State Fault Refusal :=
  .next (match (fenOf s p).loads.find? fun j => decide (j.start = none) with
    | none => s
    | some j => if ckRuns s then settle p (advanceCk (max j.issued (fenOf s p).busFree) s) else s)

/-! ## TMUL -/

/-- The format of an activation. -/
def afmtFmt : AFmt → Fmt
  | .f4 => .f4
  | .f6 => .f6
  | .f8e4 => .f8e4
  | .f8e5 => .f8e5
  | .f16b => .f16b
  | .f16h => .f16h
  | .f32 => .f32

/-- The element format of a weight. -/
def wfmtFmt : WFmt → Fmt
  | .f4x2 => .f4
  | .f4 => .f4
  | .f6 => .f6
  | .f8e4 => .f8e4
  | .f8e5 => .f8e5
  | .f16b => .f16b
  | .f16h => .f16h
  | .f32 => .f32
  | .cf8e4 => .f8e4
  | .cf8e5 => .f8e5

/-- Whether a plane is complex (R103). -/
def wfmtComplex (w : WFmt) : Bool := decide (w = .cf8e4 ∨ w = .cf8e5)

/-- Significand pieces of a multi-pass format: least significant bit and length (R101, Table 3-3). -/
def piecesOf : AFmt → List ((Nat × Nat) × (Nat × Nat))
  | .f16b => [((2, 6), (2, 6)), ((2, 6), (0, 2)), ((0, 2), (2, 6))]
  | .f16h => [((5, 6), (5, 6)), ((5, 6), (2, 3)), ((2, 3), (5, 6)), ((5, 6), (0, 2)), ((0, 2), (5, 6)), ((2, 3), (2, 3))]
  | .f32 => [((18, 6), (18, 6)), ((18, 6), (12, 6)), ((12, 6), (18, 6)), ((18, 6), (6, 6)), ((12, 6), (12, 6)),
             ((6, 6), (18, 6)), ((18, 6), (0, 6)), ((12, 6), (6, 6)), ((6, 6), (12, 6)), ((0, 6), (18, 6))]
  | .f4 => []
  | .f6 => []
  | .f8e4 => []
  | .f8e5 => []

/-- How a pass forms the product of a weight and an activation (Table 3-2). -/
inductive PassKind
  /-- One exact product. -/
  | single
  /-- F4 at double rate. -/
  | double
  /-- A product of significand pieces. -/
  | pieces (w a : Nat × Nat)
  /-- A complex pass: weight part, activation part, sign. -/
  | cplx (wIm aIm neg : Bool)
  deriving DecidableEq, Repr

/-- Whether a format is one of the eight-bit or narrower single-pass formats. -/
def afmtNarrow (a : AFmt) : Bool := decide (a = .f4 ∨ a = .f6 ∨ a = .f8e4 ∨ a = .f8e5)

/-- The pass that Table 3-2 gives a plane format, an activation format, PASS and QM; none where the table or Tables 3-3
and 3-5 have no such pass. -/
def passKind (w : WFmt) (a : AFmt) (pass : Nat) (qm : Bool) : Option PassKind :=
  match w with
  | .f4x2 => if a = .f4 ∧ pass = 0 ∧ qm = false then some .double else none
  | .f4 => if afmtNarrow a ∧ pass = 0 then some .single else none
  | .f6 => if afmtNarrow a ∧ pass = 0 then some .single else none
  | .f8e4 => if afmtNarrow a ∧ pass = 0 then some .single else none
  | .f8e5 => if afmtNarrow a ∧ pass = 0 then some .single else none
  | .f16b => if a = .f16b then ((piecesOf a)[pass]?).map fun x => .pieces x.1 x.2 else none
  | .f16h => if a = .f16h then ((piecesOf a)[pass]?).map fun x => .pieces x.1 x.2 else none
  | .f32 => if a = .f32 ∧ qm = false then ((piecesOf a)[pass]?).map fun x => .pieces x.1 x.2 else none
  | .cf8e4 => if a = .f8e4 ∧ qm = false then
      ([PassKind.cplx false false false, .cplx true true true, .cplx false true false, .cplx true false false])[pass]?
      else none
  | .cf8e5 => if a = .f8e5 ∧ qm = false then
      ([PassKind.cplx false false false, .cplx true true true, .cplx false true false, .cplx true false false])[pass]?
      else none

/-- The piece of a significand, in its place. -/
def pieceOf (x : Nat × Nat) (m : Nat) : Nat := m / 2 ^ x.1 % 2 ^ x.2 * 2 ^ x.1

/-- A product of pieces; an infinite or NaN operand is the same in every pass (log entry 22). -/
def mulPieces (x y : Nat × Nat) (w a : Num) : Num :=
  match w, a with
  | .fin n m e, .fin k l g => .fin (xor n k) (pieceOf x m * pieceOf y l) (e + g)
  | w, a => numMul w a

/-- The part of a complex element. -/
def cplxPart (im : Bool) (code : Nat) : Nat := if im then code / 256 % 256 else code % 256

/-- One product of a cell: `wc` and `ac` are the weight's and the activation's codes. -/
def passProduct (k : PassKind) (wf af : Fmt) (wc ac : Nat) : Num :=
  match k with
  | .single => numMul (decodeFmt wf wc) (decodeFmt af ac)
  | .double => numMul (decodeFmt wf wc) (decodeFmt af ac)
  | .pieces x y => mulPieces x y (decodeFmt wf wc) (decodeFmt af ac)
  | .cplx wi ai neg =>
    let v := numMul (decodeFmt wf (cplxPart wi wc)) (decodeFmt af (cplxPart ai ac))
    if neg then numNeg v else v

/-- What the free values of an undefined plane are applied to: its identity and place. -/
def planeKey (p a side id : Nat) : Nat := ((id * 72 + p) * 4 + a) * 2 + side

/-- The entry of cell `n` = 32i + j of a plane, free where no TLOAD has written it (R106). -/
def planeCell (key : Nat) (x : Plane) (n : Nat) : Nat := ((mapGet none x.cells n).getD (Config.freeCell key n)).toNat

/-- Scale byte `i` of a scaled plane; an unscaled plane counts as e = 127 (R62). -/
def planeScale (key : Nat) (x : Plane) (i : Nat) : Nat :=
  if x.sc then ((mapGet none x.scales i).getD (Config.freeScale key i)).toNat else 127

/-- The UNIFORM flag of a plane (R98). -/
def planeUniform (key : Nat) (x : Plane) : Bool := x.uniform.getD (Config.freeUniform key)

/-- An operand vector of a TMUL: its codes, the E8 scales of its blocks, its mire. -/
structure ActVec where
  codes : List Nat
  scales : List Nat
  mire : Bool
  deriving DecidableEq, Repr

/-- Codes in one vector and codes in one row (R91, R103): a complex element is two bytes. -/
def vecShape (k : PassKind) (axis : Bool) (af : AFmt) : Nat × Nat :=
  match k with
  | .double => (if axis then 32 else 64, 256)
  | .cplx _ _ _ => (32, 64)
  | .single => (32, fmtPerRow (afmtFmt af))
  | .pieces _ _ => (32, fmtPerRow (afmtFmt af))

/-- Bits of one code of a vector. -/
def vecBits (k : PassKind) (af : AFmt) : Nat :=
  match k with
  | .cplx _ _ _ => 16
  | .double => 4
  | .single => fmtBits (afmtFmt af)
  | .pieces _ _ => fmtBits (afmtFmt af)

/-- Buffer rows that hold vector `v` and its scales (R91, R382). -/
def vecRows (k : PassKind) (op : TMulOp) (v : Nat) : Nat × List (Nat × Nat) :=
  let sh := vecShape k op.axis op.afmt
  let per := sh.2 / sh.1
  let r := v / per
  let n0 := (sh.2 / 32) * r + (v % per) * (sh.1 / 32)
  (32 * op.aslot.val + r,
   if op.asc then (List.range (sh.1 / 32)).map fun i => (32 * op.aslot.val + 30 + (n0 + i) / 128, (n0 + i) % 128) else [])

/-- The vector as the A-buffer delivers it. -/
def readVec (x : Buffer) (k : PassKind) (op : TMulOp) (v : Nat) : ActVec :=
  let sh := vecShape k op.axis op.afmt
  let rows := vecRows k op v
  let r := rowRead x rows.1
  let i0 := (v % (sh.2 / sh.1)) * sh.1
  { codes := (List.range sh.1).map fun i => rowField r.1 (vecBits k op.afmt * (i0 + i)) (vecBits k op.afmt)
    scales := rows.2.map fun b => rowField (rowRead x b.1).1 (8 * b.2) 8
    mire := r.2 || rows.2.any fun b => (rowRead x b.1).2 }

/-- A group of products with its scale pair (R62, R94): an invalid scale, 0xFF, makes it a NaN (R55, R56). -/
def groupOf (prods : List Num) (ew ea : Nat) : Num :=
  if prods ≠ [] ∧ (ew = 255 ∨ ea = 255) then .nan else groupSum prods ((ew : Int) + (ea : Int) - 254)

/-- The scale of block `i` of a vector. -/
def vecScale (u : ActVec) (i : Nat) : Nat := u.scales.getD i 127

/-- One output of a TMUL: reduction over the unmasked lanes `js` of a span, weights at `cell j`, operands at `elem j`. -/
def tmulGroup (k : PassKind) (wf af : Fmt) (key : Nat) (x : Plane) (js : List Nat) (cell : Nat → Nat) (part : Nat → Nat)
    (u : ActVec) (elem : Nat → Nat) (ew ea : Nat) : Num :=
  groupOf (js.map fun j =>
    let w := planeCell key x (cell j)
    passProduct k wf af (if k = .double then w / 2 ^ (4 * part j) % 16 else w) (u.codes.getD (elem j) 0)) ew ea

/-- Lanes of a mask within 16h to 16h + 15 or, with `full`, all 32. -/
def lanesOf (mask : Word) (full : Bool) (h : Nat) : List Nat :=
  (List.range 32).filter fun i => mask.getLsbD i && (full || decide (i / 16 = h))

/-- Group sums of output `o` of a full-mode TMUL in the order they accumulate (R88, R90, R94, R95), for a plane whose
pass is known. -/
def fullSums (k : PassKind) (wf : WFmt) (op : TMulOp) (key : Nat) (x : Plane) (rows cols : Word) (u : ActVec) (o : Nat) :
    List Num :=
  let f := wfmtFmt wf
  let a := afmtFmt op.afmt
  match op.axis, decide (k = .double) with
  | false, false =>
    [tmulGroup k f a key x (lanesOf cols true 0) (fun j => 32 * o + j) (fun _ => 0) u (fun j => j) (planeScale key x o)
      (vecScale u 0)]
  | false, true =>
    (List.range 2).map fun g =>
      tmulGroup k f a key x ((lanesOf cols false g).flatMap fun j => [2 * j, 2 * j + 1]) (fun n => 32 * o + n / 2)
        (fun n => n % 2) u (fun n => n) (planeScale key x (2 * o + g)) (vecScale u g)
  | true, false =>
    [tmulGroup k f a key x (lanesOf rows true 0) (fun i => 32 * i + o) (fun _ => 0) u (fun i => i) (planeScale key x 0)
      (vecScale u 0)]
  | true, true =>
    [tmulGroup k f a key x (lanesOf rows true 0) (fun i => 32 * i + o / 2) (fun _ => o % 2) u (fun i => i)
      (planeScale key x (o / 32)) (vecScale u 0)]

/-- Group sum of output `n` of quadrant `q` (R126, R127): `u` is the vector of the quadrant's half. -/
def quadSums (k : PassKind) (wf : WFmt) (op : TMulOp) (key : Nat) (x : Plane) (rows cols : Word) (u : ActVec) (q n : Nat) :
    List Num :=
  let f := wfmtFmt wf
  let a := afmtFmt op.afmt
  if op.axis then
    let j := 16 * (q % 2) + n
    [tmulGroup k f a key x (lanesOf rows false (q / 2)) (fun i => 32 * i + j) (fun _ => 0) u (fun i => i)
      (planeScale key x 0) (vecScale u 0)]
  else
    let i := 16 * (q / 2) + n
    [tmulGroup k f a key x (lanesOf cols false (q % 2)) (fun j => 32 * i + j) (fun _ => 0) u (fun j => j)
      (planeScale key x i) (vecScale u 0)]

/-- One output lane of a TMUL: where it goes (row from the first destination row of its array, container), the row or
column it is of, and its quadrants. -/
structure OutLane where
  row : Nat
  pos : Nat
  lane : Nat
  out : Nat
  quads : List Nat
  half : Nat
  deriving DecidableEq, Repr

/-- The output lanes of a TMUL (R93, R126). -/
def outLanes (op : TMulOp) (double : Bool) : List OutLane :=
  if op.qm then
    (List.range 64).map fun e =>
      let q := e / 16
      let half := if op.axis then q % 2 else q / 2
      ⟨q, e % 16, 16 * half + e % 16, e % 16, [q], half⟩
  else
    (List.range (if double && op.axis then 64 else 32)).map fun o =>
      let lane := if double && op.axis then o / 2 else o
      ⟨o / 16, o % 16, lane, o, if op.axis then [lane / 16, 2 + lane / 16] else [2 * (lane / 16), 2 * (lane / 16) + 1], 0⟩

/-- Whether a quadrant has an unmasked reduction lane. -/
def quadFed (axis : Bool) (rows cols : Word) (q : Nat) : Bool :=
  if axis then !(lanesOf rows false (q / 2)).isEmpty else !(lanesOf cols false (q % 2)).isEmpty

/-- The pass by which a TMUL reads its operand vectors: where the plane's format is undefined or the pairing is none of
Table 3-2, which only an early SWAP brings about (R107), those of a single pass (log entry 6). -/
def readPass (op : TMulOp) (x : Plane) : PassKind :=
  (x.fmt.bind fun w => passKind w op.afmt op.pass.val op.qm).getD .single

/-- The operand vectors of array `a` (R91). -/
def operandVecs (op : TMulOp) (a : Nat) : List Nat :=
  if op.qm then [op.v0.val + 2 * a, op.v0.val + 2 * a + 1] else [op.v0.val + a]

/-- Whether R98 mires the outputs of a TMUL on a plane; a plane of undefined format may be scaled and not uniform, which is a
free value (R106, log entry 6). -/
def tmulNonuni (op : TMulOp) (key : Nat) (x : Plane) : Bool :=
  op.axis && (x.sc || x.fmt.isNone) && !planeUniform key x

/-- The outputs of a TMUL on one array: (destination row, output). A plane without a defined format, or a pairing that
Table 3-2 does not hold, gives free values (R106), but for a group with no reduction lane, which gives +0 (R125). -/
def tmulOuts (op : TMulOp) (p a : Nat) (x : Plane) (rows cols : Word) (buf : Buffer) : List (Nat × ArrOut) :=
  let key := planeKey p a 0 x.id
  let kind := x.fmt.bind fun w => (passKind w op.afmt op.pass.val op.qm).map fun k => (w, k)
  let double := match kind with
    | some (_, k) => decide (k = .double)
    | none => false
  let nonuni := tmulNonuni op key x
  let per := if double && op.axis || op.qm then 4 else 2
  let outMask := if op.axis then cols else rows
  let vecs := (operandVecs op a).map (readVec buf (readPass op x) op)
  ((outLanes op double).filter fun o => outMask.getLsbD o.lane).map fun o =>
    let u := vecs.getD o.half ⟨[], [], false⟩
    let fed := o.quads.filter (quadFed op.axis rows cols)
    let sums := match kind with
      | none => [if fed.isEmpty then .fin false 0 0 else w40v (Config.freeProduct key (64 * o.row + o.out))]
      | some (w, k) =>
        if op.qm then quadSums k w op key x rows cols u (o.quads.headD 0) o.out
        else fullSums k w op key x rows cols u o.out
    (32 * op.pslot.val + 8 * op.d0.val + per * a + o.row,
     { pos := o.pos, sums := sums
       mire := nonuni || (u.mire && !fed.isEmpty) || fed.any fun q => x.mire.getLsbD q
       free := some (a, (o.quads.map fun q => 2 ^ q).sum) })

/-- A-buffer rows that a TMUL reads for one array. -/
def tmulReads (op : TMulOp) (a : Nat) (x : Plane) : List Nat :=
  let k := readPass op x
  (operandVecs op a).flatMap fun v => (vecRows k op v).1 :: (vecRows k op v).2.map (·.1)

/-- The exchange of planes (R106): the old front plane becomes the back plane, its contents undefined; its mire marks stay
until a TLOAD refills it (R97). -/
def swapPlanes (fresh : Nat) (x : ArrayState) : ArrayState :=
  { x with front := { x.back with loading := none }, back := { id := fresh, mire := x.front.mire } }

/-- Whether a TMUL with SWAP = 1 comes earlier than R105 allows: an unfinished TLOAD names the array, and either some of
its rows are in the back plane or the back plane holds no tile. A TLOAD of which no row is read is not the TMUL's where the
back plane holds the tile of an earlier one (log entry 113). -/
def swapEarly (f : Fen) (a : Nat) : Bool :=
  match f.loads.find? fun j => j.op.amask.getLsbD a with
  | none => false
  | some j => decide (0 < j.shown) || decide ((arrOf f a).back.fmt = none)

/-- Arrays of a mask that execute an operation issued now: those not occupied by a COMP = 1 operation of the CK before
and, for a state operation, not holding their state port (R121, R203). -/
def freeArrays (s : State) (p : Nat) (mask : BitVec 4) (state : Bool) : List Nat :=
  (arraysOf mask).filter fun a =>
    let x := arrOf (fenOf s p) a
    !(match x.compCk with | some c => decide (s.ck = c + 1) | none => false) && !(state && decide (s.ck < x.portTo))

/-- Count a BUSY event for each array of a mask that does not execute. -/
def countBusy (p : Nat) (mask : BitVec 4) (free : List Nat) (s : State) : State :=
  ((arraysOf mask).filter fun a => !free.contains a).foldl (fun s a => arrayHazard p 4 a s) s

/-- Exchange the planes of some arrays, each new back plane with an identity of its own. -/
def swapAll (p : Nat) (arrays : List Nat) (s : State) : State :=
  arrays.foldl (fun s a =>
    let s := { s with free := s.free + 1 }
    modFen p (fun f => putArr f a (swapPlanes s.free (arrOf f a))) s) s

/-- The rows of a list without repeats. -/
def distinct (l : List Nat) : List Nat := l.eraseDups

/-- TMUL at its issue (R88 to R98, R105 to R107, R116, R123, R125 to R128). -/
def tmulIssue (p : Nat) (op : TMulOp) (s : State) : State :=
  let go := freeArrays s p op.amask false
  let s := countBusy p op.amask go s
  let s := if op.swap then
      let early := go.filter (swapEarly (fenOf s p))
      let s := if early = [] then s else arrayHazard p 1 (early.headD 0) s
      swapAll p go s
    else s
  let f := fenOf s p
  let m := maskOf f op.mp.val
  let outs := go.flatMap fun a => tmulOuts op p a (arrOf f a).front m.1 m.2 f.bufA
  let rows := distinct (outs.map (·.1))
  let reads := distinct (go.flatMap fun a => tmulReads op a (arrOf f a).front)
  let nonuni := go.filter fun a => let x := (arrOf f a).front
    tmulNonuni op (planeKey p a 0 x.id) x
  let bad := (rows.filter fun r => nonuni.any fun a =>
    (outs.any fun o => decide (o.1 = r) && decide (o.2.free.map (·.1) = some a))).length
  let s := fenBump p 0x31C bad s
  let s := touchRows p .a reads (noteUse p .a reads s)
  let s := if op.acc then touchRows p .p rows (noteUse p .p rows s) else s
  let x := (fenOf s p).bufP
  let wrs := rows.map fun r =>
    FenWr.prow r ((outs.filter fun o => decide (o.1 = r)).map (·.2)) op.acc
      (if op.acc then some (rowRead x r) else none)
  let s := spend p (260 * go.length) (spendRows p (reads.length + (if op.acc then 2 else 1) * rows.length) s)
  addPends p (s.ck + 8) (issueSeq s slotArray) .tmul (if wrs = [] then [.done] else wrs) s

/-- TMUL. -/
def execTmul (p : Fin 72) (op : TMulOp) (s : State) : Host.Outcome State Fault Refusal :=
  .next (issueOp p slotArray (tmulIssue p op) s)

/-! ## State operations -/

/-- What a state operation does to each entry. -/
inductive StateOp
  | opa
  | decay (dax : Bool)
  | scale (dax : Bool)
  | read (axis : Bool) (dst : ODst)
  | step (dax axis : Bool) (dst : ODst)
  deriving DecidableEq, Repr

/-- Whether it updates the state. -/
def StateOpUpdates : StateOp → Bool
  | .opa => true
  | .decay _ => true
  | .scale _ => true
  | .read _ _ => false
  | .step _ _ _ => true

/-- The operands of a state operation on one array (R109): vectors of V_b to V_(b+3). -/
structure StateArgs where
  f : List Word
  k : List Word
  v : List Word
  q : List Word
  deriving DecidableEq, Repr

/-- Vector that array `a` takes (R109). -/
def stVec (h : StHead) (a : Nat) : Nat := (h.m0.val + a) % 8

/-- The operands that R109 gives array `a`. -/
def stateArgs (f : Fen) (h : StHead) (a : Nat) : StateArgs :=
  let m := stVec h a
  let b := h.vbase.val
  ⟨vecOf f b m, vecOf f (b + 1) m, vecOf f (b + 2) m, vecOf f (b + 3) m⟩

/-- The new value of an entry before its rounding (R111, R112): `s` is the entry's value. -/
def stateNext (op : StateOp) (x : StateArgs) (i j : Nat) (s : Num) : Num :=
  let kv := numMul (f32v (elemAt x.k i)) (f32v (elemAt x.v j))
  let decayed (dax : Bool) : Num :=
    let d := elemAt x.f (if dax then j else i)
    if d = l32Cut then .fin false 0 0 else numMul (decayFactor d) s
  match op with
  | .opa => numAdd s kv
  | .decay dax => decayed dax
  | .scale dax => numMul (f32v (elemAt x.f (if dax then j else i))) s
  | .read _ _ => s
  | .step dax _ _ => numAdd (decayed dax) kv

/-- An updated entry (R46, R48 to R50, R114) and whether it saturated. -/
def entryNext (op : StateOp) (comp : Bool) (x : StateArgs) (i j : Nat) (e : Entry) : Entry × Bool :=
  if comp then roundComp (stateNext op x i j (entryValue e))
  else
    let r := roundW40 (stateNext op x i j (w40v (entryW e)))
    (mkEntry r.1 0, r.2)

/-- Active cells of a mask pair (R124). -/
def activeCells (rows cols : Word) : List Nat :=
  (List.range 1024).filter fun e => rows.getLsbD (e / 32) && cols.getLsbD (e % 32)

/-- The update of a tile: new entries and how many saturated. -/
def tileNext (op : StateOp) (comp : Bool) (x : StateArgs) (cells : List Nat) (t : Tile) : List (Nat × Entry) × Nat :=
  cells.foldr (fun e r =>
    let n := entryNext op comp x (e / 32) (e % 32) (entryOf t e)
    ((e, n.1) :: r.1, if n.2 then r.2 + 1 else r.2)) ([], 0)

/-- Read output `o` (R88, R113): `val` gives the W40 value of an entry. -/
def readOut (axis : Bool) (rows cols : Word) (q : List Word) (val : Nat → W40) (o : Nat) : Num :=
  groupSum (if axis then (lanesOf rows true 0).map fun i => numMul (w40v (val (32 * i + o))) (f32v (elemAt q i))
    else (lanesOf cols true 0).map fun j => numMul (w40v (val (32 * o + j))) (f32v (elemAt q j))) 0

/-- Whether an operand of the update is mired (R612): the factor vector, and k and v for TOPA and TSTEP. -/
def updateMire (op : StateOp) (f : Fen) (h : StHead) (a : Nat) : Bool :=
  let m := stVec h a
  let b := h.vbase.val
  let kv := vecMire f (b + 1) m || vecMire f (b + 2) m
  match op with
  | .opa => kv
  | .decay _ => vecMire f b m
  | .scale _ => vecMire f b m
  | .read _ _ => false
  | .step _ _ _ => vecMire f b m || kv

/-- Where and along which axis an operation reads. -/
def stateRead : StateOp → Option (Bool × ODst)
  | .opa => none
  | .decay _ => none
  | .scale _ => none
  | .read axis dst => some (axis, dst)
  | .step _ axis dst => some (axis, dst)

/-- The outputs of a read on array `a` as the writes they become (R115, R125): outputs 0 to 31 in P-buffer rows as R93
places them, or in a vector of a tile register. -/
def readWrites (dst : ODst) (a : Nat) (outs : List (Nat × ArrOut)) : List FenWr :=
  match dst with
  | .rows ps d0 =>
    let base := 32 * ps.val + 8 * d0.val + 2 * a
    ([0, 1].filterMap fun h =>
      let l := (outs.filter fun o => decide (o.1 / 16 = h)).map fun o => { o.2 with pos := o.1 % 16 }
      if l = [] then none else some (.prow (base + h) l false none))
  | .reg r n0 => if outs = [] then [] else [.pvec r.val ((n0.val + a) % 8) (outs.map (·.2))]

/-- A state operation on one array that executes (R109 to R115, R118, R137, R141, R142, R612). -/
def stateOnArray (p : Nat) (op : StateOp) (h : StHead) (s : State) (a : Nat) : State :=
  let f := fenOf s p
  let d := h.depth.val
  let m := maskOf f h.mp.val
  let cells := activeCells m.1 m.2
  let busy := f.pend.any fun w => match w.wr with
    | .entries t _ _ => decide (t = tileIx a d)
    | _ => false
  let s := if busy then arrayHazard p 3 a s else s
  let t := tileOf f a d
  let bad := !(tileFound t h.comp cells.contains .ue).isEmpty
  let s := tileTouch p a d h.comp cells.contains s
  let s := fenBump p 0x508 (if t.invalid then 1 else 0) s
  let x := stateArgs f h a
  let up := StateOpUpdates op
  let new := if up then tileNext op h.comp x cells t else ([], 0)
  let frozen := t.frozen && up
  let seq := issueSeq s slotArray
  let s := fenBump p 0x50C (if frozen && cells.any (fun e => !cellStopped f a seq e) then 1 else 0) s
  let opMire := up && updateMire op f h a && !cells.isEmpty
  let late := if h.comp && up then 1 else 0
  let s := if frozen || !up then s
    else addPend p ⟨s.ck + 4 + late, issueSeq s slotArray, .state, .entries (tileIx a d) new.1 (opMire || t.invalid)⟩
      (countEv p { accSat := new.2 } s)
  let s := match stateRead op with
    | none => s
    | some (axis, dst) =>
      let val : Nat → W40 := fun e =>
        if frozen then entryW (entryOf t e)
        else entryW (((new.1.find? fun n => decide (n.1 = e)).map (·.2)).getD (entryOf t e))
      let qm := vecMire f (h.vbase.val + 3) (stVec h a) && !(if axis then lanesOf m.1 true 0 else lanesOf m.2 true 0).isEmpty
      let mire := t.mire || bad || t.invalid || opMire || qm
      let outs := ((List.range 32).filter fun o => (if axis then m.2 else m.1).getLsbD o).map fun o =>
        (o, { pos := o, sums := [readOut axis m.1 m.2 x.q val o], mire := mire
              free := some (a, if axis then 2 ^ (o / 16) + 2 ^ (2 + o / 16) else 2 ^ (2 * (o / 16)) + 2 ^ (2 * (o / 16) + 1)) })
      let w := readWrites dst a outs
      let s := match dst with
        | .rows _ _ => spendRows p w.length s
        | .reg _ _ => s
      addPends p (s.ck + 7 + late) (issueSeq s slotArray) .stread w s
  let s := modFen p (fun f => let y := arrOf f a
    putArr f a { y with stateCk := some s.ck, compCk := if h.comp && up then some s.ck else y.compCk }) s
  spend p (260 * (1 + late) + (if h.comp then 56 else 38)) s

/-- A state operation at its issue, on every array of its mask. -/
def stateIssue (p : Nat) (op : StateOp) (h : StHead) (s : State) : State :=
  let go := freeArrays s p h.amask true
  go.foldl (stateOnArray p op h) (countBusy p h.amask go s)

/-- TOPA. -/
def execTopa (p : Fin 72) (h : StHead) (s : State) : Host.Outcome State Fault Refusal :=
  .next (issueOp p slotArray (stateIssue p .opa h) s)

/-- TDECAY. -/
def execTdecay (p : Fin 72) (h : StHead) (dax : Bool) (s : State) : Host.Outcome State Fault Refusal :=
  .next (issueOp p slotArray (stateIssue p (.decay dax) h) s)

/-- TSCALE. -/
def execTscale (p : Fin 72) (h : StHead) (dax : Bool) (s : State) : Host.Outcome State Fault Refusal :=
  .next (issueOp p slotArray (stateIssue p (.scale dax) h) s)

/-- TREAD. -/
def execTread (p : Fin 72) (h : StHead) (axis : Bool) (dst : ODst) (s : State) : Host.Outcome State Fault Refusal :=
  .next (issueOp p slotArray (stateIssue p (.read axis dst) h) s)

/-- TSTEP. -/
def execTstep (p : Fin 72) (h : StHead) (dax axis : Bool) (dst : ODst) (s : State) : Host.Outcome State Fault Refusal :=
  .next (issueOp p slotArray (stateIssue p (.step dax axis dst) h) s)

/-! ## Results and faults -/

/-- Whether the outputs of a write came from a quadrant-mode operation: each rests on one quadrant. -/
def wrQuadMode : FenWr → Bool
  | .prow _ outs _ _ => outs.any fun o => match o.free with
    | some (_, m) => decide (m = 1 ∨ m = 2 ∨ m = 4 ∨ m = 8)
    | none => false
  | _ => false

/-- The quadrant whose half of a lane or tree failed, and the other that it serves (R129): a row's halves are its
columns 0 to 15 and 16 to 31, a column's its rows. -/
def faultQuads (x : ArrFault) : Nat × Nat :=
  let h := if x.half then 1 else 0
  let i := x.index.val / 16
  if x.colLane then (2 * h + i, 2 * (1 - h) + i) else (2 * i + h, 2 * i + (1 - h))

/-- The record of an array fault of operation `seq` (R129): FAULTED, COLLATERAL, ARR_FAULT_INFO if it is empty, and the log,
whose detail holds this fault's fields of ARR_FAULT_INFO also where the register holds an earlier one's (log entry 113). What
the operation and later ones have written to entries of the stopped quadrants is taken back. -/
def arrayFault (p : Nat) (qm : Bool) (seq : Nat) (x : ArrFault) (s : State) : State :=
  let q := faultQuads x
  let a := x.array.val
  let faulted := if qm then 2 ^ (4 * a + q.1) + 2 ^ (16 + 4 * a + q.2) else 0xF * 2 ^ (4 * a)
  let info := (if x.residue then 2 else 1) + (if x.colLane then 4 else 0) + 8 * x.index.val + 256 * a + (if qm then 1024 else 0)
  let quads := faulted % 2 ^ 16 ||| faulted / 2 ^ 16
  let s := modFen p (fun f => undoTiles seq quads { f with faults := f.faults ++ [(seq, quads)] }) s
  let s := orReg (fenWin p 0x310) (BitVec.ofNat 32 faulted) s
  let s := if fenReg s p 0x314 = 0#32 then setFenReg p 0x314 (BitVec.ofNat 32 info) s else s
  logAdd lkArrayFault p [info] s

/-- A result event of the arrays with the fault, if any, that struck it. -/
def arrayResult (p : Nat) (cls : WrCls) (fault : Option ArrFault) (s : State) : State :=
  resultWrite p cls (fun w s => match fault with
    | none => s
    | some x => arrayFault p (wrQuadMode w.wr) w.seq x s) s

/-- ARRAY_RESULT_WRITE (R116). -/
def execArrayResultWrite (p : Fin 72) (fault : Option ArrFault) (s : State) : Host.Outcome State Fault Refusal :=
  .next (arrayResult p .tmul fault s)

/-- STATE_ENTRY_WRITE (R118). -/
def execStateEntryWrite (p : Fin 72) (fault : Option ArrFault) (s : State) : Host.Outcome State Fault Refusal :=
  .next (arrayResult p .state fault s)

/-- TREAD_TSTEP_RESULT_WRITE (R115). -/
def execTreadTstepResultWrite (p : Fin 72) (fault : Option ArrFault) (s : State) : Host.Outcome State Fault Refusal :=
  .next (arrayResult p .stread fault s)

end Sys2Proof.Machine
end

