-- ==== Sys2Proof/Machine/Tier.lean ====
section
/-!
DEFINITION. The memory tiers (chapter 11): their bytes, the mired forms in which mired rows are stored (R60), tier B
ranks, objects and how lode bases resolve to their copies.
-/

namespace Sys2Proof.Machine

/-! ## Bytes -/

/-- The bytes of a row, byte 0 first (R15, R57). -/
def rowBytes (r : Row) : List Byte := (List.range 128).map fun i => BitVec.ofNat 8 (r.toNat / 2 ^ (8 * i))

/-- A little-endian number of bytes. -/
def leNat (l : List Byte) : Nat := l.foldr (fun b n => b.toNat + 256 * n) 0

/-- A row of 128 bytes. -/
def rowOfBytes (l : List Byte) : Row := BitVec.ofNat 1024 (leNat l)

/-- `n` bytes of a number, least significant first. -/
def leBytes (n v : Nat) : List Byte := (List.range n).map fun i => BitVec.ofNat 8 (v / 2 ^ (8 * i))

/-- Capacity of a tier in bytes (Table 11-1). -/
def tierSize : Tier → Nat
  | .a => 3 * 2 ^ 36
  | .b => 2 ^ 40
  | .bAsC => 2 ^ 40

/-- The cells of a tier; an unlisted byte reads as 0 (log entry 5). -/
def tierCells (s : State) : Tier → List Host.Cell
  | .a => s.tierA
  | .b => s.tierB
  | .bAsC => s.tierB

/-- `n` bytes of a tier. -/
def tierRead (s : State) (t : Tier) (addr n : Nat) : List Byte := mapRun 0#8 (tierCells s t) addr n

/-- A row of a tier. -/
def tierRow (s : State) (t : Tier) (addr : Nat) : Row := rowOfBytes (tierRead s t addr 128)

/-- Write bytes to a tier. -/
def tierWrite (t : Tier) (addr : Nat) (data : List Byte) (s : State) : State :=
  match t with
  | .a => { s with tierA := mapPutRun 0#8 s.tierA addr data }
  | .b => { s with tierB := mapPutRun 0#8 s.tierB addr data }
  | .bAsC => { s with tierB := mapPutRun 0#8 s.tierB addr data }

/-! ## Mired forms (R60) -/

/-- A row whose contents the spec does not state, from the free value `n` on. -/
def freeRow (n : Nat) : Row := packRow .f32 ((List.range 32).map fun i => (Config.freeWord (n + i)).toNat)

/-- `k` free values have been used. -/
def freeUsed (k : Nat) (s : State) : State := { s with free := s.free + k }

/-- Those of `n` entries on their way over FIFO crossings, from place `first` on, that are in them as a side enters reset
(R577). -/
def inCrossings (s : State) (first n : Nat) : List Nat := (List.range n).filter fun k => Config.inCrossing s.free (first + k)

/-- A reset discards entries in crossings and adds their number to XING_FLUSH (R577). -/
def xingFlush (n : Nat) (s : State) : State := freeUsed 1 (bump 0xC010 n s)

/-- The row of canonical NaNs in which a mired row of an unscaled format is stored; `none` for a format without one. -/
def nanRow (f : Fmt) : Option Row :=
  (floatOf f).map fun _ => packRow f (List.replicate (fmtPerRow f) (convert f none false .nan).1)

/-- The stored form of a mired row of an unscaled format. R60 states none for E8. -/
def mireStored (free : Nat) (f : Fmt) (data : Row) : Row :=
  if f = .e8 then freeRow free else (nanRow f).getD data

/-- Whether a format has a mired form: with SC, or for a float format. -/
def hasMireForm (fmt : Nat) (sc : Bool) : Bool :=
  sc || (match fmtOfCode fmt with | some f => (floatOf f).isSome | none => false)

/-- Scale blocks in a row of a format (Table 2-7). -/
def blocksPerRow (f : Fmt) : Nat := fmtPerRow f / 32

/-- The 256 scale bytes of a scaled slot image, with 0xFF for every block of a mired data row and for the whole of a
mired scale row; `mired` gives the mire of slot row r. -/
def mireScales (f : Fmt) (mired : Nat → Bool) (scales : List Byte) : List Byte :=
  scales.zipIdx.map fun b =>
    if mired (b.2 / (blocksPerRow f)) && decide (b.2 < 30 * blocksPerRow f) || mired (30 + b.2 / 128) then 0xFF#8 else b.1

/-- The data rows that hold a block with scale 0xFF (R61). -/
def badScaleRows (f : Fmt) (scales : List Byte) : List Nat :=
  (List.range 30).filter fun r =>
    (List.range (blocksPerRow f)).any fun k => decide (scales.getD (blocksPerRow f * r + k) 0#8 = 0xFF#8)

/-- Pages of a snapshot's image (R532). -/
def imgPages : Nat := 57524
/-- Bytes of an image. -/
def imgBytes : Nat := 4096 * imgPages

/-! ## Tier B ranks (R444) -/

/-- The rank of a tier B address. -/
def rankAt (addr : Nat) : Nat := addr / 2 ^ 36

/-- A rank. -/
def rankOf (s : State) (r : Nat) : Rank := mapGet {} s.ranks r

/-- The state with a rank changed. -/
def modRank (r : Nat) (g : Rank → Rank) (s : State) : State := { s with ranks := mapPut {} s.ranks r (g (rankOf s r)) }

/-- Whether some address of a list lies in a rank of state `st`. -/
def anyRank (s : State) (st : RankSt) (t : Option Tier) (addrs : List Nat) : Bool :=
  match t with
  | none => false
  | some .a => false
  | some _ => addrs.any fun a => decide ((rankOf s (rankAt a)).st = st)

/-- Record rows of a write transfer dropped at one OFF rank (R445): their addresses, FMT and SC. -/
def dropRecord (fmt : Nat) (sc : Bool) (rows : List Nat) (r : Nat) (s : State) : State :=
  if 256 ≤ (rankOf s r).records.length then logAdd lkRecordLost 0x200 [r] (orReg 0x60DC (1#32 <<< r) s)
  else modRank r (fun x => { x with records := x.records ++ [(rows.filter fun a => decide (rankAt a = r), fmt, sc)] }) s

/-- A write transfer whose rows at these addresses are dropped counts once, and each rank records its own (R445, log entry 125). -/
def dropTierWrite (rows : List Nat) (fmt : Nat) (sc : Bool) (s : State) : State :=
  ((rows.map rankAt).eraseDups).foldl (fun s r => dropRecord fmt sc rows r s) (bump 0x60D4 1 s)

/-- Bytes of a page in the mired form of R60 for an object's format (R442): with SC, scale bytes 0xFF and data rows zero;
zeros for a format without a mired form. -/
def mirePage (fmt : Nat) (sc : Bool) : List Byte :=
  if sc then List.replicate 3840 0#8 ++ List.replicate 256 0xFF#8
  else match (fmtOfCode fmt).bind nanRow with
    | some r => (List.replicate 32 (rowBytes r)).flatten
    | none => List.replicate 4096 0#8

/-- Write `n` pages in that form; pages without one are counted in TIER_UNMARKED (R442). -/
def writeMirePages (t : Tier) (addr n fmt : Nat) (sc : Bool) (s : State) : State :=
  let s := (List.range n).foldl (fun s k => tierWrite t (addr + 4096 * k) (mirePage fmt sc) s) s
  bump 0x6054 (if hasMireForm fmt sc then 0 else n) s

/-- Write one stored row of a tier in its mired form (R60, R446): of a scaled image, its blocks' scales; a row of a format
without one keeps its contents and is counted. -/
def mireRow (t : Tier) (fmt : Nat) (sc : Bool) (addr : Nat) (s : State) : State :=
  match fmtOfCode fmt with
  | none => s
  | some f =>
    if sc then
      let image := addr / 4096 * 4096
      let r := addr % 4096 / 128
      if r < 30 then tierWrite t (image + 3840 + blocksPerRow f * r) (List.replicate (blocksPerRow f) 0xFF#8) s
      else tierWrite t addr (List.replicate 128 0xFF#8) s
    else match nanRow f with
      | some x => tierWrite t addr (rowBytes x) s
      | none => bump 0x6054 1 s

/-- A copy of bytes between tiers, of which the read reports the rows `bad` uncorrectable: each of them is written in its mired
form over data that no rule states, and the read counts once (R60, R421). -/
def copyBytes (src dst : Tier) (from_ to_ n fmt : Nat) (sc : Bool) (bad : List Nat) (s : State) : State :=
  let bad := (bad.filter fun k => decide (128 * k < n)).eraseDups
  let s := tierWrite dst to_ (tierRead s src from_ n) s
  let s := bad.foldl (fun s k =>
    tierWrite dst (to_ + 128 * k) (rowBytes (freeRow s.free)) (freeUsed 32 s)) (if bad = [] then s else bump 0x6050 1 s)
  bad.foldl (fun s k => mireRow dst fmt sc (to_ + 128 * k) s) s

/-- Whether every rank that `n` bytes of tier B touch is ON: other tier B work waits (R444). -/
def ranksOn (s : State) (addr n : Nat) : Bool :=
  (List.range (rankAt (addr + n - 1) + 1 - rankAt addr)).all fun k => decide ((rankOf s (rankAt addr + k)).st = .on)

/-! ## Objects (R425 to R433) -/

/-- The entry that a handle indexes, if the handle is current (R426). -/
def objCurrent (s : State) (h : Word) : Option Nat :=
  let o := objOf s (h.toNat % 4096)
  if o.valid && decide (h.toNat / 4096 = o.epoch.toNat) && decide (h.toNat / 4096 ≠ 0) then some (h.toNat % 4096) else none

/-- Byte address of the copy of an object at a tier. -/
def copyAddr (o : Obj) : Tier → Nat
  | .a => if o.home = 0 then o.homeAddr.toNat else o.addrA.toNat
  | .b => if o.home = 1 then o.homeAddr.toNat else o.addrB.toNat
  | .bAsC => o.addrB.toNat

/-- Resolution of a base (Table 11-5). -/
def resolveObj (o : Obj) (write : Bool) : Option Tier :=
  if o.home = 0 then some .a
  else if o.home = 1 then some (if o.resA then .a else .b)
  else if o.home = 2 ∧ write = false then
    (if o.resA then some .a else if o.resB then some .b else if o.pendB then some .bAsC else none)
  else none

/-! ## Lode descriptors (Tables 10-4 and 10-5) -/

/-- Bits [hi:lo] of a descriptor. -/
def ldField (d : BitVec 512) (hi lo : Nat) : Nat := d.toNat / 2 ^ lo % 2 ^ (hi + 1 - lo)

/-- KIND. -/
def ldKind (d : BitVec 512) : Nat := ldField d 1 0
/-- A read lode. -/
def ldRead (d : BitVec 512) : Bool := decide (ldKind d % 2 = 0)
/-- A fabric lode. -/
def ldFabric (d : BitVec 512) : Bool := decide (2 ≤ ldKind d)
/-- LIGHT. -/
def ldLight (d : BitVec 512) : Bool := d.getLsbD 2
/-- CACHE. -/
def ldCache (d : BitVec 512) : Bool := d.getLsbD 3
/-- SHARED. -/
def ldShared (d : BitVec 512) : Bool := d.getLsbD 4
/-- PERSIST. -/
def ldPersist (d : BitVec 512) : Bool := d.getLsbD 5
/-- RELEASE. -/
def ldRelease (d : BitVec 512) : Bool := d.getLsbD 6
/-- SC. -/
def ldSc (d : BitVec 512) : Bool := d.getLsbD 7
/-- FMT. -/
def ldFmt (d : BitVec 512) : Nat := ldField d 11 8
/-- FEN. -/
def ldFen (d : BitVec 512) : Nat := ldField d 17 12
/-- BUF. -/
def ldBuf (d : BitVec 512) : Option BufId := bufOfCode (ldField d 19 18)
/-- SLOT. -/
def ldSlot (d : BitVec 512) : Nat := ldField d 28 20
/-- Slots in the range. -/
def ldSlots (d : BitVec 512) : Nat := ldField d 36 29 + 1
/-- GROUP. -/
def ldGroup (d : BitVec 512) : Nat := ldField d 44 37
/-- Rows of a transfer. -/
def ldRows (d : BitVec 512) : Nat := ldField d 50 45 + 1
/-- COUNT: transfers of a base less one. -/
def ldCount (d : BitVec 512) : Nat := ldField d 73 52
/-- START, in CK. -/
def ldStart (d : BitVec 512) : Nat := ldField d 95 74
/-- NBASE: bases less one. -/
def ldNbase (d : BitVec 512) : Nat := ldField d 97 96
/-- STRIDE in bytes. -/
def ldStride (d : BitVec 512) : Nat := 128 * ldField d 127 98
/-- HANDLE of base k. -/
def ldHandle (d : BitVec 512) (k : Nat) : Word := BitVec.ofNat 32 (ldField d (128 + 96 * k + 31) (128 + 96 * k))
/-- OFFSET of base k. -/
def ldOffset (d : BitVec 512) (k : Nat) : Nat := ldField d (128 + 96 * k + 79) (128 + 96 * k + 32)
/-- Fabric address of base k. -/
def ldAddr (d : BitVec 512) (k : Nat) : Nat := ldField d (128 + 96 * k + 63) (128 + 96 * k)

/-- Rows of a slot that transfers fill: 30 of a scaled slot. -/
def ldCap (d : BitVec 512) : Nat := if ldSc d then 30 else 32

/-- The base entries in use. -/
def ldBases (d : BitVec 512) : List Nat := List.range (ldNbase d + 1)

/-- Whether a base entry in use holds legal values (R394, Table 10-5). -/
def ldBaseOk (d : BitVec 512) (k : Nat) : Bool :=
  if ldFabric d then decide (ldField d (128 + 96 * k + 79) (128 + 96 * k + 64) = 0) && decide (ldAddr d k % 128 = 0)
  else decide (ldOffset d k % 128 = 0)

/-- The checks of R394 on a descriptor. -/
def ldOk (d : BitVec 512) : Bool :=
  match ldBuf d, fmtOfCode (ldFmt d) with
  | some b, some f =>
    !d.getLsbD 51 && decide (ldSlot d + ldSlots d ≤ bufSlots b) && !(ldSc d && decide (30 < ldRows d))
      && !(decide (32 < ldRows d) && decide (ldSlots d = 1)) && !(ldLight d && decide (2 < ldRows d))
      && !(ldCache d && decide (ldKind d ≠ 0)) && !(ldShared d && !ldCache d) && !(ldRelease d && ldRead d)
      && !(ldSc d && !fmtScaled f) && !(ldRead d && decide (b = .p) && decide (16 < ldRows d))
      && (List.range 4).all (fun k => decide (ldField d (128 + 96 * k + 95) (128 + 96 * k + 80) = 0)) && (ldBases d).all (ldBaseOk d)
  | _, _ => false

/-- The objects that a tier lode names, each once. -/
def ldHandles (d : BitVec 512) : List Word :=
  if ldFabric d then [] else ((ldBases d).map (ldHandle d)).eraseDups

/-- The end of the slot image of a scaled slot whose last transfer is transfer `j` of base `k` (R396). -/
def ldImageEnd (d : BitVec 512) (k j : Nat) : Nat :=
  ldOffset d k + ldStride d * j + 4096 - 128 * (j % (30 / ldRows d) * ldRows d)

/-- The last byte of a base that its transfers reach, plus one; in scaled slots they also move rows 30 and 31 of each slot image,
with its last transfer (R396, R430). -/
def ldEnd (d : BitVec 512) (k : Nat) : Nat :=
  let n := ldOffset d k + ldStride d * ldCount d + 128 * ldRows d
  let per := 30 / ldRows d
  if ldSc d then max (max n (ldImageEnd d k (ldCount d)))
    (if per ≤ ldCount d then ldImageEnd d k ((ldCount d + 1) / per * per - 1) else 0)
  else n

/-- A descriptor with its bases and NBASE replaced. -/
def withBases (d : BitVec 512) (n : Nat) (b : BitVec 384) : BitVec 512 :=
  BitVec.ofNat 512 (d.toNat % 2 ^ 96 + n % 4 * 2 ^ 96 + d.toNat / 2 ^ 98 % 2 ^ 30 * 2 ^ 98 + b.toNat * 2 ^ 128)

/-- References of a descriptor on an object: whether it writes, and the tiers its bases resolve to. -/
def descRefs (d : BitVec 512) (tiers : List Tier) (o : Nat) : List (Bool × Tier) :=
  if ldFabric d then []
  else (ldBases d).filterMap fun k =>
    if (ldHandle d k).toNat % 4096 = o then some (!ldRead d, tiers.getD k .a) else none

/-- References held on an object by the lodes that name it, those that a REARM_LODE has taken for the next segment start
included (R401, R430). -/
def objRefs (s : State) (o : Nat) : List (Bool × Tier) :=
  s.lodes.flatMap fun l =>
    (if l.2.held then descRefs l.2.desc l.2.tiers o else [])
      ++ (match l.2.newBases with
          | some (b, n, tiers) => descRefs (withBases l.2.desc n b) tiers o
          | none => [])

/-- Resolution of a lode's bases (R426, R430, R432): the tier of each base, or the status that refuses the lode. -/
def resolveLode (s : State) (d : BitVec 512) : Status ⊕ List Tier :=
  if ldFabric d then .inr []
  else
    let write := !ldRead d
    let bases := (ldBases d).map fun k => (k, objCurrent s (ldHandle d k))
    if bases.any fun b => b.2.isNone then .inl stEpochMismatch
    else
      let got := bases.map fun b =>
        let o := objOf s (b.2.getD 0)
        if o.size * 4096 < ldEnd d b.1 then none else resolveObj o write
      if got.any Option.isNone then .inl stRefusedConfig
      else
        let tiers := got.map (·.getD .a)
        let mine := (bases.zip tiers).map fun x => (x.1.2.getD 0, x.2)
        let clash := mine.any fun m =>
          let others := objRefs s m.1 ++ (mine.filter fun y => decide (y.1 = m.1)).map fun y => (write, y.2)
          (write || others.any (·.1)) && others.any fun r => decide (r.2 ≠ m.2)
        let full := (ldHandles d).any fun h =>
          let o := objOf s (h.toNat % 4096)
          decide (255 ≤ if write then o.writers else o.readers)
        if clash then .inl stRefusedConfig else if full then .inl stRefusedLodes else .inr tiers

/-- Take (`take`) or release the references of a lode descriptor. -/
def refLode (d : BitVec 512) (take : Bool) (s : State) : State :=
  (ldHandles d).foldl (fun s h =>
    modObj (h.toNat % 4096) (fun o =>
      if ldRead d then { o with readers := if take then o.readers + 1 else o.readers - 1 }
      else { o with writers := if take then o.writers + 1 else o.writers - 1 }) s) s

/-- A lode's references go: those of its bases, and those that a REARM_LODE took for the next segment start (R433). -/
def dropRefs (l : Nat) (s : State) : State :=
  let x := lodeOf s l
  let s := if x.held then refLode x.desc false s else s
  let s := match x.newBases with
    | some (b, n, _) => refLode (withBases x.desc n b) false s
    | none => s
  modLode l (fun x => { x with held := false, newBases := none }) s

end Sys2Proof.Machine
end

