-- ==== Sys2Proof/Machine/Lode.lean ====
section
/-!
DEFINITION. The lodes (R393 to R413): placement, issue, completion and generation steps of transfers, the weight cache
(R21 to R27, R408), and the status that QUERY and LODE_STAT0–3 show.
-/

namespace Sys2Proof.Machine

/-! ## The weight cache -/

/-- Whether the cache serves lode reads: PD_CACHE is up and not being turned off (R27). -/
def cacheOn (s : State) : Bool := s.plant.cacheUp

/-- The set of a line (R21). -/
def lineSet (h : Word) (line : Nat) : Nat := Config.cacheSet h.toNat line % 768

/-- The line of a handle at a line offset, if it is cached. -/
def lineOf (s : State) (h : Word) (line : Nat) : Option CacheLine :=
  s.cache.find? fun x => decide (x.handle = h) && decide (x.line = line)

/-- The ways in use: sixteen of the seventeen, way 16 only in place of the retired one (R599). -/
def waysInUse (s : State) : List Nat :=
  (List.range 17).filter fun w => decide (w ≠ if s.retiredWay.toNat < 17 then s.retiredWay.toNat else 16)

/-- The way that takes a new line of a set, with the cache after what it evicts: a way without a line, of several the
lowest-numbered (DESIGN CHOICE, log entry 75), otherwise the way of the least recently used unpinned line (R24); `none` where
every line is pinned. -/
def freeWay (s : State) (set : Nat) : Option (Nat × List CacheLine) :=
  let mine := s.cache.filter fun x => decide (lineSet x.handle x.line = set)
  match (waysInUse s).find? fun w => mine.all fun x => decide (x.way ≠ w) with
  | some w => some (w, s.cache)
  | none => (mine.find? fun x => !x.pinned).map fun v => (v.way, s.cache.filter fun x => decide (x ≠ v))

/-- Count an uncorrectable read of a way; the first way to reach 4 while the spare way is unused waits for its
substitution (R599). -/
def wayError (w : Nat) (s : State) : State :=
  let off := 0xB108 + 4 * (w / 8)
  let lo := 4 * (w % 8)
  let n := regBits s off (lo + 3) lo
  let s := if n < 15 then setReg off (reg s off + (1#32 <<< lo)) s else s
  let s := bump 0xB104 1 s
  if 4 ≤ n + 1 ∧ s.spareWay ∧ s.wayPending = none then { s with wayPending := some w } else s

/-- What a read of one line of an object's copy gave: its number, whether it hit, its bytes, whether the cache found them
uncorrectable, and the rows of it that the tier reported uncorrectable when it was filled. -/
structure LineRead where
  line : Nat
  hit : Bool
  data : List Byte
  ue : Bool
  lost : List Nat

/-- The lookup of one 4 KiB line (R408): a hit supplies its bytes, through the cache's ECC; a miss reads the tier, and unless
`fill` is false fills the line, pinned for a SHARED lode (R24). `lost` are the rows of the line whose read the tier reports
uncorrectable (R421). -/
def readLine (h : Word) (t : Tier) (origin line : Nat) (shared fill : Bool) (lost : List Nat) (s : State) : LineRead × State :=
  match lineOf s h line with
  | some x =>
    let s := { s with cache := (s.cache.filter fun y => decide (y ≠ x)) ++ [x] }
    let r : LineRead := ⟨line, true, x.data, decide (x.err = .ue), x.lost⟩
    match x.err with
    | .ok => (r, s)
    | .ce => (r, bump 0xB100 1 s)
    | .ue => (r, wayError x.way s)
  | none =>
    let data := tierRead s t (origin + 4096 * line) 4096
    let r : LineRead := ⟨line, false, data, false, lost⟩
    match freeWay s (lineSet h line) with
    | none => (r, s)
    | some (w, c) => (r, if fill then { s with cache := c ++ [⟨h, line, w, data, shared, .ok, lost⟩] } else s)

/-- Invalidate the cached lines of written rows (R22). -/
def dropLines (h : Word) (offs : List Nat) (s : State) : State :=
  { s with cache := s.cache.filter fun x => !(decide (x.handle = h) && offs.any fun o => decide (o / 4096 = x.line)) }

/-! ## Placement (R395, R396) -/

/-- Where the next transfer of a lode goes: whether it moves to a new slot, the indices in the range of the slots it
touches, its first row, and the slots that it is the last to move. -/
def lodePlace (x : Lode) : Bool × List Nat × Nat × List Nat :=
  let d := x.desc
  let n := ldRows d
  let m := ldSlots d
  if 32 < n then
    let l := [x.slot % m, (x.slot + 1) % m]
    (true, l, 0, l)
  else
    let moves := !x.placed || decide (ldCap d < x.row + n)
    let ix := if moves then (x.slot + 1) % m else x.slot
    let row := if moves then 0 else x.row
    (moves, [ix], row, if x.next = ldCount d ∨ ldCap d < row + n + n then [ix] else [])

/-- A lode's placement when it is armed: the first transfer goes to the first slot of the range. -/
def firstSlot (d : BitVec 512) : Nat := if 32 < ldRows d then 0 else ldSlots d - 1

/-- Byte offset of transfer `j` of base `k` in its object, or its fabric address (R395). -/
def xferAt (d : BitVec 512) (k j : Nat) : Nat :=
  if ldFabric d then (ldAddr d k + ldStride d * j) % 2 ^ 64 else ldOffset d k + ldStride d * j

/-- The rows of the next transfer: buffer row and byte offset, with rows 30 and 31 of a scaled slot at the last transfer
placed in it. -/
def xferRows (x : Lode) : List (Nat × Nat) :=
  let d := x.desc
  let pl := lodePlace x
  let at_ := xferAt d x.base x.next
  let data := (List.range (ldRows d)).map fun k => (32 * (ldSlot d + pl.2.1.getD (k / 32) 0) + pl.2.2.1 + k % 32, at_ + 128 * k)
  if ldSc d ∧ pl.2.2.2 ≠ [] then
    data ++ (List.range 2).map fun k => (32 * (ldSlot d + pl.2.1.headD 0) + 30 + k, at_ + 3840 + 128 * k - 128 * pl.2.2.1)
  else data

/-- The lode after its next transfer has been placed. -/
def afterPlace (x : Lode) : Lode :=
  let d := x.desc
  let pl := lodePlace x
  if 32 < ldRows d then { x with slot := (x.slot + 2) % ldSlots d, row := 0, placed := false }
  else { x with slot := pl.2.1.headD 0, row := pl.2.2.1 + ldRows d, placed := true }

/-- The slot that a base leaves open when it ends before its last transfer (R384, R396). -/
def openSlot (x : Lode) : Option Nat :=
  if x.placed ∧ x.next ≤ ldCount x.desc ∧ x.row + ldRows x.desc ≤ ldCap x.desc then some (ldSlot x.desc + x.slot) else none

/-! ## Time in FK -/

/-- The first FK edge at or after time `t`, as a time. -/
def fkUp (t : Nat) : Nat := (5 * ((2 * t + 4) / 5) + 1) / 2

/-- The first FK edge after the FK of time `t`. -/
def fkAfter (t : Nat) : Nat := (5 * (2 * t / 5 + 1) + 1) / 2

/-! ## Issue (R395 to R398) -/

/-- The pfen a lode serves (R18). -/
def lodePfen (s : State) (x : Lode) : Option Nat := pfenOf s (ldFen x.desc)

/-- Whether the tier engine works: PD_TIER is up and no tier-engine reset runs. -/
def tierWorks (s : State) : Bool :=
  s.plant.tierUp && decide (s.plant.tierResetUntil = none)

/-- Whether a read lode may issue into a fen (R560, R565): ON or IDLE, and neither FENCED nor DRAINING. -/
def fenTakesReads (f : Fen) : Bool :=
  decide (f.pwr.st = .on ∨ f.pwr.st = .idle) && decide (f.pwr.phase ≠ .fenced ∧ f.pwr.phase ≠ .draining) && !bufsOff f

/-- Whether the lode has a next transfer that only its tags, DONE_PAGES or a waking rank can hold back. -/
def lodeReady (s : State) (x : Lode) : Bool :=
  let d := x.desc
  tierWorks s && decide (s.plant.fatal = 0) && decide (x.st = .armed ∨ x.st = .running ∨ x.st = .blocked) && decide (x.stepWait = 0) && decide (x.next ≤ ldCount d)
    && (x.segRun || (decide (x.plan = none) && !ldPersist d))
    && decide (x.inflight.length < if ldLight d then 4 else 8)
    && (match x.plan.bind (planOf s) with | some y => !y.unloading | none => true)
    && (match lodePfen s x with
      | none => false
      | some p => if ldRead d then fenTakesReads (fenOf s p) else !bufsOff (fenOf s p))

/-- Whether the tags allow the next transfer (R397). -/
def tagsAllow (s : State) (p : Nat) (x : Lode) : Bool :=
  let d := x.desc
  let pl := lodePlace x
  match ldBuf d with
  | none => false
  | some b =>
    let full (k : Nat) : Bool := (tagOf (fenOf s p) b (ldSlot d + k)).full
    if ldRead d then !pl.1 || pl.2.1.all fun k => !full k else pl.2.1.all full

/-- Whether a row of a transfer needs its tier: not where the weight cache holds its line for a lode with CACHE = 1 (R408). -/
def needsTier (s : State) (d : BitVec 512) (h : Word) (off : Nat) : Bool :=
  !(ldCache d && cacheOn s && (lineOf s h (off / 4096)).isSome)

/-- The transfer that issues next. -/
def nextXfer (s : State) (x : Lode) : Xfer :=
  let d := x.desc
  let t := x.tiers.getD x.base .a
  let h := ldHandle d x.base
  let slots := (lodePlace x).2.2.2.map fun k => ldSlot d + k
  let org := if ldFabric d then 0 else copyAddr (objOf s (h.toNat % 4096)) t
  let tier := if ldFabric d then none else some t
  let rows := xferRows x
  { gen := x.gen, base := x.base, j := x.next, rows := rows, lastOfSlot := slots, tier := tier, handle := h,
    origin := org, issued := s.now,
    offRows := (List.range rows.length).filter fun k =>
      let o := (rows.getD k (0, 0)).2
      needsTier s d h o && anyRank s .off tier [org + o] }

/-- Whether a tier C lode's pages are in place (R431). -/
def pagesThere (s : State) (t : Xfer) : Bool :=
  match t.tier with
  | some .bAsC =>
    let o := objOf s (t.handle.toNat % 4096)
    !o.pendB || t.rows.all fun r => decide ((r.2 + 127) / 4096 < o.donePages)
  | _ => true

/-- Count mired rows a lode has moved (R405). -/
def lodeMired (l n : Nat) (s : State) : State :=
  if n = 0 then s
  else bump 0x6018 n (modLode l (fun x =>
    { x with miredRows := min (x.miredRows + n) 0xFFFFFFFF, code := if x.code = 0 then 0x0300 else x.code }) s)

/-- The bytes a write transfer stores for one of its rows (R60, Table 10-6); `sl` is the row's slot. -/
def storedRow (s : State) (d : BitVec 512) (p : Nat) (b : BufId) (k row : Nat) : List Byte :=
  let x := bufOf (fenOf s p) b
  let data := rowData x row
  match fmtOfCode (ldFmt d) with
  | none => rowBytes data
  | some f =>
    if ldFabric d then rowBytes data
    else if ldSc d then
      if row % 32 < 30 then rowBytes data
      else
        let base := 32 * (row / 32)
        let both := rowBytes (rowData x (base + 30)) ++ rowBytes (rowData x (base + 31))
        ((mireScales f (fun r => rowMire x (base + r)) both).drop (128 * (row % 32 - 30))).take 128
    else if rowMire x row then rowBytes (mireStored (s.free + 32 * k) f data) else rowBytes data

/-- A write lode reads its rows and writes them to its tier or the fabric (R380, R404, R22). Rows in an OFF rank are dropped
(R445). -/
def issueWrite (l p : Nat) (d : BitVec 512) (t : Xfer) (s : State) : State :=
  match ldBuf d with
  | none => s
  | some b =>
    let rows := t.rows.map (·.1)
    let s := touchRows p b rows (noteUse p b rows <| spend p (384 * rows.length) (spendRows p rows.length s))
    let mired := (rows.filter fun r => rowMire (bufOf (fenOf s p) b) r).length
    let data := t.rows.zipIdx.map fun r => (t.origin + r.1.2, storedRow s d p b r.2 r.1.1)
    let s := freeUsed (32 * rows.length) (lodeMired l mired s)
    let s := match t.tier with
      | none => data.foldl (fun s w => emit (.fabricWrite w.1 w.2) s) s
      | some tier =>
        let s := dropLines t.handle (t.rows.map (·.2)) s
        let s := modObj (t.handle.toNat % 4096) (fun o => if o.home = 1 ∧ tier = .a then { o with dirty := true } else o) s
        let gone := data.zipIdx.filter fun w => t.offRows.contains w.2
        let s := (data.zipIdx.filter fun w => !t.offRows.contains w.2).foldl (fun s w => tierWrite tier w.1.1 w.1.2 s) s
        if gone = [] then s
        else modLode l (fun x => { x with st := .ended, code := 0x0301 })
            (dropTierWrite (gone.map (·.1.1)) (ldFmt d) (ldSc d) s)
    if ldRelease d then t.lastOfSlot.foldl (fun s k => setTag p b k false s.ck s) s else s

/-- A lode's progress after an issue: the next base waits for its generation step (R399, R400); after the last base the
lode is DONE (R402). -/
def lodeAdvance (x : Lode) : Lode :=
  let y := { afterPlace x with next := x.next + 1, st := .running }
  if x.next < ldCount x.desc then y
  else if x.base < ldNbase x.desc then { y with base := x.base + 1, next := 0, placed := false, stepWait := 1, baseStep := true }
  else { y with st := .done }

/-- LODE_TRANSFER_ISSUE (R397): the lode's next transfer issues, or the lode is BLOCKED on a tag. -/
def execLodeTransferIssue (l : Fin 1024) (s : State) : Host.Outcome State Fault Refusal :=
  let x := lodeOf s l.val
  match lodePfen s x with
  | none => .next s
  | some p =>
    if !lodeReady s x then .next s
    else
      let t0 := max (fkUp (s.tempo.startTime + 2 * ldStart x.desc)) ((x.issuedAt.map fkAfter).getD 0)
      let s := settle p (advanceTo t0 s)
      if !tagsAllow s p x then .next (modLode l.val (fun x => { x with st := .blocked }) s)
      else
        let t := nextXfer s x
        let tierRows := t.rows.filter fun r => needsTier s x.desc t.handle r.2
        if !pagesThere s t || anyRank s .waking t.tier (tierRows.map fun r => t.origin + r.2) then .next s
        else
          let s := modLode l.val (fun x => { lodeAdvance x with inflight := x.inflight ++ [t], issuedAt := some s.now }) s
          if ldRead x.desc then .next (if t.offRows = [] then s else bump 0x60D8 1 s)
          else .next (issueWrite l.val p x.desc t s)

/-! ## Completion (R398, R403 to R405) -/

/-- The lines of its object that a transfer touches; rows and lines are aligned, so a row lies in one (R395, R408). -/
def xferLinesOf (t : Xfer) : List Nat := (t.rows.map fun r => r.2 / 4096).eraseDups

/-- The lookups of a transfer of a lode with CACHE = 1, one for each line it touches (R408). A line that misses in an OFF rank is
not filled. -/
def readLines (d : BitVec 512) (t : Xfer) (tier : Tier) (ret : XferReturn) (s : State) : List LineRead × State :=
  if !(ldCache d && cacheOn s) then ([], s)
  else (xferLinesOf t).foldl (fun a line =>
    let mine := t.rows.zipIdx.filter fun r => decide (r.1.2 / 4096 = line)
    let lost := (mine.filter fun r => ret.badRows.contains r.2).map fun r => r.1.2 % 4096 / 128
    let r := readLine t.handle tier t.origin line (ldShared d) (!mine.any fun r => t.offRows.contains r.2) lost a.2
    (a.1 ++ [r.1], r.2)) ([], s)

/-- One row of a tier read: its bytes, whether they are lost, and whether the read asked the tier. -/
def readOne (t : Xfer) (tier : Tier) (ret : XferReturn) (lines : List LineRead) (s : State) (off k : Nat) :
    List Byte × Bool × Bool :=
  let bad := t.offRows.contains k || ret.badRows.contains k
  match lines.find? fun r => decide (r.line = off / 4096) with
  | some r => ((r.data.drop (off % 4096)).take 128, if r.hit then r.ue || r.lost.contains (off % 4096 / 128) else bad, !r.hit)
  | none => (tierRead s tier (t.origin + off) 128, bad, true)

/-- The rows a read transfer delivers, each with its mire. A row whose data are lost is mired, with data that no rule
states. -/
def readRows (t : Xfer) (ret : XferReturn) (lines : List LineRead) :
    List ((Nat × Nat) × Nat) → State → List (Nat × Row × Bool) × State
  | [], s => ([], s)
  | (r, k) :: l, s =>
    let got : Row × Bool × State := match t.tier with
      | none => if ret.error then (freeRow s.free, true, freeUsed 32 s) else (ret.rows.getD k 0, false, s)
      | some tier =>
        let b := readOne t tier ret lines s r.2 k
        if b.2.1 then (freeRow s.free, true, freeUsed 32 s) else (rowOfBytes b.1, false, s)
    let rest := readRows t ret lines l got.2.2
    ((r.1, got.1, got.2.1) :: rest.1, rest.2)

/-- Whether a transfer's read asked its tier for a row that `p` names. -/
def askedTier (t : Xfer) (tier : Tier) (ret : XferReturn) (lines : List LineRead) (s : State) (p : Nat → Bool) : Bool :=
  t.rows.zipIdx.any fun r => p r.2 && !t.offRows.contains r.2 && (readOne t tier ret lines s r.1.2 r.2).2.2

/-- Data rows of the slot of rows 30 and 31 that a 0xFF scale marks (R61); a lost scale row marks none by its bytes. -/
def scaleMired (d : BitVec 512) (rows : List (Nat × Row × Bool)) : List Nat :=
  match fmtOfCode (ldFmt d), rows.filter fun r => decide (30 ≤ r.1 % 32) with
  | some f, [a, b] =>
    let bytes (r : Nat × Row × Bool) : List Byte := if r.2.2 then List.replicate 128 0#8 else rowBytes r.2.1
    if ldSc d ∧ !ldFabric d then (badScaleRows f (bytes a ++ bytes b)).map fun r => 32 * (a.1 / 32) + r else []
  | _, _ => []

/-- Set stored mire bits of rows. -/
def markRows (p : Nat) (b : BufId) (rows : List Nat) (s : State) : State :=
  modFen p (fun f => let x := bufOf f b
    putBuf f b { x with mire := rows.foldl (fun m r => mapPut false m r true) x.mire }) s

/-- A lode's descriptor and references go; its generation stays (R399, R433), and so does GS for the WAITs on its counter. -/
def lodeFree (l : Nat) (s : State) : State :=
  modLode l (fun x => { gen := x.gen, gs := x.gs, fed := some (ldFen x.desc, ldGroup x.desc) }) (dropRefs l s)

/-- Whether some lode of a plan still has its descriptor. -/
def planHasLodes (s : State) (k : Nat) : Bool := s.lodes.any fun l => decide (l.2.plan = some k)

/-- A plan whose boundary has come goes once its lodes are free, and its UNLOAD_PLANs are answered (R402, R433). -/
def unloadReplies (k : Nat) (s : State) : State :=
  if !(planOf s k).all (·.gone) || planHasLodes s k then s
  else
    let s := putPlan k none s
    let mine : BoundaryJob → Option Cmd
      | .unload c j => if j = k then some c else none
      | _ => none
    let cmds := s.jobs.filterMap mine
    replyAll cmds stOk { s with jobs := s.jobs.filter fun j => (mine j).isNone }

/-- Take back an armed lode's references when it is DONE or HALTED with nothing in flight (R433), and answer HALT_LODE; a
lode of a plan that an UNLOAD_PLAN names is freed (R402). -/
def lodeSettle (l : Nat) (s : State) : State :=
  let x := lodeOf s l
  if x.inflight ≠ [] then s
  else
    let s := if x.plan = none ∧ x.st = .halted then dropRefs l s
      else if x.plan = none ∧ x.st = .done ∧ x.held then refLode x.desc false (modLode l (fun x => { x with held := false }) s)
      else s
    let st := if x.code = 0x0301 ∨ x.code = 0x0302 then x.code else stOk
    let s := replyAll x.haltCmd st (modLode l (fun x => { x with haltCmd := [] }) s)
    match x.plan with
    | some k => if (planOf s k).all (·.unloading) then unloadReplies k (lodeFree l s) else s
    | none => s

/-- A read transfer's rows are written to the fen, but those that a reset discarded on their way (R577), and their slots become
FULL; at a fen whose buffers are off they are dropped and the lode ends (R566). -/
def finishRead (l p : Nat) (b : BufId) (d : BitVec 512) (t : Xfer) (ret : XferReturn) (s : State) : State :=
  let q : List LineRead × State := match t.tier with
    | some tier => readLines d t tier ret s
    | none => ([], s)
  let asked (f : Nat → Bool) : Bool := match t.tier with
    | some tier => askedTier t tier ret q.1 q.2 f
    | none => false
  let late := decide (0 < ret.lateFk) && (lodeOf s l).plan.isSome && asked fun _ => true
  let r := readRows t ret q.1 t.rows.zipIdx q.2
  let s := r.2
  let s := match t.tier with
    | some .a => if late then logAdd lkTierLate 0x200 [0, l, ret.lateFk] (bump 0x6048 1 s) else s
    | some .b => if late then logAdd lkTierLate 0x200 [1, l, ret.lateFk] (bump 0x604C 1 s) else s
    | _ => s
  let s := if asked fun k => ret.badRows.contains k then bump 0x6050 1 s else s
  let off := bufsOff (fenOf s p)
  let rows := (r.1.zipIdx.filter fun w => !t.flushed.contains w.2).map (·.1)
  let s := rows.foldl (fun s w => arriveRow p b w.1 w.2.1 w.2.2 s) s
  let s := spend p (384 * rows.length) (spendRows p rows.length s)
  let marks := scaleMired d rows
  let mired := ((rows.filter (·.2.2)).map (·.1) ++ marks).eraseDups
  let s := lodeMired l mired.length s
  if off then modLode l (fun x => { x with st := .ended, code := 0x0301 }) s
  else t.lastOfSlot.foldl (fun s k => setTag p b k true s.ck s) (if marks = [] then s else markRows p b marks s)

/-- LODE_TRANSFER_COMPLETE (R398): the oldest transfer in flight of a lode completes. -/
def execLodeTransferComplete (l : Fin 1024) (ret : XferReturn) (s : State) : Host.Outcome State Fault Refusal :=
  let x := lodeOf s l.val
  match x.inflight, lodePfen s x, ldBuf x.desc with
  | t :: rest, some p, some b =>
    if !s.plant.tierUp || s.plant.tierResetUntil.isSome || (fenOf s p).resetUntil.isSome then .next s
    else
      let s := settle p s
      let s := modLode l.val (fun x => { x with inflight := rest, done := if t.gen = x.gen then x.done + 1 else x.done }) s
      let s := if ldRead x.desc then finishRead l.val p b x.desc t ret s else s
      let s := if bufsOff (fenOf s p) then s else countTransfer p (ldGroup x.desc) s.ck t.gen s
      .next (lodeSettle l.val s)
  | _, _, _ => .next s

/-! ## Generations (R399, R400) -/

/-- A pending generation step takes place once no transfer of the generation before the current one is in flight. -/
def lodeStepOne (l : Nat) (s : State) : State :=
  let x := lodeOf s l
  if x.stepWait = 0 ∨ x.inflight.any (fun t => decide (t.gen = x.gen - 1)) then s
  else
    let left := (x.inflight.filter fun t => decide (t.gen = x.gen)).length
    let s := modLode l (fun x => { x with gen := x.gen + 1, stepWait := x.stepWait - 1, baseStep := false, done := 0,
                                          st := if x.st = .blocked then .running else x.st }) s
    match lodePfen s x with
    | some p => counterStep p (ldGroup x.desc) s.ck x.gen left s
    | none => s

/-- The pending generation steps of a lode, as far as its transfers in flight allow (R400). -/
def lodeStep (l : Nat) (s : State) : State := (List.range (lodeOf s l).stepWait).foldl (fun s _ => lodeStepOne l s) s

/-- LODE_GEN_STEP (R400): a lode steps to its next generation. -/
def execLodeGenStep (l : Fin 1024) (s : State) : Host.Outcome State Fault Refusal :=
  if tierWorks s then .next (lodeStep l.val s) else .next s

/-- The slot that an ended base leaves open is complete: with the last transfer in flight into it, or now (R384, R396). -/
def closeSlot (l : Nat) (s : State) : State :=
  let x := lodeOf s l
  match openSlot x, lodePfen s x, ldBuf x.desc with
  | some k, some p, some b =>
    if ldRead x.desc then
      let mine := fun (t : Xfer) => t.rows.any fun r => decide (r.1 / 32 = k)
      match x.inflight.reverse.find? mine with
      | some t => modLode l (fun x => { x with inflight := x.inflight.map fun y =>
          if y = t then { y with lastOfSlot := y.lastOfSlot ++ [k] } else y }) s
      | none => if bufsOff (fenOf s p) then s else setTag p b k true s.ck s
    else if ldRelease x.desc then setTag p b k false s.ck s else s
  | _, _, _ => s

/-- The generation steps that a lode has before it once its bases start again: one more, in place of a step to the next base that
still waits (R399, R402). -/
def stepsNow (x : Lode) : Nat := if x.baseStep then 1 else x.stepWait + 1

/-- Start a lode's bases again from base 0, under a generation step (R401, R402); the segment start of a persistent lode gives
it its GS (R399). -/
def lodeRestart (l : Nat) (s : State) : State :=
  modLode l (fun x => { x with
    base := 0, next := 0, done := 0, placed := false, stepWait := stepsNow x, baseStep := false, st := .armed
    gs := if ldPersist x.desc then x.gen + BitVec.ofNat 16 (stepsNow x) else x.gs }) (closeSlot l s)

/-- A lode at a segment start (R396, R399, R401, R402): one of PERSIST = 1 restarts, with the bases that a REARM_LODE
left for it, and takes again the references that it gave up when it was DONE (log entry 52); one armed or loaded before runs
from now on. -/
def lodeSegStart (l : Nat) (s : State) : State :=
  let x := lodeOf s l
  if x.st = .free ∨ (x.newBases = none ∧ (x.st = .halted ∨ x.st = .ended)) then s
  else if ldPersist x.desc then
    let s := lodeRestart l s
    let s := match x.newBases with
      | none => if x.held then s else modLode l (fun x => { x with held := true }) (refLode x.desc true s)
      | some (b, n, tiers) =>
        let d := withBases x.desc n b
        let s := if x.held then refLode x.desc false s else s
        modLode l (fun x => { x with desc := d, tiers := tiers, newBases := none, held := true }) s
    lodeStep l (modLode l (fun x => { x with segRun := true }) s)
  else modLode l (fun x => { x with segRun := true }) s

/-! ## Status (Tables 10-11 to 10-14) -/

/-- The value of a lode state. -/
def lodeStCode : LodeSt → Nat
  | .free => 0
  | .armed => 1
  | .running => 2
  | .blocked => 3
  | .done => 4
  | .halted => 5
  | .ended => 6

/-- The state that a lode's status shows (Table 10-12): one allowed by START whose generation step waits for transfers in
flight is BLOCKED (R400). -/
def lodeShown (s : State) (x : Lode) : LodeSt :=
  if decide (x.stepWait ≠ 0) && decide (x.st = .armed ∨ x.st = .running) && (x.segRun || (decide (x.plan = none) && !ldPersist x.desc))
      && decide (fkUp (s.tempo.startTime + 2 * ldStart x.desc) ≤ s.now) && x.inflight.any (fun t => decide (t.gen = x.gen - 1))
  then .blocked else x.st

/-- The status of a lode; all zero while PD_TIER is off (R589). -/
def lodeStatus (s : State) (l : Nat) : BitVec 128 :=
  let x := lodeOf s l
  if !s.plant.tierUp then 0
  else BitVec.ofNat 128 (lodeStCode (lodeShown s x) + x.base % 4 * 2 ^ 3 + x.gen.toNat * 2 ^ 16 + x.done % 2 ^ 22 * 2 ^ 32
    + x.inflight.length % 16 * 2 ^ 54 + x.miredRows * 2 ^ 64 + x.code.toNat * 2 ^ 96)

/-- LODE_STAT_SAMPLE (R416): a read of LODE_STAT0 samples the four status words of the lode that LODE_SEL names. -/
def execLodeStatSample (s : State) : Host.Outcome State Fault Refusal :=
  let v := lodeStatus s (regBits s 0x6000 9 0)
  let words := (List.range 4).map fun k => (v >>> (32 * k)).setWidth 32
  .next (emit (.readValue 0x6004 (words.headD 0)) { s with lodeSample := words })

end Sys2Proof.Machine
end

