-- ==== Sys2Proof/Machine/FenPower.lean ====
section
/-!
DEFINITION. A fen's reset and its power states (R333, R392, R545, R560 to R566, Table 15-7).
-/

namespace Sys2Proof.Machine

/-! ## Fen reset -/

/-- Events of FEN_STALE in the order of R545 (log entry 26). -/
def staleBlockReset : Nat := 0
def staleFenReset : Nat := 1
def stalePowerUp : Nat := 2
def staleRetention : Nat := 3
def staleRetire : Nat := 4

/-- A pfen becomes stale (R545). -/
def makeStale (p event : Nat) (s : State) : State :=
  logAdd lkFenStale p [p, event] (modFen p (fun f => { f with life := { f.life with stale := true, restored := false } }) s)

/-- Offsets in a fen window that a fen reset keeps in the register file (Table 16-4). -/
def fenKept : List Nat := [0x300, 0x304, 0x308, 0x30C, 0x41C, 0x700]

/-- The registers of a fen window return to their reset values, but for those kept; the heron goes on counting (R524). -/
def resetFenRegs (p : Nat) (s : State) : State :=
  let s := heronForget (fun o => if fenWin p 0 ≤ o ∧ o < fenWin p 0x1000 then (reg s o).toNat else 0) s
  { s with regs := s.regs.filter fun e =>
      !(decide (fenWin p 0 ≤ e.1) && decide (e.1 < fenWin p 0x1000)) || fenKept.contains (e.1 % 0x1000) }

/-- A buffer after a fen reset: data kept, tags EMPTY. -/
def bufReset (x : Buffer) : Buffer := { rows := x.rows, mire := x.mire, err := x.err }

/-- An arrival counter after a fen reset (R392). -/
def ctrReset (x : Counter) : Counter := { gen := x.gen, seenGen := x.gen }

/-- A fen after a fen reset, its tiles aside: what R333, R392 and Table 15-7 return to zero, and the generators seeded.
`id` numbers the undefined planes. -/
def fenCleared (f : Fen) (seed : Word) (id : Nat) : Fen :=
  { tiles := f.tiles, bufW := bufReset f.bufW, bufA := bufReset f.bufA, bufP := bufReset f.bufP,
    counters := mapVals {} ctrReset f.counters, img := { f.img with routeRow := [], scrub := 0 }, seed := seed, net := f.net,
    deliveries := f.deliveries, flits := f.flits, droops := f.droops, pwr := f.pwr, life := { f.life with retentionFault := false },
    arrays := (List.range 4).map fun a => (a, { front := { id := id + 2 * a }, back := { id := id + 2 * a + 1 } }) }

/-- The fen-reset values of every register, tag and counter of a pfen (R563, Table 15-7). -/
def fenClear (p : Nat) (s : State) : State :=
  let s := resetFenRegs p s
  { putFen p (fenCleared (fenOf s p) (fenReg s p 0x41C) s.free) s with free := s.free + 8 }

/-- Every tile of a fen INVALID, its status otherwise clear (R140, Table 4-14). -/
def tilesInvalid (p : Nat) (s : State) : State :=
  modFen p (fun f => { f with tiles := mapVals {} (fun t => { t with mire := false, invalid := true, frozen := false }) f.tiles }) s

/-- A whole fen reset, once its 256 CK have passed. -/
def fenReset (p : Nat) (s : State) : State := tilesInvalid p (fenClear p (dropFetched p none s))

/-- A lode's transfers in flight as the reset of the fen that they go to begins: rows in the fill bus's crossing are discarded
(R577). -/
def flushLode (s : State) (l : Nat) (x : Lode) : Lode :=
  { x with inflight := x.inflight.zipIdx.map fun t =>
      { t.1 with flushed := t.1.flushed ++ inCrossings s (4096 * l + 64 * t.2) t.1.rows.length } }

/-- Rows that resets have discarded of a lode's transfers in flight. -/
def flushedRows (x : Lode) : Nat := (x.inflight.map fun t => t.flushed.length).sum

/-- The FIFO crossings of a pfen, its fill buses and its light path, as its reset begins (R577); a select-slot write on its way is
dropped with the pulse that carries it. -/
def fenCrossings (p : Nat) (s : State) : State :=
  let mine := s.lodes.filter fun l => decide (lodePfen s l.2 = some p) && ldRead l.2.desc
  let f := fenOf s p
  let gone := inCrossings s (2 ^ 23) f.flits.length
  let sel := inCrossings s (2 ^ 24) s.selPending.length
  let n := (mine.map fun l => flushedRows (flushLode s l.1 l.2) - flushedRows l.2).sum + gone.length
  let t := mine.foldl (fun t l => modLode l.1 (flushLode s l.1) t) s
  let t := { t with selPending := (t.selPending.zipIdx.filter fun x =>
    !(decide (pfenOf s x.1.2 = some p) && sel.contains x.2)).map (·.1) }
  xingFlush n (modFen p (fun f => { f with flits := (f.flits.zipIdx.filter fun x => !gone.contains x.2).map (·.1) }) t)

/-- RST_FEN_WRITE (R579): a fen reset begins, or restarts; nothing issues until it ends. A fen in RETAIN or OFF is not reset
(R609). -/
def execRstFenWrite (v : Word) (s : State) : Host.Outcome State Fault Refusal :=
  let p := bitsOf v 6 0
  if 72 ≤ p ∨ (fenOf s p).pwr.st = .retain ∨ (fenOf s p).pwr.st = .off then .next (logReserved 0xC008 v s)
  else .next (makeStale p staleFenReset (modFen p (fun f =>
    { f with resetUntil := some (s.ck + 256), pend := [], loads := [], sends := [], seq := {} }) (fenCrossings p s)))

/-- FEN_RESET_END: 256 CK after its start a fen reset is complete. -/
def execFenResetEnd (p : Fin 72) (s : State) : Host.Outcome State Fault Refusal :=
  match (fenOf s p.val).resetUntil with
  | none => .next s
  | some t => .next (fenReset p.val (advanceCk t s))

/-! ## Power transitions (Table 15-3, R561 to R566) -/

/-- Rows and instruction memory come up at a wake (R563): zero, but mired where a record names a row, or everywhere when
a record was lost. -/
def wakeMemory (p : Nat) (s : State) : State :=
  modFen p (fun f =>
    let mired (b : BufId) : SMap Bool :=
      if f.pwr.lost then (List.range (32 * bufSlots b)).map fun r => (r, true)
      else f.pwr.records.foldl (fun m r => if r.1 = b then mapPut false m r.2 true else m) []
    let pw := { f.pwr with records := [], lost := false }
    { f with bufW := { mire := mired .w }, bufA := { mire := mired .a }, bufP := { mire := mired .p }, img := {}, pwr := pw }) s

/-- The state file after power-up from OFF: its entries are undefined until a load, and every tile is INVALID (log
entry 5). -/
def wakeTiles (p : Nat) (s : State) : State := modFen p (fun f => { f with tiles := [] }) s

/-- A pfen reaches ON or IDLE from RETAIN or OFF, or RETAIN from OFF (R563, R545; log entry 128). -/
def wakeFen (p : Nat) (from_ : PwrSt) (retentionFault : Bool) (s : State) : State :=
  match from_ with
  | .off => makeStale p stalePowerUp (fenClear p (wakeTiles p (wakeMemory p s)))
  | .retain =>
    let s := fenClear p (wakeMemory p s)
    if retentionFault then
      makeStale p staleRetention (modFen p (fun f => { f with life := { f.life with retentionFault := true } }) s)
    else s
  | _ => s

/-- Where a transition begins: with the fence on the way to RETAIN or OFF, otherwise with the ramp. -/
def firstPhase (st target : PwrSt) : PwrPhase :=
  if target = .off ∨ (target = .retain ∧ (st = .on ∨ st = .idle)) then .fenced else .ramping

/-- Begin a power request; one for the present state is done at once. -/
def pwrBegin (p : Nat) (j : PwrJob) (s : State) : State :=
  let f := fenOf s p
  if f.pwr.st = j.target then
    match j.cmd with
    | some c => reply c stOk s
    | none => s
  else putFen p { f with pwr := { f.pwr with job := some j, phase := firstPhase f.pwr.st j.target, since := s.now } } s

/-- A power request: it begins, or waits for the transition in progress (R562). -/
def pwrRequest (p : Nat) (j : PwrJob) (s : State) : State :=
  if (fenOf s p).pwr.job.isSome then modFen p (fun f => { f with pwr := { f.pwr with queue := f.pwr.queue ++ [j] } }) s
  else pwrBegin p j s

/-- Begin the requests that wait, up to the first that needs a transition. -/
def pwrNext (p : Nat) : List PwrJob → State → State
  | [], s => s
  | j :: l, s =>
    let s := pwrBegin p j (modFen p (fun f => { f with pwr := { f.pwr with queue := l } }) s)
    if (fenOf s p).pwr.job.isSome then s else pwrNext p l s

/-- Whether a lode transfer into a fen is in flight (R565). -/
def lodesInto (s : State) (p : Nat) : Bool :=
  s.lodes.any fun l => ldRead l.2.desc && decide (l.2.inflight ≠ []) && decide (lodePfen s l.2 = some p)

/-- FEN_FENCE_END (R565): 256 CK after the fence began, the fen drains. -/
def execFenFenceEnd (p : Fin 72) (s : State) : Host.Outcome State Fault Refusal :=
  let f := fenOf s p.val
  if f.pwr.phase ≠ .fenced then .next s
  else
    let s := advanceTo (f.pwr.since + 256 * unitsCk) s
    .next (modFen p.val (fun f => { f with pwr := { f.pwr with phase := .draining, since := s.now } }) s)

/-- FEN_DRAIN_END (R565): the buffers go off once no lode transfer into the fen is in flight, or after 4 µs. -/
def execFenDrainEnd (p : Fin 72) (s : State) : Host.Outcome State Fault Refusal :=
  let f := fenOf s p.val
  if f.pwr.phase ≠ .draining then .next s
  else
    let s := if lodesInto s p.val then advanceTo (f.pwr.since + 4 * unitsUs) s else s
    let s := settle p.val s
    .next (modFen p.val (fun f => { f with pwr := { f.pwr with phase := .ramping, since := s.now } }) s)

/-- A transition's end: the pfen is in its target state, with the actions of a wake; the next request begins. A fen that goes
from OFF to RETAIN has been powered up, with the actions of OFF to ON (DESIGN CHOICE, log entry 128). -/
def pwrDone (p : Nat) (j : PwrJob) (retentionFault : Bool) (s : State) : State :=
  let from_ := (fenOf s p).pwr.st
  let s := modFen p (fun f => { f with pwr := { f.pwr with st := j.target, job := none, phase := .none, since := s.now } }) s
  let s := if j.target = .on ∨ j.target = .idle ∨ (from_ = .off ∧ j.target = .retain) then wakeFen p from_ retentionFault s else s
  let s := match j.cmd with
    | some c => reply c stOk s
    | none => s
  pwrNext p (fenOf s p).pwr.queue s

/-- FEN_POWER_TRANSITION_DONE (R561). -/
def execFenPowerTransitionDone (p : Fin 72) (retentionFault : Bool) (s : State) : Host.Outcome State Fault Refusal :=
  let f := fenOf s p.val
  match f.pwr.job with
  | none => .next s
  | some j => if f.pwr.phase = .ramping then .next (pwrDone p.val j retentionFault s) else .next s

/-- Whether a pfen belongs to a loaded plan. -/
def fenPlanned (s : State) (p : Nat) : Bool :=
  match logicalOf s p with
  | none => false
  | some n => (plansOf s).any fun x => x.2.fens.getLsbD n

/-- A power state's value in FEN_POWER and Table 15-2. -/
def pwrOfCode : Nat → Option PwrSt
  | 0 => some .on
  | 1 => some .idle
  | 2 => some .retain
  | 3 => some .off
  | _ => none

/-- FEN_POWER (R562). -/
def execFenPower (q : Fin 16) (p : Packet) (s : State) : Host.Outcome State Fault Refusal :=
  .next (acceptCmd 0x3A q.val p (fun c t s =>
    let ph := match t with
      | .pfen k => some k
      | .fen n => pfenOf s n
      | .block => none
    match ph, pwrOfCode (par p 0 1) with
    | some k, some st =>
      let f := fenOf s k
      let frozen := f.tiles.any (·.2.frozen)
      let moving := s.ports.any fun x => decide (x.pfen = k)
      if (st ≠ .on ∧ fenPlanned s k) ∨ ((st = .retain ∨ st = .off) ∧ (frozen ∨ moving)) ∨ (f.life.retired ∧ st ≠ .off) then
        reply c stRefusedConfig s
      else pwrRequest k ⟨st, some c⟩ s
    | _, _ => reply c stRefusedConfig s) s)

end Sys2Proof.Machine
end

