-- ==== Sys2Proof/Machine/Message.lean ====
section
/-!
DEFINITION. Messages (R472, R473): their DATA frames, made for SENDs on REMOTE routes and for the tile images of a remote
STATE_MOVE.
-/

namespace Sys2Proof.Machine

/-- Frame types (Table 12-3). -/
def frData : Nat := 1
def frCarry : Nat := 2
def frTempo : Nat := 3
def frHold : Nat := 4
def frDigest : Nat := 5
def frCtrl : Nat := 6

/-- Blocks of the ring. -/
def ringBlocks (s : State) : Nat := s.ringSize.toNat + 1

/-- The position of the block at a link's far end (R473, Table 12-9). -/
def partnerPos (s : State) (c : Nat) : Nat :=
  let n := ringBlocks s
  let p := s.ringPos.toNat
  if c = 0 then (p + n - 1) % n else if c = 1 then (p + 1) % n else p

/-- The destination fields of a message's DATA frames (Table 12-4). -/
structure MsgDest where
  pos : Nat
  fen : Nat
  buf : Nat
  slot : Nat
  row : Nat
  group : Nat
  deriving DecidableEq, Repr

/-- TS of fragment `f` of a message of `n` rows, with the mire bits of its rows. -/
def dataTs (d : MsgDest) (msg f n : Nat) (m0 m1 : Bool) : BitVec 64 :=
  BitVec.ofNat 64 (d.pos % 64 + d.fen % 64 * 2 ^ 6 + d.buf % 4 * 2 ^ 12 + d.slot % 512 * 2 ^ 14 + d.row % 32 * 2 ^ 23
    + d.group % 256 * 2 ^ 28 + f % 256 * 2 ^ 36 + (((n + 1) / 2 - 1) % 256) * 2 ^ 44 + msg % 512 * 2 ^ 52 + n % 2 * 2 ^ 61
    + (if m0 then 2 ^ 62 else 0) + (if m1 then 2 ^ 63 else 0))

/-- The destination of a tile image (BUF = 3): stream ID and tile index (R478). -/
def moveDest (pos sid tile : Nat) : MsgDest :=
  { pos := pos, fen := sid % 64, buf := 3, slot := sid / 64 % 512, row := sid / 2 ^ 15 % 2 + tile / 256 % 8 * 4,
    group := tile % 256 }

/-- The frames of a message. -/
def msgFrames (d : MsgDest) (msg : Nat) (rows : List (Row × Bool)) : List TxFrame :=
  (List.range ((rows.length + 1) / 2)).map fun f =>
    let a := rows.getD (2 * f) (0, false)
    let b := rows.getD (2 * f + 1) (0, false)
    { kind := frData, ts := dataTs d msg f rows.length a.2 b.2, payload := b.1 ++ a.1 }

/-- Whether a link's gateway keeps what is to be sent (R462, R466). -/
def linkKeeps (x : Causeway) : Bool := decide (x.st = .up ∨ x.st = .retraining)

/-- A message joins the gateway of causeway `c`; on a link that is not UP its fragments are lost (R466, R477). -/
def sendMessage (c : Nat) (d : MsgDest) (rows : List (Row × Bool)) (s : State) : State :=
  if linkKeeps (cwOf s c) then
    modCw c (fun x => { x with tx := x.tx ++ msgFrames d x.nextMsg rows, nextMsg := (x.nextMsg + 1) % 512 }) s
  else bump (cwWin c 0x058) 1 s

/-! ## CRC-32 (Table 12-1) -/

/-- The CRC-32 register of IEEE 802.3, reflected, after `n` more bits of `d`, least significant first. -/
def crcBits : Nat → Nat → Nat → Nat
  | 0, _, r => r
  | n + 1, d, r => crcBits n (d / 2) (if (d + r) % 2 = 1 then r / 2 ^^^ 0xEDB88320 else r / 2)

/-- The CRC-32 of a frame's bytes 0 to 267 (R454). -/
def frameCrc (hdr : BitVec 96) (payload : BitVec 2048) : BitVec 32 :=
  BitVec.ofNat 32 (crcBits 2144 (hdr.toNat + payload.toNat * 2 ^ 96) 0xFFFFFFFF ^^^ 0xFFFFFFFF)

/-- A frame of a header and a payload, with its CRC. -/
def frameOf (hdr : BitVec 96) (payload : BitVec 2048) : Frame := { hdr := hdr, payload := payload, crc := frameCrc hdr payload }

/-- Whether a frame's CRC is good (R456). -/
def crcGood (f : Frame) : Bool := decide (f.crc = frameCrc f.hdr f.payload)

/-- A CTRL frame waits at a causeway (Table 12-5). -/
def sendCtrl (c subtype : Nat) (payload : BitVec 2048) (s : State) : State :=
  modCw c (fun x => { x with tx := x.tx ++ [{ kind := frCtrl, ts := BitVec.ofNat 64 subtype, payload := payload }] }) s

end Sys2Proof.Machine
end

