-- ==== Sys2Proof/Machine/Vector.lean ====
section
/-!
DEFINITION. The vector slot's elementwise, permuting, reducing and converting operations (chapter 07, Table 9-10),
SUMMARY, and the event by which they write their results.
-/

namespace Sys2Proof.Machine

/-! ## Issue of a vector operation -/

/-- The logical lane that a physical special-function lane serves as (R229); a bad lane, or one beyond the 64, serves as none. -/
def sfuLogical (repair : Word) (phys : Nat) : Option Nat :=
  (List.range 64).find? fun i => decide (physLane repair i = some phys)

/-- Whether a fault mires what element `e` of a destination holds: a failed vector lane (R284), and for the unit's results
a failed special-function lane (R256). -/
def laneBad (s : State) (p : Nat) (sfu : Bool) (e : Nat) : Bool :=
  let f := fenOf s p
  f.vecBad.contains e || (sfu && f.sfuBad.any fun ph => decide (sfuLogical (fenReg s p 0x700) ph = some (e % 64)))

/-- An operation's result on a tile register: elements of active lanes, and for each destination vector whether an active
lane takes an input from a mired vector (R263, R264). -/
def vregWr (s : State) (p : Nat) (sfu : Bool) (vd : Nat) (active : BitVec 256) (val : Nat → Word) (bad : Nat → Bool) : FenWr :=
  .vreg vd ((List.range 256).map fun e => if active.getLsbD e then some (val e) else none)
    ((List.range 8).map fun m => some ((List.range 32).any fun k =>
      active.getLsbD (32 * m + k) && (bad (32 * m + k) || laneBad s p sfu (32 * m + k))))

/-- Issue the result of a vector operation, seen from `lat` CK on. -/
def vecEmit (p : Nat) (h : VHead) (lat : Nat) (val : Nat → Word) (bad : Nat → Bool) (sat : Nat) (ev : NumEv) (s : State) :
    State :=
  let w := vregWr s p false h.vd.val (predOf (fenOf s p) h.pred.val) val bad
  addPend p ⟨s.ck + lat, issueSeq s slotVector, .vector, w⟩ (spend p 110 (fenBump p 0x808 sat (countEv p ev s)))

/-- Whether element `e` of some source register lies in a mired vector. -/
def srcMire (f : Fen) (srcs : List Nat) (e : Nat) : Bool := srcs.any fun r => vecMire f r (e / 32)

/-- The elements of active lanes. -/
def activeElems (active : BitVec 256) : List Nat := (List.range 256).filter fun e => active.getLsbD e

/-- An elementwise operation on source registers (R263 to R265). -/
def elemOp (p : Nat) (h : VHead) (lat : Nat) (srcs : List Nat) (op : Fen → Nat → Elt) (s : State) : State :=
  let f := fenOf s p
  let act := activeElems (predOf f h.pred.val)
  vecEmit p h lat (fun e => (op f e).val) (srcMire f srcs) ((act.map fun e => (op f e).f32Sat).sum)
    (evSum (act.map fun e => (op f e).ev)) s

/-- An elementwise operation of two registers. -/
def binOp (p : Nat) (h : VHead) (lat : Nat) (op : Word → Word → Elt) (s : State) : State :=
  elemOp p h lat [h.va.val, h.vb.val] (fun f e =>
    op (elemAt (tileReg f h.va.val) e) (elemAt (tileReg f h.vb.val) e)) s

/-- An elementwise operation of one register. -/
def unOp (p : Nat) (h : VHead) (lat : Nat) (op : Word → Elt) (s : State) : State :=
  elemOp p h lat [h.va.val] (fun f e => op (elemAt (tileReg f h.va.val) e)) s

/-- Issue in the vector slot. -/
def vIssue (p : Nat) (body : State → State) (s : State) : Host.Outcome State Fault Refusal :=
  .next (issueOp p slotVector body s)

/-! ## Logic, shift, integer, float and L32 -/

/-- VNOP. -/
def execVnop (p : Fin 72) (s : State) : Host.Outcome State Fault Refusal := vIssue p id s
/-- AND. -/
def execVAnd (p : Fin 72) (h : VHead) (s : State) : Host.Outcome State Fault Refusal :=
  vIssue p (binOp p h 2 fun a b => eltOf (a &&& b)) s
/-- OR. -/
def execVOr (p : Fin 72) (h : VHead) (s : State) : Host.Outcome State Fault Refusal :=
  vIssue p (binOp p h 2 fun a b => eltOf (a ||| b)) s
/-- XOR. -/
def execVXor (p : Fin 72) (h : VHead) (s : State) : Host.Outcome State Fault Refusal :=
  vIssue p (binOp p h 2 fun a b => eltOf (a ^^^ b)) s
/-- ANDN: VA AND NOT VB. -/
def execVAndn (p : Fin 72) (h : VHead) (s : State) : Host.Outcome State Fault Refusal :=
  vIssue p (binOp p h 2 fun a b => eltOf (a &&& ~~~b)) s
/-- NOT. -/
def execVNot (p : Fin 72) (h : VHead) (s : State) : Host.Outcome State Fault Refusal :=
  vIssue p (unOp p h 2 fun a => eltOf (~~~a)) s

/-- A shift by an immediate or by the low five bits of VB (R267). -/
def shiftOp (p : Nat) (h : VHead) (imm : Option (Fin 32)) (op : Word → Nat → Word) (s : State) : State :=
  match imm with
  | some n => unOp p h 2 (fun a => eltOf (op a n.val)) s
  | none => binOp p h 2 (fun a b => eltOf (op a (b.toNat % 32))) s

/-- SHL. -/
def execShl (p : Fin 72) (h : VHead) (imm : Option (Fin 32)) (s : State) : Host.Outcome State Fault Refusal :=
  vIssue p (shiftOp p h imm fun a n => a <<< n) s
/-- SHR. -/
def execShr (p : Fin 72) (h : VHead) (imm : Option (Fin 32)) (s : State) : Host.Outcome State Fault Refusal :=
  vIssue p (shiftOp p h imm fun a n => a >>> n) s
/-- SAR. -/
def execSar (p : Fin 72) (h : VHead) (imm : Option (Fin 32)) (s : State) : Host.Outcome State Fault Refusal :=
  vIssue p (shiftOp p h imm fun a n => a.sshiftRight n) s

/-- IADD. -/
def execIadd (p : Fin 72) (h : VHead) (w : IWid) (wrap : Bool) (s : State) : Host.Outcome State Fault Refusal :=
  vIssue p (binOp p h 2 fun a b => wrapInt wrap w (intAt w a + intAt w b)) s
/-- ISUB. -/
def execIsub (p : Fin 72) (h : VHead) (w : IWid) (wrap : Bool) (s : State) : Host.Outcome State Fault Refusal :=
  vIssue p (binOp p h 2 fun a b => wrapInt wrap w (intAt w a - intAt w b)) s
/-- IMIN. -/
def execImin (p : Fin 72) (h : VHead) (w : IWid) (s : State) : Host.Outcome State Fault Refusal :=
  vIssue p (binOp p h 2 fun a b => satInt w (min (intAt w a) (intAt w b))) s
/-- IMAX. -/
def execImax (p : Fin 72) (h : VHead) (w : IWid) (s : State) : Host.Outcome State Fault Refusal :=
  vIssue p (binOp p h 2 fun a b => satInt w (max (intAt w a) (intAt w b))) s
/-- IABS. -/
def execIabs (p : Fin 72) (h : VHead) (w : IWid) (s : State) : Host.Outcome State Fault Refusal :=
  vIssue p (unOp p h 2 fun a => satInt w (intAt w a).natAbs) s
/-- IMUL. -/
def execImul (p : Fin 72) (h : VHead) (w : IWid) (s : State) : Host.Outcome State Fault Refusal :=
  vIssue p (binOp p h 3 fun a b => satInt w (intAt w a * intAt w b)) s

/-- FADD. -/
def execFadd (p : Fin 72) (h : VHead) (zc : Bool) (s : State) : Host.Outcome State Fault Refusal :=
  vIssue p (binOp p h 4 fun a b => zclamp zc (fAdd a b)) s
/-- FSUB. -/
def execFsub (p : Fin 72) (h : VHead) (zc : Bool) (s : State) : Host.Outcome State Fault Refusal :=
  vIssue p (binOp p h 4 fun a b => zclamp zc (fSub a b)) s
/-- FMUL. -/
def execFmul (p : Fin 72) (h : VHead) (s : State) : Host.Outcome State Fault Refusal :=
  vIssue p (binOp p h 4 fMul) s
/-- FMIN. -/
def execFmin (p : Fin 72) (h : VHead) (s : State) : Host.Outcome State Fault Refusal :=
  vIssue p (binOp p h 4 fun a b => eltOf (fMin a b)) s
/-- FMAX. -/
def execFmax (p : Fin 72) (h : VHead) (s : State) : Host.Outcome State Fault Refusal :=
  vIssue p (binOp p h 4 fun a b => eltOf (fMax a b)) s
/-- FABS. -/
def execFabs (p : Fin 72) (h : VHead) (s : State) : Host.Outcome State Fault Refusal :=
  vIssue p (unOp p h 4 fun a => eltOf (fAbs a)) s
/-- FNEG. -/
def execFneg (p : Fin 72) (h : VHead) (s : State) : Host.Outcome State Fault Refusal :=
  vIssue p (unOp p h 4 fun a => eltOf (fNeg a)) s
/-- FMA: VA · VB + VC. -/
def execFma (p : Fin 72) (h : VHead) (vc : Fin 32) (zc : Bool) (s : State) : Host.Outcome State Fault Refusal :=
  vIssue p (elemOp p h 4 [h.va.val, h.vb.val, vc.val] fun f e =>
    zclamp zc (fFma (elemAt (tileReg f h.va.val) e) (elemAt (tileReg f h.vb.val) e) (elemAt (tileReg f vc.val) e))) s

/-- LCOMP. -/
def execLcomp (p : Fin 72) (h : VHead) (s : State) : Host.Outcome State Fault Refusal :=
  vIssue p (binOp p h 2 lComp) s
/-- LMIN. -/
def execLmin (p : Fin 72) (h : VHead) (s : State) : Host.Outcome State Fault Refusal :=
  vIssue p (binOp p h 2 fun a b => eltOf (tyMin .l32 a b)) s
/-- LMAX. -/
def execLmax (p : Fin 72) (h : VHead) (s : State) : Host.Outcome State Fault Refusal :=
  vIssue p (binOp p h 2 fun a b => eltOf (tyMax .l32 a b)) s

/-! ## Predicates -/

/-- A result on a predicate tile: lanes whose governing bit is 0 keep their bit (R263); a write to P0 writes nothing and
counts in VEC_HAZARD (R262). -/
def predEmit (p : Nat) (h : VHead) (lat : Nat) (bits : Fen → BitVec 256) (s : State) : State :=
  let f := fenOf s p
  let d := h.vd.val % 8
  let s := spend p 110 s
  if d = 0 then fenBump p 0x800 1 (addPend p ⟨s.ck + lat, issueSeq s slotVector, .vector, .done⟩ s)
  else addPend p ⟨s.ck + lat, issueSeq s slotVector, .vector, .preg d (bits f) (predOf f h.pred.val)⟩ s

/-- The predicate of a function of the element number. -/
def bitsFrom (g : Nat → Bool) : BitVec 256 :=
  (List.range 256).foldl (fun b e => if g e then b ||| (1#256 <<< e) else b) 0#256

/-- CMP. -/
def execCmp (p : Fin 72) (h : VHead) (cond : Cond) (ty : ETy) (s : State) : Host.Outcome State Fault Refusal :=
  vIssue p (predEmit p h 2 fun f => bitsFrom fun e =>
    cmpElt ty cond (elemAt (tileReg f h.va.val) e) (elemAt (tileReg f h.vb.val) e)) s
/-- PAND. -/
def execPand (p : Fin 72) (h : VHead) (s : State) : Host.Outcome State Fault Refusal :=
  vIssue p (predEmit p h 1 fun f => predOf f (h.va.val % 8) &&& predOf f (h.vb.val % 8)) s
/-- POR. -/
def execPor (p : Fin 72) (h : VHead) (s : State) : Host.Outcome State Fault Refusal :=
  vIssue p (predEmit p h 1 fun f => predOf f (h.va.val % 8) ||| predOf f (h.vb.val % 8)) s
/-- PXOR. -/
def execPxor (p : Fin 72) (h : VHead) (s : State) : Host.Outcome State Fault Refusal :=
  vIssue p (predEmit p h 1 fun f => predOf f (h.va.val % 8) ^^^ predOf f (h.vb.val % 8)) s
/-- PNOT. -/
def execPnot (p : Fin 72) (h : VHead) (s : State) : Host.Outcome State Fault Refusal :=
  vIssue p (predEmit p h 1 fun f => ~~~predOf f (h.va.val % 8)) s
/-- SEL. -/
def execSel (p : Fin 72) (h : VHead) (ps : Fin 8) (s : State) : Host.Outcome State Fault Refusal :=
  vIssue p (elemOp p h 2 [h.va.val, h.vb.val] fun f e =>
    eltOf (elemAt (tileReg f (if (predOf f ps.val).getLsbD e then h.va.val else h.vb.val)) e)) s

/-! ## Broadcast, permute, transpose -/

/-- An operation that copies elements of VA, the one register that Table 7-1 names as its input: element `e` takes source
element `src e`, and is mired with the vector that supplies it (R264). -/
def moveOp (p : Nat) (h : VHead) (lat : Nat) (src : Fen → Nat → Nat) (s : State) : State :=
  let f := fenOf s p
  vecEmit p h lat (fun e => elemAt (tileReg f h.va.val) (src f e)) (fun e => vecMire f h.va.val (src f e / 32)) 0 evNone s

/-- VBCAST: an element, a row, a column or a vector of VA copied to the whole register. -/
def execVbcast (p : Fin 72) (h : VHead) (kind : BcKind) (idx : Fin 256) (s : State) : Host.Outcome State Fault Refusal :=
  vIssue p (moveOp p h 2 (fun _ e => match kind with
    | .element => idx.val
    | .row => 16 * (idx.val % 16) + e % 16
    | .column => 16 * (e / 16) + idx.val % 16
    | .vector => 32 * (idx.val % 8) + e % 32)) s
/-- VPERM: vector n := the vector of VA that element 32n of VB selects. -/
def execVperm (p : Fin 72) (h : VHead) (s : State) : Host.Outcome State Fault Refusal :=
  vIssue p (moveOp p h 2 (fun f e =>
    32 * ((elemAt (tileReg f h.vb.val) (32 * (e / 32))).toNat % 8) + e % 32)) s
/-- TRN: d[r][c] := s[c][r]. -/
def execTrn (p : Fin 72) (h : VHead) (s : State) : Host.Outcome State Fault Refusal :=
  vIssue p (moveOp p h 3 (fun _ e => 16 * (e % 16) + e / 16)) s

/-! ## Reductions and prefixes -/

/-- The groups of an extent: the elements of each row, of each column, or of the tile, in position order. -/
def extentGroups : Extent → List (List Nat)
  | .rows => (List.range 16).map fun r => (List.range 16).map fun c => 16 * r + c
  | .columns => (List.range 16).map fun c => (List.range 16).map fun r => 16 * r + c
  | .tile => [List.range 256]

/-- Result CK of a reduction and of a prefix (Table 7-1). -/
def redLat : Extent → Nat
  | .rows => 5
  | .columns => 5
  | .tile => 7
/-- Result CK of a prefix. -/
def pfxLat : Extent → Nat
  | .rows => 5
  | .columns => 5
  | .tile => 9

/-- The elements of a group as a reduction takes them: inactive ones enter as the identity (R273). -/
def groupElems (f : Fen) (r : Nat) (active : BitVec 256) (op : ROp) (ty : ETy) (g : List Nat) : List Word :=
  g.map fun e => if active.getLsbD e then elemAt (tileReg f r) e else redIdent op ty

/-- Whether an active element of a group lies in a mired vector. -/
def groupMire (f : Fen) (r : Nat) (active : BitVec 256) (g : List Nat) : Bool :=
  g.any fun e => active.getLsbD e && vecMire f r (e / 32)

/-- A result and its mire for each element of a register. -/
abbrev ElemRes := List (Nat × Elt × Bool)

/-- Issue results given element by element. -/
def vecEmitList (p : Nat) (h : VHead) (lat : Nat) (l : ElemRes) (sat : Nat) (ev : NumEv) (s : State) : State :=
  let at' (e : Nat) : Elt × Bool := ((l.find? fun x => decide (x.1 = e)).map (·.2)).getD (eltOf 0#32, false)
  vecEmit p h lat (fun e => (at' e).1.val) (fun e => (at' e).2) sat ev s

/-- RED (R273): each group's result in every element of the group. -/
def redOp (p : Nat) (h : VHead) (op : ROp) (ext : Extent) (ty : ETy) (s : State) : State :=
  let f := fenOf s p
  let active := predOf f h.pred.val
  let res := (extentGroups ext).map fun g =>
    let live := g.any fun e => active.getLsbD e
    (g, reduceElems op ty live (groupElems f h.va.val active op ty g), groupMire f h.va.val active g)
  let l := res.flatMap fun r => r.1.map fun e => (e, r.2.1, r.2.2)
  vecEmitList p h (redLat ext) l ((res.map fun r => r.2.1.f32Sat).sum) (evSum (res.map fun r => r.2.1.ev)) s

/-- RED. -/
def execRed (p : Fin 72) (h : VHead) (op : ROp) (ext : Extent) (ty : ETy) (s : State) : Host.Outcome State Fault Refusal :=
  vIssue p (redOp p h op ext ty) s

/-- The part of a group up to position `k` from the last restart (R272): a mark restarts the prefix whether or not its
element is active. -/
def sincePrefix (marks : Nat → Bool) (g : List Nat) (k : Nat) : List Nat :=
  let l := g.take (k + 1)
  l.drop (((List.range l.length).filter fun i => marks (l.getD i 0)).getLastD 0)

/-- PFX (R271 to R273). The inputs of every element are the 16, 16 or 256 elements that Table 7-1 names: a mired vector that
holds an active one of them mires it (R264). -/
def pfxOp (p : Nat) (h : VHead) (op : ROp) (ext : Extent) (ty : ETy) (marks : Option (Fin 8)) (s : State) : State :=
  let f := fenOf s p
  let active := predOf f h.pred.val
  let mark (e : Nat) : Bool := match marks with
    | some m => (predOf f m.val).getLsbD e
    | none => false
  let res := (extentGroups ext).flatMap fun g => (List.range g.length).filterMap fun k =>
    let e := g.getD k 0
    if active.getLsbD e then
      let l := sincePrefix mark g k
      some (e, prefixElems op ty (groupElems f h.va.val active op ty l), groupMire f h.va.val active g)
    else none
  vecEmitList p h (pfxLat ext) res ((res.map fun r => r.2.1.f32Sat).sum) (evSum (res.map fun r => r.2.1.ev)) s

/-- PFX. -/
def execPfx (p : Fin 72) (h : VHead) (op : ROp) (ext : Extent) (ty : ETy) (marks : Option (Fin 8)) (s : State) :
    Host.Outcome State Fault Refusal :=
  vIssue p (pfxOp p h op ext ty marks) s

/-! ## Conversion -/

/-- The generator of a lane (R79). -/
def genOf (f : Fen) (i : Nat) : Word := (mapGet none f.gens i).getD (srSeed f.seed i)

/-- The draw of a lane for the element it converts under RND = 1 (R78): the low 16 bits after the advance. -/
def genDraw (f : Fen) (i : Nat) : Nat := (srAdvance (genOf f i)).toNat % 65536

/-- The generators after every lane has converted an element. -/
def gensAfter (f : Fen) : SMap (Option Word) :=
  mapPutRun none f.gens 0 ((List.range 256).map fun i => some (srAdvance (genOf f i)))

/-- Advance every generator where a descriptor has RND = 1, lanes whose predicate bit is 0 included (R78). -/
def advanceGens (p : Nat) (d : Cvt) (s : State) : State :=
  if d.stoch then modFen p (fun f => { f with gens := gensAfter f }) s else s

/-- A converted code as a tile register holds it (R260, R354): the F32 value of a narrower float, a narrower integer
sign-extended, the code itself at 32 bits. -/
def regCode (t : Fmt) (code : Nat) : Word :=
  match t with
  | .f32 => BitVec.ofNat 32 code
  | .i32 => BitVec.ofNat 32 code
  | .l32 => BitVec.ofNat 32 code
  | .i8 => BitVec.ofInt 32 (BitVec.ofNat 8 code).toInt
  | .i16 => BitVec.ofInt 32 (BitVec.ofNat 16 code).toInt
  | t => (roundF32 (decodeFmt t code)).1

/-- The value that CVT takes an element as (Table 9-10). -/
def cvtSource : CvtSrc → Word → Num
  | .f32, x => f32v x
  | .i32, x => numOfInt x.toInt
  | .l32, x => numOfL32 x

/-- CVT. -/
def cvtOp (p : Nat) (h : VHead) (d : Cvt) (src : CvtSrc) (s : State) : State :=
  let s' := elemOp p h 4 [h.va.val] (fun f e =>
    let r := convert d.target (if d.stoch then some (genDraw f e) else none) d.ovf (cvtSource src (elemAt (tileReg f h.va.val) e))
    { val := regCode d.target r.1, ev := r.2 }) s
  advanceGens p d s'

/-- CVT. -/
def execCvt (p : Fin 72) (h : VHead) (d : Cvt) (src : CvtSrc) (s : State) : Host.Outcome State Fault Refusal :=
  vIssue p (cvtOp p h d src) s

/-! ## SUMMARY -/

/-- Fields of a decision declaration (Table 7-2). -/
def decNumber (d : BitVec 256) : Nat := d.toNat / 2 ^ 233 % 64
/-- SOURCES. -/
def decSources (d : BitVec 256) : BitVec 64 := d.setWidth 64
/-- TARGETS. -/
def decTargets (d : BitVec 256) : BitVec 64 := (d >>> 64).setWidth 64
/-- T1 to T3. -/
def decThreshold (d : BitVec 256) (k : Nat) : Word := (d >>> (128 + 32 * k)).setWidth 32
/-- NTHRESH. -/
def decCount (d : BitVec 256) : Nat := d.toNat / 2 ^ 231 % 4
/-- SLOT. -/
def decSlot (d : BitVec 256) : Nat := d.toNat / 2 ^ 228 % 8
/-- TYPE. -/
def decType (d : BitVec 256) : ETy :=
  match d.toNat / 2 ^ 226 % 4 with
  | 1 => .f32
  | 2 => .l32
  | _ => .i32
/-- COMBINE. -/
def decCombine (d : BitVec 256) : SumOp :=
  match d.toNat / 2 ^ 224 % 4 with
  | 0 => .min
  | 1 => .max
  | 2 => .sum
  | _ => .or

/-- The decision that a fen's plan declares under a number. -/
def decisionOf (s : State) (p d : Nat) : Option (BitVec 256) :=
  (planOfFen s p).bind fun pl => pl.decisions.find? fun x => decide (decNumber x = d)

/-- The value that a SUMMARY posts over the active elements (R278). -/
def summaryValue (op : SumOp) (ty : ETy) (live : List Word) (all : List Nat) (elem : Nat → Word) (active : BitVec 256) : Elt :=
  let ident (o : ROp) : List Word := all.map fun e => if active.getLsbD e then elem e else redIdent o ty
  match op with
  | .min => reduceElems .min ty true (ident .min)
  | .max => reduceElems .max ty true (ident .max)
  | .or => eltOf (live.foldl (· ||| ·) 0#32)
  | .sum => match ty with
    | .f32 => reduceElems .sum .f32 (!live.isEmpty) (ident .sum)
    | .i32 => satInt .w32 ((live.map BitVec.toInt).sum)
    | .l32 => compAll live

/-- SUMMARY at its issue (R278, Table 7-3): the flit reaches the light path 8 CK later. -/
def summaryOp (p : Nat) (h : VHead) (d : Nat) (op : SumOp) (s : State) : State :=
  let f := fenOf s p
  let active := predOf f h.pred.val
  let act := activeElems active
  let elem (e : Nat) : Word := elemAt (tileReg f h.va.val) e
  let ty := ((decisionOf s p d).map decType).getD .i32
  let r := summaryValue op ty (act.map elem) (List.range 256) elem active
  let mire := act.any fun e => vecMire f h.va.val (e / 32)
  let s := spend p 110 (fenBump p 0x80C 1 (fenBump p 0x808 r.f32Sat (countEv p r.ev s)))
  modFen p (fun f => { f with flits := f.flits ++ [(s.ck + 8, d, r.val, s.tempo.count.setWidth 8, mire)] })
    (addPend p ⟨s.ck + 8, issueSeq s slotVector, .vector, .done⟩ s)

/-- SUMMARY. -/
def execSummary (p : Fin 72) (h : VHead) (decision : Fin 64) (op : SumOp) (s : State) : Host.Outcome State Fault Refusal :=
  vIssue p (summaryOp p h decision.val op) s

/-! ## Results and faults -/

/-- A pending result with the vectors mired that a failed lane of the vector engine writes (R284). -/
def vecTaint (lane : Nat) (w : FenWr) : FenWr :=
  match w with
  | .vreg r vals t => .vreg r vals (((List.range 8).zip t).map fun x =>
      if x.1 = lane / 32 ∧ (vals.getD lane none).isSome then x.2.map (fun _ => true) else x.2)
  | .rowPart b row fmt first codes mire (some (e, n, sfu)) =>
    .rowPart b row fmt first codes (mire || (decide (e ≤ lane) && decide (lane < e + n))) (some (e, n, sfu))
  | w => w

/-- A vector fault (R284): the lane mires what it writes until a fen reset, results on their way included. -/
def vectorFault (p : Nat) (x : VecFault) (s : State) : State :=
  let s := modFen p (fun f => { f with
    vecBad := if f.vecBad.contains x.lane.val then f.vecBad else f.vecBad ++ [x.lane.val]
    pend := f.pend.map fun w => { w with wr := vecTaint x.lane.val w.wr } }) s
  logAdd lkVectorFault p [x.lane.val, x.reg.val] s

/-- VECTOR_RESULT_WRITE (R265). -/
def execVectorResultWrite (p : Fin 72) (fault : Option VecFault) (s : State) : Host.Outcome State Fault Refusal :=
  .next (resultWrite p .vector (fun _ s => match fault with
    | none => s
    | some x => vectorFault p x s) s)

end Sys2Proof.Machine
end

