-- ==== Sys2Proof/Machine/Move.lean ====
section
/-!
DEFINITION. The move slot (R359 to R372): vector loads and stores, pointers, tags, SENDs and their injection, masks,
carries through the state port, and chain credits.
-/

namespace Sys2Proof.Machine

/-- Issue in the move slot. -/
def mIssue (p : Nat) (body : State → State) (s : State) : Host.Outcome State Fault Refusal :=
  .next (issueOp p slotMove body s)

/-- A pending write of the move slot, seen `lat` CK after issue. -/
def movePend (p lat : Nat) (w : FenWr) (s : State) : State := addPend p ⟨s.ck + lat, issueSeq s slotMove, .move, w⟩ s

/-- A pointer register. -/
def ptrOf (f : Fen) (i : Nat) : Ptr := mapGet {} f.pts i

/-- Advance a pointer by `n` rows (R360). -/
def ptrAdvance (p i n : Nat) (s : State) : State :=
  let x := ptrOf (fenOf s p) i
  movePend p 1 (.ptr i (ptrAt x.buf (ptrRow x + n))) s

/-! ## VLD and VST -/

/-- The register code of an element that VLD loads (R260, R361), and its counts. -/
def loadElem (fmt : Fmt) (code : Nat) : Word × NumEv :=
  match fmt with
  | .w40 => let r := convert .f32 none false (decodeFmt .w40 code); (BitVec.ofNat 32 r.1, r.2)
  | f => (regCode f code, evNone)

/-- The elements of a vector that a row's group fills (R361). -/
def loadGroup (fmt : Fmt) (g : Nat) (row : Row) : List (Option (Word × NumEv)) :=
  match fmt with
  | .w40 => (List.range 32).map fun i => if i / 16 = g then some (loadElem .w40 (rowElem .w40 row (i % 16))) else none
  | f => (List.range 32).map fun i => some (loadElem f (rowElem f row (32 * g + i)))

/-- VLD at its issue (R361): the row is read now; the vector is readable at CK 4. -/
def vldOp (p v m pt : Nat) (inc : Bool) (fmt : Fmt) (g : Nat) (s : State) : State :=
  if vecFmtOk fmt g then
    let f := fenOf s p
    let x := ptrOf f pt
    let r := rowRead (bufOf f x.buf) (ptrRow x)
    let l := loadGroup fmt g r.1
    let s := spendRows p 1 (touchRows p x.buf [ptrRow x] (noteUse p x.buf [ptrRow x] <| countEv p (evSum (l.filterMap fun e => e.map (·.2))) s))
    let s := movePend p 4 (.vec v m (l.map fun e => e.map (·.1)) r.2) s
    if inc then ptrAdvance p pt 1 s else s
  else s

/-- The code that VST stores for a register element (R361), and its counts. -/
def storeElem (fmt : Fmt) (x : Word) : Nat × NumEv :=
  match fmt with
  | .f32 => (x.toNat, evNone)
  | .i32 => (x.toNat, evNone)
  | .l32 => (x.toNat, evNone)
  | .i8 => let r := satInt .w8 x.toInt; (r.val.toNat % 256, r.ev)
  | .i16 => let r := satInt .w16 x.toInt; (r.val.toNat % 65536, r.ev)
  | f => convert f none false (f32v x)

/-- VST at its issue (R361, R362): the row is written in CK 2. -/
def vstOp (p v m pt : Nat) (inc : Bool) (fmt : Fmt) (g : Nat) (s : State) : State :=
  if vecFmtOk fmt g then
    let f := fenOf s p
    let x := ptrOf f pt
    let src := if fmt = .w40 then ((vecOf f v m).drop (16 * g)).take 16 else vecOf f v m
    let l := src.map (storeElem fmt)
    let first := if fmt = .w40 then 0 else 32 * g
    let s := spendRows p 1 (countEv p (evSum (l.map (·.2))) s)
    let s := movePend p 3 (.rowPart x.buf (ptrRow x) fmt first (l.map (·.1)) (vecMire f v m) none) s
    if inc then ptrAdvance p pt 1 s else s
  else s

/-! ## Chain links -/

/-- A chain link of a fen. -/
def linkOf (f : Fen) (i : Nat) : ChainLink := mapGet {} f.img.links i

/-- Change a fen's chain link. -/
def modLink (p i : Nat) (h : ChainLink → ChainLink) (s : State) : State :=
  modFen p (fun f => { f with img := { f.img with links := mapPut {} f.img.links i (h (linkOf f i)) } }) s

/-- A link's credit changed in the present CK, the count before it kept for the WAITs of this CK (R339). -/
def setCredit (p i v : Nat) (s : State) : State :=
  modLink p i (fun x => { x with credit := v, creditPrev := if x.creditAt = s.ck then x.creditPrev else x.credit,
                                 creditAt := s.ck }) s

/-- A SEND on a NEXT route takes a credit and moves the link on to the next slot (R368, R371). -/
def takeCredit (p i : Nat) (s : State) : State :=
  let x := linkOf (fenOf s p) i
  let s := modLink p i (fun x => { x with cur := if x.cur + 1 < x.nextK then x.cur + 1 else 0 }) s
  if x.credit = 0 then logAdd lkChainOverrun p [i] (fenBump p 0xA0C 1 s) else setCredit p i (x.credit - 1) s

/-- CHAIN_CREDIT_ARRIVAL (R369): a credit on its way is counted at the link of the previous stage. -/
def creditArrive (p i : Nat) (s : State) : State :=
  let due := (fenOf s p).pend.find? fun w => decide (w.wr = .credit i)
  let s' := if (fenOf s p).creditsOut.contains i then s
    else match due with
      | some w => if ckRuns s then settle p (advanceCk w.due s) else s
      | none => s
  let f := fenOf s' p
  let x := linkOf f i
  if f.creditsOut.contains i then
    let s' := putFen p { f with creditsOut := f.creditsOut.erase i } s'
    match x.hasPrev, pfenOf s' x.prevFen with
    | true, some q => setCredit q x.prevLink ((linkOf (fenOf s' q) x.prevLink).credit + 1) s'
    | _, _ => s'
  else s

/-! ## SEND -/

/-- Where a SEND on a route goes, its destination row as it stands now (R363, R368). -/
def sendDest (f : Fen) (route : Nat) (r : Route) : Option Dest :=
  let row := mapGet r.row f.img.routeRow route
  match r.kind with
  | 0 => some (.fen r.fen r.buf row r.group)
  | 1 => let x := linkOf f r.link
         if x.hasNext then some (.fen x.nextFen .a (32 * (x.nextFirst + x.cur)) x.nextCounter) else none
  | _ => some (.remote r.cw r.block r.fen r.buf row r.group)

/-- The route a SEND takes: on the link of a chain's last stage, the ordinary route that the declaration gives (R367). -/
def routeTaken (f : Fen) (r : Route) : Route :=
  let x := linkOf f r.link
  if r.kind = 1 ∧ !x.hasNext then (routeOf x.last).getD r else r

/-- SEND at its issue (R363, R364). The rows are read now (R386); the port queues it behind the SENDs before it. -/
def sendOp (p pt rows route : Nat) (s : State) : State :=
  let img := (fenOf s p).img
  useImage p (mapGet .ok img.routeErr route) (fun s =>
    let f := fenOf s p
    match routeOf (mapGet 0#64 img.routes route) with
    | none => s
    | some r =>
      let r := routeTaken f r
      if 8 ≤ f.sends.length then logAdd lkMoveHazard p [bundlePc s p] (fenBump p 0xA0C 1 s)
      else match sendDest f route r with
        | none => s
        | some dst =>
          let x := ptrOf f pt
          let at_ := (List.range rows).map fun k => bufWrap x.buf (ptrRow x + k)
          let data := at_.map (rowRead (bufOf f x.buf))
          let s := spendRows p rows (touchRows p x.buf at_ (noteUse p x.buf at_ s))
          let s := if r.kind = 1 then takeCredit p r.link s else s
          let next := bufWrap r.buf (mapGet r.row f.img.routeRow route + rows)
          let pos := if r.auto then mapPut r.row f.img.routeRow route next else f.img.routeRow
          let s := modFen p (fun f => { f with sends := f.sends ++ [⟨s.ck, none, rows, data, dst⟩],
                                               img := { f.img with routeRow := pos } }) s
          settleSends p (ptrAdvance p pt rows s)) s

/-- SEND_BEGIN (R364): time moves to the CK in which the SEND at the head of the port begins. -/
def sendBeginOp (p : Nat) (s : State) : State :=
  let f := fenOf s p
  match f.sends with
  | [] => s
  | x :: _ => if ckRuns s then settle p (advanceCk (max x.issued f.sendEnd) s) else s

/-! ## Carries through the state port (R196 to R205) -/

/-- Whether a tile belongs to a compensated binding of the fen's plan (R183, R201). -/
def tileComp (s : State) (p a d : Nat) : Bool :=
  match logicalOf s p, planOfFen s p with
  | some n, some pl => pl.bindings.any fun b => b.comp && (b.tiles ++ b.initTiles).contains (n, a, d)
  | _, _ => false

/-- The state port of an array is busy for 40 CK (R203). -/
def portBusy (p a : Nat) (s : State) : State :=
  modFen p (fun f => putArr f a { arrOf f a with portTo := max (arrOf f a).portTo (s.ck + 40) }) s

/-- The read of a whole tile through the port meets ECC in both fields (R137, R146, R199). -/
def portRead (p a d : Nat) (s : State) : State := tileTouch p a d true (fun _ => true) s

/-- CPUSH on one array (R197 to R199): the carry is complete in the leaf at CK 40. -/
def cpushOn (p depth base : Nat) (s : State) (a : Nat) : State :=
  let s := portRead p a depth (spend p (32 * 38) (portBusy p a (fenBump p 0x600 1 s)))
  let f := fenOf s p
  let t := tileOf f a depth
  let st := (List.range 1024).map fun e => (roundW40 (entryValue (entryOf t e))).1
  let lr := if f.ctx.abs then List.replicate 32 l32Cut else vecOf f f.ctx.vbase.val (2 * a)
  let lc := if f.ctx.abs then List.replicate 32 l32One else vecOf f f.ctx.vbase.val (2 * a + 1)
  putFen p { f with pushes := f.pushes ++ [⟨s.ck + 40, a, f.ctx.scan.val, base + a, f.ctx.ret, ⟨lr, lc, st, t.mire || t.invalid⟩⟩] } s

/-- CPUSH at its issue. -/
def cpushOp (p : Nat) (amask : BitVec 4) (depth base : Nat) (s : State) : State :=
  (arraysOf amask).foldl (cpushOn p depth base) s

/-- Deliveries waiting for an array. -/
def deliveriesOf (f : Fen) (a : Nat) : List Delivery := mapGet [] f.deliveries a

/-- CPULL on one array (R201, R205). -/
def cpullOn (p depth : Nat) (add : Bool) (vbase : Option (Fin 32)) (s : State) (a : Nat) : State :=
  let s := spend p (32 * 38) (portBusy p a (fenBump p 0x604 1 s))
  let f := fenOf s p
  match (deliveriesOf f a).head?.filter fun d => decide (d.since ≤ s.ck) with
  | none =>
    movePend p 40 (.pull (tileIx a depth) none add (tileComp s p a depth))
      (logAdd lkCarryHazard p [a] (fenBump p 0x608 1 s))
  | some d =>
    let s := putFen p { f with deliveries := mapPut [] f.deliveries a ((deliveriesOf f a).drop 1) } s
    let s := movePend p 40 (.pull (tileIx a depth) (some d.carry) add (tileComp s p a depth)) s
    match vbase with
    | none => s
    | some v => movePend p 40 (.vec v.val (2 * a + 1) (d.carry.lc.map some) d.carry.mired)
        (movePend p 40 (.vec v.val (2 * a) (d.carry.lr.map some) d.carry.mired) s)

/-- CPULL at its issue. -/
def cpullOp (p : Nat) (amask : BitVec 4) (depth : Nat) (add : Bool) (vbase : Option (Fin 32)) (s : State) : State :=
  (arraysOf amask).foldl (cpullOn p depth add vbase) s

/-! ## Meanings -/

/-- MNOP. -/
def execMnop (p : Fin 72) (s : State) : Host.Outcome State Fault Refusal := mIssue p id s
/-- VLD. -/
def execVld (p : Fin 72) (v : Fin 32) (m : Fin 8) (pt : Fin 16) (inc : Bool) (fmt : Fmt) (g : Fin 8) (s : State) :
    Host.Outcome State Fault Refusal := mIssue p (vldOp p v.val m.val pt.val inc fmt g.val) s
/-- VST. -/
def execVst (p : Fin 72) (v : Fin 32) (m : Fin 8) (pt : Fin 16) (inc : Bool) (fmt : Fmt) (g : Fin 8) (s : State) :
    Host.Outcome State Fault Refusal := mIssue p (vstOp p v.val m.val pt.val inc fmt g.val) s
/-- An operation on a slot: a slot number outside the buffer names nothing (R6). -/
def onSlot (b : BufId) (slot : Nat) (body : State → State) (s : State) : State := if slot < bufSlots b then body s else s

/-- PSET. -/
def execPset (p : Fin 72) (pt : Fin 16) (buf : BufId) (slot : Fin 512) (row : Fin 32) (s : State) :
    Host.Outcome State Fault Refusal :=
  mIssue p (onSlot buf slot.val (movePend p 1 (.ptr pt.val ⟨buf, slot.val, row.val⟩))) s
/-- TAG SET_FULL: changed in CK 1, visible to WAITs of CK 2 (Table 9-15). -/
def execTagSetFull (p : Fin 72) (buf : BufId) (slot : Fin 512) (s : State) : Host.Outcome State Fault Refusal :=
  mIssue p (onSlot buf slot.val (movePend p 2 (.tag buf slot.val true))) s
/-- TAG SET_EMPTY. -/
def execTagSetEmpty (p : Fin 72) (buf : BufId) (slot : Fin 512) (s : State) : Host.Outcome State Fault Refusal :=
  mIssue p (onSlot buf slot.val (movePend p 2 (.tag buf slot.val false))) s
/-- TAG RELEASE_CHAIN: the slot empties, and a credit is injected at CK 4 (R369). -/
def execTagReleaseChain (p : Fin 72) (buf : BufId) (slot : Fin 512) (link : Fin 4) (s : State) :
    Host.Outcome State Fault Refusal :=
  mIssue p (onSlot buf slot.val fun s => movePend p 4 (.credit link.val) (movePend p 2 (.tag buf slot.val false) s)) s
/-- SEND of `rows + 1` rows. -/
def execSend (p : Fin 72) (pt : Fin 16) (rows : Fin 32) (route : Fin 16) (s : State) : Host.Outcome State Fault Refusal :=
  mIssue p (sendOp p pt.val (rows.val + 1) route.val) s
/-- SEND_BEGIN. -/
def execSendBegin (p : Fin 72) (s : State) : Host.Outcome State Fault Refusal := .next (sendBeginOp p s)
/-- MASKLD: in force for array operations of CK 2 on; M0 is fixed (R122). -/
def execMaskld (p : Fin 72) (m rp cp : Fin 8) (s : State) : Host.Outcome State Fault Refusal :=
  mIssue p (fun s =>
    let f := fenOf s p
    movePend p 2 (.mask m.val ((predOf f rp.val).setWidth 32) ((predOf f cp.val).setWidth 32)) s) s
/-- CPUSH. -/
def execCpush (p : Fin 72) (amask : BitVec 4) (depth : Fin 128) (base : Fin 512) (s : State) :
    Host.Outcome State Fault Refusal := mIssue p (cpushOp p amask depth.val base.val) s
/-- CPULL. -/
def execCpull (p : Fin 72) (amask : BitVec 4) (depth : Fin 128) (add : Bool) (vbase : Option (Fin 32)) (s : State) :
    Host.Outcome State Fault Refusal := mIssue p (cpullOp p amask depth.val add vbase) s
/-- CSET. -/
def execCset (p : Fin 72) (scan : Fin 16) (vbase : Fin 32) (abs : Bool) (ret : RetKind) (s : State) :
    Host.Outcome State Fault Refusal := mIssue p (movePend p 1 (.ctx ⟨scan, vbase, abs, ret⟩)) s
/-- LCSET. -/
def execLcset (p : Fin 72) (level : Fin 4) (count : BitVec 16) (s : State) : Host.Outcome State Fault Refusal :=
  mIssue p (movePend p 1 (.lc level.val count)) s
/-- CHAIN_CREDIT_ARRIVAL: the credit that pfen `p` released on its link. -/
def execChainCreditArrival (p : Fin 72) (link : Fin 4) (s : State) : Host.Outcome State Fault Refusal :=
  .next (creditArrive p link.val s)

end Sys2Proof.Machine
end

