-- ==== Sys2Proof/Machine/Control.lean ====
section
/-!
DEFINITION. The control slot and the sequencer (R328 to R347, R373, R374): waits, loops, branches, the end of a segment,
the fetch of bundles ahead and the scrubbing of instruction memory.
-/

namespace Sys2Proof.Machine

/-! ## The program counter -/

/-- The address after a bundle that the loops in force give (R343), with the loops still running; innermost first. -/
def loopNext (pc : Nat) : List LoopFrame → Nat × List LoopFrame
  | [] => ((pc + 1) % 4096, [])
  | l :: ls =>
    if pc ≠ l.last then ((pc + 1) % 4096, l :: ls)
    else if l.left = 0 then loopNext pc ls
    else (l.first, { l with left := l.left - 1 } :: ls)

/-- Pass on from the bundle at the program counter to the one that follows it, or to `to`. -/
def passBundle (p : Nat) (tgt : Option Nat) (s : State) : State :=
  modFen p (fun f =>
    let n := loopNext f.seq.pc f.seq.loops
    { f with seq := { f.seq with passedPc := some (s.ck, f.seq.pc), pc := tgt.getD n.1,
                                 loops := if tgt.isSome then f.seq.loops else n.2,
                                 ahead := f.seq.ahead - 1, fetched := f.seq.fetched.filter fun a => decide (a ≠ f.seq.pc) } }) s

/-- Issue in the control slot. -/
def cIssue (p : Nat) (body : State → State) (s : State) : Host.Outcome State Fault Refusal :=
  .next (issueOp p slotControl body s)

/-! ## WAIT (R338 to R342, R391) -/

/-- The logical fen and arrival counter a lode feeds (Table 10-4). -/
def lodeFen (x : Lode) : Nat := x.desc.toNat / 2 ^ 12 % 64
/-- GROUP. -/
def lodeGroup (x : Lode) : Nat := x.desc.toNat / 2 ^ 37 % 256

/-- GS of the lode that feeds a fen's counter, or that fed it last (R391, R399). -/
def counterGs (s : State) (p g : Nat) : BitVec 16 :=
  match logicalOf s p with
  | none => 0
  | some n =>
    match s.lodes.find? fun l => decide (l.2.st ≠ .free) && decide (lodeFen l.2 = n) && decide (lodeGroup l.2 = g) with
    | some l => l.2.gs
    | none => ((s.lodes.find? fun l => decide (l.2.fed = some (n, g))).map (·.2.gs)).getD 0

/-- The entry of a counter that a WAIT tests, as seen in CK `k` (R339, R391): `none` when the generation has ended,
otherwise whether it is OLD, and the count, 0 for a generation that has not begun. -/
def counterTest (k : Nat) (gs : BitVec 16) (gen : Option (BitVec 16)) (x : Counter) : Option (Bool × Nat) :=
  let cur := if x.since < k then (x.gen, x.cnt, x.old) else (x.seenGen, x.seen, x.oldSeen)
  match gen with
  | none => some (false, cur.2.1)
  | some g =>
    let h := gs + g
    if h = cur.1 then some (false, cur.2.1)
    else if h = cur.1 - 1 then some (true, cur.2.2)
    else if (h - cur.1).toNat ≤ 0x7FFF then some (false, 0)
    else none

/-- Whether a condition holds for a WAIT in CK `k`. -/
def waitHolds (s : State) (p k : Nat) (w : WaitOn) : Bool :=
  let f := fenOf s p
  match w with
  | .tag b slot empty => tagSeen k (tagOf f b slot) != empty
  | .counter g n _ gen =>
    match counterTest k (counterGs s p g) gen (counterOf f g) with
    | none => true
    | some (_, c) =>
      match gen with
      | none => decide (n ≤ c)
      | some h => decide (n ≤ c) &&
          (let x := counterOf f g
           let cur := if x.since < k then x.gen else x.seenGen
           let h := counterGs s p g + h
           decide (h = cur ∨ h = cur - 1))
  | .select slot => let x := mapGet {} f.selects slot; x.variant.isSome && decide (x.since < k)
  | .carry a n => decide (n ≤ ((mapGet [] f.deliveries a).filter fun d => decide (d.since < k)).length)
  | .credit link n =>
    let x := mapGet {} f.img.links link
    decide (n ≤ if x.creditAt = k then x.creditPrev else x.credit)

/-- Take `n` from the entry of a counter that was tested, OLD or CUR as CK `k` began; a generation step of that CK has moved CUR to
OLD, and a tested OLD is gone (R340, R391). -/
def consumeFrom (k n : Nat) (old : Bool) (x : Counter) : Counter :=
  let moved := decide (x.since = k) && decide (x.gen ≠ x.seenGen)
  match old, moved with
  | false, false => { x with cnt := x.cnt - n }
  | false, true => { x with old := x.old - n }
  | true, false => { x with old := x.old - n }
  | true, true => x

/-- CONSUME: N leaves the entry that was tested (R340, R391). -/
def waitConsume (p : Nat) (w : WaitOn) (s : State) : State :=
  match w with
  | .counter g n true gen =>
    match counterTest s.ck (counterGs s p g) gen (counterOf (fenOf s p) g) with
    | some (old, _) => modCounter p g s.ck (consumeFrom s.ck n old) s
    | none => s
  | _ => s

/-- SEQ_STALL of a fen brought up to the present CK (Table 9-17); only the CKs of the present MK cycle are events of that cycle
(R12). -/
def countStall (p : Nat) (s : State) : State :=
  if (fenOf s p).seq.st = .waiting then
    let n := s.ck - (fenOf s p).seq.stallFrom
    let here := min n (s.now / unitsCk - unitsMk * mkCycle s / unitsCk)
    fenBump p 0xA08 here (setFenReg p 0xA08 (satCount (fenReg s p 0xA08) (n - here))
      (modFen p (fun f => { f with seq := { f.seq with stallFrom := s.ck } }) s))
  else s

/-- A WAIT passes in the present CK: SEQ_STALL takes the CK it was stalled (Table 9-17). -/
def waitPassNow (p : Nat) (w : WaitOn) (s : State) : State :=
  passBundle p none
    (modFen p (fun f => { f with seq := { f.seq with st := .running, sluiceOver := false } }) (waitConsume p w (countStall p s)))

/-- WAIT at its issue: it passes, or stalls the fen. -/
def waitOp (p desc : Nat) (s : State) : State :=
  let img := (fenOf s p).img
  useImage p (mapGet .ok img.waitErr desc) (fun s =>
    match waitOn (mapGet 0#128 img.waits desc) with
    | none => s
    | some w =>
      if waitHolds s p s.ck w then waitPassNow p w s
      else modFen p (fun f => { f with seq := { f.seq with st := .waiting, waitDesc := desc, waitFrom := s.ck,
                                                           stallFrom := s.ck, sluiceOver := false } }) s) s

/-- The descriptor a stalled fen waits on. -/
def waitingDesc (f : Fen) : BitVec 128 := mapGet 0#128 f.img.waits f.seq.waitDesc

/-- The fen's state in a CK in which it waits, ready to test its condition. -/
def waitAt (p k : Nat) (s : State) : State := settle p (advanceCk k s)

/-- A stalled WAIT passes in CK `k` if its condition holds then. -/
def tryPass (p k : Nat) (s : State) : Option State :=
  let t := waitAt p k s
  match waitOn (waitingDesc (fenOf t p)) with
  | none => none
  | some w => if waitHolds t p t.ck w then some (waitPassNow p w (markSlot p slotControl t)) else none

/-- Whether a fen is stalled at a WAIT and can go on. -/
def isWaiting (s : State) (p : Nat) : Bool := ckRuns s && fenIsOn (fenOf s p) && decide ((fenOf s p).seq.st = .waiting)

/-- The CK in which a condition may come to hold with nothing new arriving at the fen: the present one or the one after
the stall began, the next one, in which what changes now is first seen, and those in which the writes of the fen's own
operations and the later deliveries of a push are first seen (R339). -/
def passCks (s : State) (p : Nat) : List Nat :=
  let f := fenOf s p
  let k := max s.ck (f.seq.waitFrom + 1)
  let later : List Nat := f.pend.map (·.due + 1) ++ f.deliveries.flatMap fun a => a.2.map (·.since + 1)
  k :: (k + 1) :: later.filter fun j => decide (k < j)

/-- WAIT_PASS: in the first CK of `passCks` in which the condition holds; where there is none the fen stays stalled. -/
def waitPassOp (p : Nat) (s : State) : State :=
  if isWaiting s p then
    let best := (passCks s p).foldl (fun (b : Option Nat) k =>
      if (match b with | some j => decide (k < j) | none => true) && (tryPass p k s).isSome then some k else b) none
    match best with
    | some k => (tryPass p k s).getD s
    | none => s
  else s

/-- SLUICE_SLACK_EXPIRY (R308, R309): S CK have passed at a sluice and its condition does not hold. -/
def sluiceExpire (p : Nat) (s : State) : State :=
  let f := fenOf s p
  let d := waitingDesc f
  if isWaiting s p && waitSluice d && !f.seq.sluiceOver then
    let t := waitAt p (f.seq.waitFrom + waitField d 84 64) s
    match waitOn d with
    | none => s
    | some w =>
      if waitHolds t p t.ck w then s
      else orReg 0x1028 0x80#32 (bump 0x105C 1 (fenBump p 0x908 1
        (modFen p (fun f => { f with seq := { f.seq with sluiceOver := true } }) t)))
  else s

/-! ## Loops, branches, the end -/

/-- LOOP (R343): the body of `len + 1` bundles runs LC + 1 times. -/
def loopOp (p level len : Nat) (s : State) : State :=
  modFen p (fun f =>
    let a := f.seq.pc
    { f with seq := { f.seq with
      passedPc := some (s.ck, a), pc := (a + 1) % 4096, ahead := f.seq.ahead - 1,
      loops := ⟨level, a + 1, a + len + 1, (mapGet 0#16 f.lcs level).toNat⟩ :: f.seq.loops } }) s

/-- BRSEL (R345). A slot that holds no variant branches nowhere; LOAD_PLAN lets no program reach that (R346). -/
def brselOp (p slot : Nat) (s : State) : State :=
  let f := fenOf s p
  match (mapGet {} f.selects slot).variant with
  | none => s
  | some v => passBundle p (some (mapGet 0#12 f.img.variants (4 * slot + v.toNat)).toNat) s

/-- END at its issue (R332). -/
def endOp (p : Nat) (s : State) : State :=
  modFen p (fun f => { f with seq := { f.seq with endIssued := true, passedPc := some (s.ck, f.seq.pc) } }) s

/-- The CK at which a pending write completes its operation (R332, Table 9-15). -/
def doneCk (w : PendWr) : Nat :=
  match w.wr with
  | .tag _ _ _ => w.due - 1
  | _ => w.due

/-- The CK at which the TLOADs held by the load bus are complete. -/
def loadsEnd (f : Fen) : Nat :=
  f.loads.foldl (fun t j => match j.start with
    | some k => max t (k + loadCk j.op)
    | none => max t j.issued + loadCk j.op) f.busFree

/-- The CK at which everything a fen has issued is complete. -/
def fenDoneCk (f : Fen) : Nat :=
  let sends := f.sends.foldl (fun t x => max t x.issued + x.n) f.sendEnd
  let l := f.pend.map doneCk ++ f.pushes.map (·.due) ++ [loadsEnd f, if sends = 0 then 0 else sends + 4]
  l.foldl max 0

/-- FEN_SEGMENT_END (R332, R373): everything issued completes; a segment whose END has issued ends, and FEN_SEG_END takes
its length. A halted fen's operations complete likewise. -/
def segmentEnd (p : Nat) (s : State) : State :=
  let f := fenOf s p
  if ckRuns s && fenIsOn f && ((decide (f.seq.st = .running) && f.seq.endIssued) || decide (f.seq.st = .halted))
  then
    let t := settle p (advanceCk (max (fenDoneCk f) (f.seq.slotCk)) s)
    if f.seq.st = .halted then t
    else setFenReg p 0x900 (BitVec.ofNat 32 (min (t.ck - f.seq.segStart) 0xFFFFFF))
      (modFen p (fun f => { f with seq := { f.seq with st := .ended }, lastNj := f.energyPj / 1000 }) t)
  else s

/-- Whether a fen counts as ended for step 1 of Table 1-5 in CK `ck`: a halted one once its operations in flight have completed
(R332, R373). -/
def fenEnded (ck : Nat) (f : Fen) : Bool :=
  match f.seq.st with
  | .idle => true
  | .ended => true
  | .halted => decide (fenDoneCk f ≤ ck)
  | .running => false
  | .waiting => false

/-! ## Fetch and scrubbing (R330, R374) -/

/-- The bundle that follows one on the path the fetch unit takes: loops by their counts, branches by the variant table;
`none` past END or where the select slot holds nothing yet. -/
def fetchNext (f : Fen) (at_ : Nat × List LoopFrame) : Option (Nat × List LoopFrame) :=
  let c := (mapGet 0#128 f.img.imem at_.1).toNat % 65536
  match c / 4096 with
  | 2 => some ((at_.1 + 1) % 4096, ⟨c / 1024 % 4, at_.1 + 1, at_.1 + c % 1024 + 1, (mapGet 0#16 f.lcs (c / 1024 % 4)).toNat⟩ :: at_.2)
  | 3 => (mapGet {} f.selects (c % 8)).variant.map fun v => ((mapGet 0#12 f.img.variants (4 * (c % 8) + v.toNat)).toNat, at_.2)
  | 4 => some (c % 4096, at_.2)
  | 5 => none
  | _ => some (loopNext at_.1 at_.2)

/-- The address `n` bundles ahead of the program counter. -/
def fetchAhead (f : Fen) : Nat → Nat × List LoopFrame → Option Nat
  | 0, a => some a.1
  | n + 1, a => (fetchNext f a).bind (fetchAhead f n)

/-- One bundle is read through ECC: a correction is counted, an uncorrectable word is remembered until its bundle is about to
issue. -/
def fetchOne (p : Nat) (s : State) (a : Nat) : State :=
  match mapGet .ok (fenOf s p).img.imemErr a with
  | .ok => s
  | .ce => fenBump p 0xA10 1 s
  | .ue => modFen p (fun f => { f with seq := { f.seq with fetched := f.seq.fetched ++ [a] } }) s

/-- BUNDLE_FETCH (R330): every bundle up to the one 4 CK ahead that the fetch unit has not yet read; at a segment's start those
from its entry on, and after a branch whose variant came late those from its target on. -/
def fetchOp (p : Nat) (s : State) : State :=
  let f := fenOf s p
  if ckRuns s && fenIsOn f && decide (f.seq.st = .running) then
    let l := (List.range (5 - f.seq.ahead)).filterMap fun k => fetchAhead f (f.seq.ahead + k) (f.seq.pc, f.seq.loops)
    l.foldl (fetchOne p) (modFen p (fun f => { f with seq := { f.seq with ahead := f.seq.ahead + l.length } }) s)
  else s

/-- IMEM_SCRUB: one bundle is read, a correction written back and counted; an uncorrectable word is counted and logged. -/
def imemScrubOp (p : Nat) (s : State) : State :=
  let f := fenOf s p
  if ckRuns s && fenIsOn f then
    let a := f.img.scrub
    let s := modFen p (fun f => { f with img := { f.img with scrub := (a + 1) % 4096 } }) s
    match mapGet .ok f.img.imemErr a with
    | .ok => s
    | .ce => fenBump p 0xA10 1 (modFen p (fun f => { f with img := { f.img with imemErr := mapPut .ok f.img.imemErr a .ok } }) s)
    | .ue => logAdd lkImemUe p [a] (fenBump p 0xA14 1 s)
  else s

/-! ## Meanings -/

/-- CNOP. -/
def execCnop (p : Fin 72) (s : State) : Host.Outcome State Fault Refusal := cIssue p (passBundle p none) s
/-- WAIT. -/
def execWait (p : Fin 72) (desc : Fin 1024) (s : State) : Host.Outcome State Fault Refusal := cIssue p (waitOp p desc.val) s
/-- WAIT_PASS. -/
def execWaitPass (p : Fin 72) (s : State) : Host.Outcome State Fault Refusal := .next (waitPassOp p s)
/-- LOOP. -/
def execLoop (p : Fin 72) (level : Fin 4) (len : Fin 1024) (s : State) : Host.Outcome State Fault Refusal :=
  cIssue p (loopOp p level.val len.val) s
/-- BRSEL. -/
def execBrsel (p : Fin 72) (slot : Fin 8) (s : State) : Host.Outcome State Fault Refusal := cIssue p (brselOp p slot.val) s
/-- JUMP. -/
def execJump (p : Fin 72) (target : Fin 4096) (s : State) : Host.Outcome State Fault Refusal :=
  cIssue p (passBundle p (some target.val)) s
/-- END. -/
def execEndSegment (p : Fin 72) (s : State) : Host.Outcome State Fault Refusal := cIssue p (endOp p) s
/-- FEN_SEGMENT_END. -/
def execFenSegmentEnd (p : Fin 72) (s : State) : Host.Outcome State Fault Refusal := .next (segmentEnd p s)
/-- SLUICE_SLACK_EXPIRY. -/
def execSluiceSlackExpiry (p : Fin 72) (s : State) : Host.Outcome State Fault Refusal := .next (sluiceExpire p s)
/-- BUNDLE_FETCH. -/
def execBundleFetch (p : Fin 72) (s : State) : Host.Outcome State Fault Refusal := .next (fetchOp p s)
/-- IMEM_SCRUB. -/
def execImemScrub (p : Fin 72) (s : State) : Host.Outcome State Fault Refusal := .next (imemScrubOp p s)

end Sys2Proof.Machine
end

