-- ==== Sys2Proof/Machine/Tempo.lean ====
section
/-!
DEFINITION. The tempo (chapter 08): roles, markers, the attribution of holds, generator boundaries, ring-wide holds and the
tempo commands. The actions at a boundary are in Boundary.lean.
-/

namespace Sys2Proof.Machine

/-! ## Configuration -/

/-- TEMPO_CTRL.ROLE: 0 SOLO, 1 MASTER, 2 FOLLOWER (Table 8-1). -/
def tempoRole (s : State) : Nat := regBits s 0x1000 1 0
/-- The causeway of IN_LINK. -/
def inLink (s : State) : Nat := regBits s 0x1000 2 2
/-- PERIOD in State's units. -/
def periodUnits (s : State) : Nat := regBits s 0x1004 15 0 * unitsTk
/-- LEAD in State's units. -/
def leadUnits (s : State) : Nat := regBits s 0x100C 15 0 * unitsTk
/-- Units of 96 CK (R31). -/
def actionUnits : Nat := 96 * unitsCk
/-- Set bits of TEMPO_EVENTS. -/
def tempoEvent (v : Word) (s : State) : State := orReg 0x1028 v s

/-- Whether every fen counts as ended (step 1 of Table 1-5, R332, R546). -/
def allEnded (s : State) : Bool := s.fens.all fun f => fenEnded s.ck f.2

/-- Whether no segment runs in the block: the tempo is stopped, or a boundary is held with every segment ended. -/
def noSegment (s : State) : Bool := tempoStopped s || s.tempo.ringHold || s.tempo.cmdHold || s.tempo.actAt.isSome

/-! ## Held tempos (R315, R316) -/

def causeSluiceC : Nat := 1
def causeSluiceFabric : Nat := 2
def causeCarryLate : Nat := 3
def causeRemoteLate : Nat := 4
def causeDecisionLate : Nat := 5
def causeTierLate : Nat := 6
def causeLocalLate : Nat := 7
def causeLag : Nat := 8
def causeStretch : Nat := 9
def causeOverrun : Nat := 10
def causeStep : Nat := 11
def causeClock : Nat := 12
def causeSnapshot : Nat := 13
def causeMove : Nat := 14
def causeCommand : Nat := 15

/-- Count a cause of the hold of the tempo in progress, and the held tempo once (R315). -/
def markHold (cause : Nat) (s : State) : State :=
  let s := if s.tempo.held then s else tempoEvent 1#32 (bump 0x1048 1 (modTempo (fun t => { t with held := true }) s))
  if s.tempo.causes.contains cause then s
  else bump (0x107C + 4 * cause) 1 (modTempo (fun t => { t with causes := t.causes ++ [cause], lastCause := cause }) s)

/-- Whether a lode moves the rows of a slot of a fen's buffer. -/
def lodeCovers (x : Lode) (n : Nat) (b : BufId) (slot : Nat) : Bool :=
  ldOk x.desc && decide (lodeFen x = n) && decide (ldBuf x.desc = some b) && decide (ldSlot x.desc ≤ slot)
    && decide (slot < ldSlot x.desc + ldSlots x.desc)

/-- Whether a lode's transfers change what a WAIT of logical fen `n` tests: its counter, FULL tags for a read lode, and for a write
lode with RELEASE the tags that it sets EMPTY (R384, R388). -/
def lodeChanges (x : Lode) (n : Nat) : WaitOn → Bool
  | .tag b slot empty => lodeCovers x n b slot && if empty then !ldRead x.desc && ldRelease x.desc else ldRead x.desc
  | .counter g _ _ _ => ldOk x.desc && decide (lodeFen x = n) && decide (lodeGroup x = g)
  | _ => false

/-- Whether a lode has gone: freed, halted or ended. -/
def lodeGone (x : Lode) : Bool := decide (x.st = .free ∨ x.st = .halted ∨ x.st = .ended)

/-- The lode that feeds what a WAIT of logical fen `n` tests; one that has gone only where no other does. -/
def waitLode (s : State) (n : Nat) (w : WaitOn) : Option Lode :=
  let l := s.lodes.filter fun l => lodeChanges l.2 n w
  ((l.find? fun x => !lodeGone x.2).or l.head?).map (·.2)

/-- The 24 bits of a bundle's move slot (Table 9-2). -/
def moveSlot (b : BitVec 128) : Nat := b.toNat / 2 ^ 16 % 2 ^ 24

/-- Whether a bundle holds a TAG operation of kind `kind` (0 SET_FULL, 1 SET_EMPTY, 2 RELEASE_CHAIN) on a slot. -/
def bundleTags (b : BitVec 128) (kind : Nat) (buf : BufId) (slot : Nat) : Bool :=
  let m := moveSlot b
  decide (m / 2 ^ 20 = 4) && decide (m / 2 ^ 18 % 4 = kind) && decide (bufOfCode (m / 2 ^ 16 % 4) = some buf)
    && decide (m / 2 ^ 7 % 512 = slot)

/-- The routes of a fen's image. -/
def routesOf (f : Fen) : List Route := f.img.routes.filterMap fun r => routeOf r.2

/-- Whether a SEND of a fen on route `i`, which leads to a buffer of a fen, writes rows of a slot; the route may have moved. -/
def routeWrites (f : Fen) (i : Nat) (r : Route) (b : BufId) (slot : Nat) : Bool :=
  decide (r.buf = b) && (r.auto || f.img.imem.any fun e =>
    let m := moveSlot e.2
    decide (m / 2 ^ 20 = 5 ∧ m / 2 ^ 7 % 16 = i)
      && (slotsOf ((List.range (m / 2 ^ 11 % 32 + 1)).map fun k => bufWrap b (r.row + k))).contains slot)

/-- The pfens with a route or a chain link to a counter of logical fen `n` (R363, R367, R411). -/
def sendersTo (s : State) (n g : Nat) : List Nat :=
  (s.fens.filter fun f =>
    ((routesOf f.2).any fun r => decide (r.kind = 0 ∧ r.fen = n ∧ r.group = g))
      || f.2.img.links.any fun l => l.2.hasNext && decide (l.2.nextFen = n ∧ l.2.nextCounter = g)).map (·.1)

/-- The pfens with a route or a chain link that writes a slot of logical fen `n`, and so sets its tag FULL (R384). -/
def sendersAt (s : State) (n : Nat) (b : BufId) (slot : Nat) : List Nat :=
  (s.fens.filter fun f =>
    (f.2.img.routes.any fun x => match routeOf x.2 with
      | some r => decide (r.kind = 0 ∧ r.fen = n) && routeWrites f.2 x.1 r b slot
      | none => false)
      || f.2.img.links.any fun l => l.2.hasNext && decide (l.2.nextFen = n ∧ b = .a ∧ l.2.nextFirst ≤ slot ∧ slot < l.2.nextFirst + l.2.nextK)).map
    (·.1)

/-- Whether causeway messages feed what a WAIT of logical fen `n` tests: a counter that a plan declares send-fed, whether or not
the block sends to it too, or a full tag of such a fen that nothing in the block sets (log entry 41). -/
def remoteFed (s : State) (p n : Nat) : WaitOn → Bool
  | .counter g _ _ _ => (plansOf s).any fun x => x.2.msgCounters.contains (n, g)
  | .tag b slot empty =>
    !empty && (plansOf s).any (fun x => x.2.msgCounters.any fun c => decide (c.1 = n)) && (sendersAt s n b slot).isEmpty
      && (waitLode s n (.tag b slot empty)).isNone && !(fenOf s p).img.imem.any fun e => bundleTags e.2 0 b slot
  | _ => false

/-- The bound of a reserved read in State's units (Table 8-4); tier C and the fabric have none. -/
def tierBound : Option Tier → Option Nat
  | some .a => some (2475 * unitsCk)
  | some .b => some (5625 * unitsCk)
  | _ => none

/-- The transfers in flight of a lode that a WAIT of a fen needs: those that touch the slot, or, in the order of their issue,
as many as its counter still lacks, of the generation that it tests (R316, R391). -/
def neededXfers (s : State) (p : Nat) (x : Lode) : WaitOn → List Xfer
  | .tag b slot _ => x.inflight.filter fun t => (slotsOf (t.rows.map (·.1))).contains slot && decide (ldBuf x.desc = some b)
  | .counter g n _ none => x.inflight.take (n - (counterOf (fenOf s p) g).cnt)
  | .counter g n _ (some h) =>
    let c := counterOf (fenOf s p) g
    let h := counterGs s p g + h
    let have_ := if h = c.gen then c.cnt else if h + 1 = c.gen then c.old else 0
    (x.inflight.filter fun t => decide (t.gen = h)).take (n - have_)
  | _ => []

/-- Whether a transfer that a WAIT needs has issued and is later than its tier's bound. -/
def xferLate (s : State) (p : Nat) (x : Lode) (w : WaitOn) : Bool :=
  (neededXfers s p x w).any fun t => (tierBound t.tier).any fun b => decide (t.issued + b < s.now)

/-- The cause that an object waited on gives (R316). -/
def objectCause (s : State) (p n : Nat) (w : WaitOn) : Nat :=
  match w with
  | .select _ => causeDecisionLate
  | .carry _ _ => causeCarryLate
  | .credit _ _ => causeLocalLate
  | _ =>
    match waitLode s n w with
    | some _ =>
      if s.lodes.any fun l => lodeChanges l.2 n w && !lodeGone l.2 && xferLate s p l.2 w then causeTierLate
      else causeLocalLate
    | none => if remoteFed s p n w then causeRemoteLate else causeLocalLate

/-- The cause that a stalled WAIT gives; a sluice on tier C or fabric data gives its own whatever the lode's state. -/
def waitCause (s : State) (p n : Nat) (sluice : Bool) (w : WaitOn) : Nat :=
  match waitLode s n w with
  | some x =>
    if sluice && ldFabric x.desc then causeSluiceFabric
    else if sluice && decide (x.tiers.getD x.base .a = .bAsC) then causeSluiceC
    else objectCause s p n w
  | none => objectCause s p n w

/-- KIND and INDEX of FEN_WAIT_INFO (Table 8-14, R372). -/
def waitKind : WaitOn → Nat × Nat
  | .tag _ slot _ => (0, slot)
  | .counter g _ _ _ => (1, g)
  | .select k => (2, k)
  | .carry a _ => (3, a)
  | .credit l _ => (1, 508 + l)

/-- The cause that a fen that has not ended gives, 0 for one that executes, and its FEN_WAIT_INFO. -/
def fenCause (s : State) (p : Nat) : Nat × Word :=
  let f := fenOf s p
  let d := waitingDesc f
  match f.seq.st, waitOn d, logicalOf s p with
  | .waiting, some w, some n =>
    let c := waitCause s p n (waitSluice d) w
    let k := waitKind w
    (c, BitVec.ofNat 32 (1 + (if waitSluice d then 2 else 0) + k.1 % 8 * 4 + k.2 % 512 * 2 ^ 5 + c * 2 ^ 14))
  | _, _, _ => (0, 0)

/-- SEQ_STATUS of a fen (Table 9-18). -/
def seqStatus (f : Fen) : Word :=
  let st := match f.seq.st with
    | .idle => 0
    | .running => 1
    | .waiting => 2
    | .ended => 3
    | .halted => 4
  BitVec.ofNat 32 (f.seq.pc % 4096 + st * 2 ^ 12 + (if f.seq.st = .waiting then f.seq.waitDesc else 0) * 2 ^ 16)

/-- The pfens that have not ended. -/
def notEnded (s : State) : List Nat := (s.fens.filter fun f => !fenEnded s.ck f.2).map (·.1)

/-- Attribution of a hold at G_n (R316). -/
def holdAttribute (s : State) : State :=
  let l := (notEnded s).map fun p => (p, fenCause s p)
  let s := l.foldl (fun s x => setFenReg x.1 0x904 x.2.2 s) s
  let given := (l.map (·.2.1)).filter (fun c => decide (c ≠ 0))
  let t := s.tempo
  match given.min? with
  | some c =>
    let s := markHold c s
    if c = causeLocalLate then
      let p := ((l.find? fun x => decide (x.2.1 = c)).map (·.1)).getD 0
      logAdd lkLocalLate p [(fenReg s p 0x904).toNat] s
    else s
  | none =>
    if t.clockStopped then markHold causeClock s
    else if t.gMark.any (·.early) then markHold causeStep s
    else if 0 < t.lagCk then markHold causeLag s
    else if regBits s 0x1000 10 8 < t.stretches then markHold causeStretch s
    else
      let p := (l.headD (0, 0, 0)).1
      logAdd lkOverrun p [(logicalOf s p).getD 0, (seqStatus (fenOf s p)).toNat] (markHold causeOverrun s)

/-! ## Ring-wide holds (R319 to R322, R485) -/

def holdSnapshot : Nat := 1
def holdMove : Nat := 2
def holdLag : Nat := 3

/-- A HOLD frame (Table 12-11): KIND 0 REQUEST or 1 RELEASE. -/
def holdFrame (s : State) (kind reason : Nat) : TxFrame :=
  { kind := frHold, ts := 0,
    payload := BitVec.ofNat 2048 (kind + reason * 2 + s.ringPos.toNat * 2 ^ 4 + s.ringId.toNat * 2 ^ 10
      + s.tempo.count.toNat * 2 ^ 16) }

/-- A frame joins the gateway of a causeway that keeps it. -/
def sendFrame (c : Nat) (f : TxFrame) (s : State) : State :=
  modCw c (fun x => if linkKeeps x then { x with tx := x.tx ++ [f] } else x) s

/-- A request reaches the master (R320): the first marker not yet sent is to carry HOLD; its reason counts at the hold (R323). -/
def masterRequest (reason : Nat) (s : State) : State :=
  modTempo (fun t => { t with holdReq := true, reqs := if t.reqs.contains reason then t.reqs else t.reqs ++ [reason] }) s

/-- A block of a ring requests a ring-wide hold (R319), once for each reason until the flagged boundary. -/
def ringRequest (reason : Nat) (s : State) : State :=
  if tempoRole s = 0 ∨ tempoStopped s ∨ s.tempo.asked.contains reason then s
  else
    let s := modTempo (fun t => { t with asked := t.asked ++ [reason] }) s
    if tempoRole s = 1 then masterRequest reason s else sendFrame (inLink s) (holdFrame s 0 reason) s

/-- TEMPO_RING_MEMBERS. -/
def ringMembers (s : State) : BitVec 64 := reg s 0x103C ++ reg s 0x1038

/-- The positions that have not released (R322). -/
def ringPending (s : State) : BitVec 64 := if s.tempo.ringHold then ringMembers s &&& ~~~s.tempo.released else 0

/-- The master resumes once every member has released and no TEMPO_HOLD is in force (R321): a RESUME marker for a boundary
TEMPO_LEAD ahead. -/
def ringResume (s : State) : State :=
  let t := s.tempo
  if tempoRole s = 1 && t.ringHold && !t.cmdHold && t.markFor.isNone && t.marks.isEmpty && decide (ringPending s = 0) then
    modTempo (fun t => { t with markFor := some (s.now + leadUnits s), markNum := if t.first then t.count else t.count + 1 }) s
  else s

/-- A RELEASE reaches the master. -/
def masterRelease (origin : Nat) (s : State) : State :=
  ringResume (modTempo (fun t => { t with released := t.released ||| (1#64 <<< origin) }) s)

/-- The block releases after a flagged boundary's actions (R320), and waits. -/
def ringRelease (s : State) : State :=
  let s := modTempo (fun t => { t with ringHold := true, ringSince := s.now, ringStalled := false, asked := [], reqs := [] }) s
  if tempoRole s = 1 then masterRelease s.ringPos.toNat s else sendFrame (inLink s) (holdFrame s 1 0) s

/-- A HOLD frame that has passed its lane's checks (R485): the master consumes it, a follower forwards it on its IN_LINK. -/
def holdArrive (c : Nat) (pl : BitVec 2048) (s : State) : State :=
  match tempoRole s with
  | 1 => if pl.getLsbD 0 then masterRelease (pl.toNat / 2 ^ 4 % 64) s else masterRequest (pl.toNat / 2 % 8) s
  | 2 => if c = inLink s then s else sendFrame (inLink s) { kind := frHold, ts := 0, payload := pl } s
  | _ => s

/-- RING_HOLD_TIMEOUT (R322). -/
def execRingHoldTimeout (s : State) : Host.Outcome State Fault Refusal :=
  if tempoRole s = 1 && s.tempo.ringHold && !s.tempo.ringStalled && decide (ringPending s ≠ 0) then
    let s := advanceTo (s.tempo.ringSince + regBits s 0x1034 15 0 * 4500000) s
    let w := ringPending s
    .next (logAdd lkRingStall 0x600 [w.toNat % 2 ^ 32, w.toNat / 2 ^ 32] (tempoEvent 0x100#32
      (modTempo (fun t => { t with ringStalled := true }) s)))
  else .next s

/-! ## Markers (R291 to R299, R484) -/

/-- A TEMPO frame on its way out: `ts` holds the boundary's time until the frame leaves, when LEAD is filled in. -/
def markFrame (m : Mark) (period pos : Nat) : TxFrame :=
  { kind := frTempo, ts := BitVec.ofNat 64 m.time,
    payload := BitVec.ofNat 2048 (m.number.toNat + period % 2 ^ 16 * 2 ^ 72 + (if m.hold then 2 ^ 88 else 0)
      + (if m.resume then 2 ^ 89 else 0) + (if m.stop then 2 ^ 90 else 0) + pos % 64 * 2 ^ 92) }

/-- PERIOD for the tempo that begins at the next boundary: the pending set's where one is pending (R299). -/
def periodNext (s : State) : Nat :=
  match s.pendSet with
  | some m => bitsOf (fileGet m 0x1004) 15 0
  | none => regBits s 0x1004 15 0

/-- The master sends the marker of its next boundary not yet announced, TEMPO_LEAD before it (R291, R320, R551). -/
def markerSend (s : State) : State :=
  match s.tempo.markFor with
  | none => s
  | some g =>
    let s := advanceTo (g - leadUnits s) s
    let t := s.tempo
    let n := regBits s 0x200 31 16
    let startMark := t.first && decide (t.markNum = t.count)
    let hold := t.holdReq || (decide (n ≠ 0) && decide (t.markNum.toNat % n = 0) && !startMark)
    let m : Mark := { number := t.markNum, time := g, hold := hold, resume := t.ringHold && t.marks.isEmpty, stop := decide (t.stopCmds ≠ []) }
    let period := periodNext s
    let fr := markFrame m period s.ringPos.toNat
    let s := if regBit s 0x1000 4 then sendFrame 0 fr s else s
    let s := if regBit s 0x1000 5 then sendFrame 1 fr s else s
    modTempo (fun t => { t with
      marks := t.marks ++ [m], markNum := t.markNum + 1, markFor := if hold || m.stop then none else some (g + period * unitsTk),
      holdReq := t.holdReq && !hold, released := if hold then 0 else t.released }) s

/-- TEMPO_MARKER_SEND. -/
def execTempoMarkerSend (s : State) : Host.Outcome State Fault Refusal :=
  .next (if tempoRole s = 1 && s.tempo.running && decide (s.plant.fatal = 0) then markerSend s else s)

/-- TEMPO_SKEW: the difference of two times in CK, at its extremes where it does not fit. -/
def skewCk (a b : Nat) : BitVec 16 :=
  let d : Int := ((a : Int) - b) / 2
  BitVec.ofInt 16 (max (-32768) (min 32767 d))

/-- The number of the next marker a follower expects (R294). -/
def markExpected (t : Tempo) : BitVec 48 :=
  match t.marks.getLast? with
  | some m => m.number + 1
  | none => match t.atG, t.gMark with
    | true, some m => m.number + 1
    | true, none => if t.first then t.count + 1 else t.count + 2
    | false, _ => if t.first then t.count else t.count + 1

/-- The time that the flywheel predicts for the boundary of the next marker. -/
def markPredicted (s : State) : Option Nat :=
  match s.tempo.marks.getLast? with
  | some m => if m.hold || m.stop then none else some (m.time + s.tempo.periodIn * unitsTk)
  | none => s.tempo.due

/-- A marker is accepted: it places its boundary at `time` (R292, R295, R296, R299). -/
def markAccept (m : Mark) (period : Nat) (s : State) : State :=
  let pred := markPredicted s
  let m := { m with early := pred.any fun p => decide (m.time < p) }
  let s := match pred with
    | none => modTempo (fun t => { t with skew := 0 }) s
    | some p =>
      let s := modTempo (fun t => { t with skew := skewCk m.time p }) s
      if unitsUs < m.time - p ∨ unitsUs < p - m.time then logAdd lkTempoStep 0x600 [s.tempo.skew.toNat] (tempoEvent 8#32 s) else s
  let s := if period ≠ regBits s 0x1004 15 0 then logAdd lkPeriodMismatch 0x600 [period] (tempoEvent 0x20#32 s) else s
  let s := if s.tempo.awaitFirst then
      let cmds := s.tempo.startCmds
      replyAll cmds stOk (modTempo (fun t => { t with awaitFirst := false, startCmds := [], first := true, count := m.number }) s)
    else s
  modTempo (fun t => { t with marks := t.marks ++ [m], locked := true, missed := 0, periodIn := period,
                              due := if t.marks.isEmpty then some m.time else t.due }) s

/-- A TEMPO frame that has passed its lane's checks (R290, R292 to R294): ignored unless it comes to a follower on IN_LINK,
forwarded, and accepted or dropped. -/
def markerArrive (c : Nat) (pl : BitVec 2048) (s : State) : State :=
  if tempoRole s ≠ 2 ∨ c ≠ inLink s then s
  else
    let v := pl.toNat
    let lead := v / 2 ^ 48 % 2 ^ 24
    let left := lead - (cwOf s c).delay.toNat
    let time := s.now + left * 9 / 16
    let m : Mark := { number := BitVec.ofNat 48 v, time := 2 * ((time + 1) / 2), hold := pl.getLsbD 88, resume := pl.getLsbD 89,
                      stop := pl.getLsbD 90 }
    let period := v / 2 ^ 72 % 2 ^ 16
    let s := if regBit s 0x1000 3 then sendFrame (1 - c) (markFrame { m with time := time } period (v / 2 ^ 92 % 64)) s else s
    if tempoStopped s then s
    else if 9 * left < 16 * 64 * unitsCk ∨ (!s.tempo.awaitFirst ∧ !m.resume ∧ m.number ≠ markExpected s.tempo) then
      tempoEvent 0x10#32 (bump 0x1050 1 s)
    else markAccept m period s

/-! ## Generator boundaries (R287, R295, R316, R318) -/

/-- The block slips (R318): no boundary follows until TEMPO_START. -/
def tempoSlip (s : State) : State :=
  if s.tempo.slipped then s
  else logAdd lkTempoSlip 0x600 [] (tempoEvent 2#32
    (modTempo (fun t => { t with slipped := true, due := none, marks := [], markFor := none }) s))

/-- A follower's flywheel places a boundary without a marker (R295). -/
def markMissed (s : State) : State :=
  let s := bump 0x104C 1 (modTempo (fun t => { t with missed := t.missed + 1 }) s)
  if s.tempo.missed = 2 ∧ s.tempo.locked then
    logAdd lkTempoUnlock 0x600 [] (tempoEvent 4#32 (modTempo (fun t => { t with locked := false }) s))
  else s

/-- The time and the marker of the next boundary, `none` where none is placed. -/
def nextBoundary (s : State) : Option (Nat × Option Mark) :=
  match s.tempo.marks with
  | m :: _ => some (m.time, some m)
  | [] => if tempoRole s = 1 then none else s.tempo.due.map fun g => (g, none)

/-- Boundary G comes: a slip where the boundary before it has not ended its tempo, otherwise the tempo ends or is held. -/
def boundaryAt (g : Nat) (m : Option Mark) (s : State) : State :=
  let s := advanceTo g s
  let s := if tempoRole s = 2 ∧ m.isNone then markMissed s else s
  if s.tempo.atG ∨ s.tempo.actAt.isSome then
    if tempoRole s = 0 then s else tempoSlip s
  else
    let more := !m.any fun x => x.hold || x.stop
    let next := if tempoRole s = 0 ∨ !more then none
      else some (g + (if tempoRole s = 2 then s.tempo.periodIn else regBits s 0x1004 15 0) * unitsTk)
    let s := modTempo (fun t => { t with marks := t.marks.tail, due := next, atG := true, gTime := g, gMark := m, waitF := false }) s
    if allEnded s ∨ !s.tempo.ran then s else holdAttribute (modTempo (fun t => { t with waitF := true }) s)

/-- TEMPO_BOUNDARY_DUE. -/
def execTempoBoundaryDue (s : State) : Host.Outcome State Fault Refusal :=
  if tempoStopped s || s.tempo.slipped || s.tempo.awaitFirst || decide (s.plant.fatal ≠ 0) then .next s
  else
    let s := if tempoRole s = 1 ∧ s.tempo.marks = [] then markerSend s else s
    match nextBoundary s with
    | none => .next s
    | some (g, m) => .next (boundaryAt g m s)

/-- The mode takes effect (R237); NORMAL is the last step of start-up. -/
def setMode (service : Bool) (s : State) : State :=
  let s := { s with service := service }
  if service then s else startDone 10 s

/-! ## Commands (R324, Table 8-7) -/

/-- The tempo stops: no boundary comes until TEMPO_START; commands that waited for it are answered. -/
def tempoStop (s : State) : State :=
  let t := s.tempo
  let cmds := t.stopCmds ++ t.holdCmds ++ t.startCmds
  let s := match t.holdG with
    | some g => bump 0x1024 ((s.now - (g + actionUnits) + unitsTk - 1) / unitsTk) s
    | none => s
  replyAll cmds stOk (modTempo (fun t => { t with
    running := false, first := false, startCmds := [], due := none, marks := [], atG := false, gMark := none, waitF := false,
    lagCk := 0, held := false, causes := [], ringHold := false, asked := [], stopCmds := [], holdCmds := [], cmdHold := false,
    holdG := none, holdReq := false, markFor := none, clockStopped := false, stretches := 0, awaitFirst := false, locked := false,
    missed := 0, ran := false, reqs := [] }) s)

/-- TEMPO_START takes effect in role SOLO or MASTER (Table 8-7), also while a tempo runs, whose segments then end at the boundary
that it places. -/
def tempoLaunch (c : Cmd) (n : BitVec 48) (s : State) : State :=
  let ring := s.tempo.ringHold
  let holds := s.tempo.holdCmds
  let s := replyAll holds stOk (modTempo (fun t => { t with
    count := n, running := true, first := true, startCmds := t.startCmds ++ [c], slipped := false, cmdHold := false, holdCmds := [],
    atG := t.atG && t.actAt.isSome, waitF := false }) s)
  if ring then ringResume s
  else
    let g := s.now + leadUnits s
    modTempo (fun t => { t with due := if tempoRole s = 0 then some g else none, markFor := if tempoRole s = 1 then some g else none,
                                markNum := n, marks := [] }) s

/-- TEMPO_START. -/
def execTempoStart (q : Fin 16) (p : Packet) (s : State) : Host.Outcome State Fault Refusal :=
  .next (acceptCmd 0x28 q.val p (fun c _ s =>
    if s.plant.fatal ≠ 0 then reply c stRefusedConfig s
    else if tempoRole s = 2 then
      modTempo (fun t => { t with running := true, first := true, awaitFirst := true, slipped := false, due := none, marks := [],
                                  ringHold := false, startCmds := t.startCmds ++ [c] }) s
    else tempoLaunch c (BitVec.ofNat 48 (par p 0 6)) s) s)

/-- TEMPO_STOP: at the next boundary; at once where the tempo is stopped, or held until TEMPO_START. -/
def execTempoStop (q : Fin 16) (p : Packet) (s : State) : Host.Outcome State Fault Refusal :=
  .next (acceptCmd 0x29 q.val p (fun c _ s =>
    if tempoStopped s then reply c stOk s
    else
      let s := modTempo (fun t => { t with stopCmds := t.stopCmds ++ [c] }) s
      if (s.tempo.awaitFirst ∧ !s.tempo.ran) ∨ (s.tempo.cmdHold ∧ !s.tempo.ringHold) then tempoStop s else s) s)

/-- TEMPO_HOLD: at the next boundary, or for a master at the boundary of the first marker not yet sent. Within a ring-wide hold it
keeps the master from resuming while the RESUME marker has not left (R320, R321). -/
def execTempoHold (q : Fin 16) (p : Packet) (s : State) : Host.Outcome State Fault Refusal :=
  .next (acceptCmd 0x2A q.val p (fun c _ s =>
    if tempoRole s = 2 then reply c stRefusedConfig s
    else if tempoStopped s ∨ s.tempo.cmdHold then reply c stOk s
    else if s.tempo.ringHold ∧ s.tempo.marks = [] then
      reply c stOk (modTempo (fun t => { t with cmdHold := true, markFor := none }) s)
    else
      let served := s.tempo.marks.any (·.hold) || (s.tempo.atG && s.tempo.gMark.any (·.hold))
      modTempo (fun t => { t with holdCmds := t.holdCmds ++ [c], holdReq := t.holdReq || (decide (tempoRole s = 1) && !served) }) s) s)

end Sys2Proof.Machine
end

