-- ==== Sys2Proof/Machine/Ports.lean ====
section
/-!
DEFINITION. Tile transfers through the state ports (R144 to R155), streams (R156 to R161), STATE_MOVE, and the scrubbers
of state files and buffers (R138, R139, R381).
-/

namespace Sys2Proof.Machine

/-! ## Tile images (R149 to R151) -/

/-- Bytes of an image. -/
def imageBytes : Nat := 7168

/-- Whether an entry is one that only a mired image holds (R150). -/
def mireEntry (e : Entry) : Bool := w40Special (entryW e) && decide (e.toNat / 2 ^ 40 ≠ 0)

/-- The entries of an image. -/
def imageEntries (bytes : List Byte) : List Entry :=
  (List.range 1024).map fun e => BitVec.ofNat 56 (leNat ((bytes.drop (7 * e)).take 7))

/-- The bytes of an image of entries. -/
def entryBytes (l : List Entry) : List Byte := (l.map fun e => leBytes 7 e.toNat).flatten

/-- The image in which a tile leaves: every entry the pattern of R150 when the tile is mired. -/
def tileImage (t : Tile) : List Entry :=
  if t.mire then List.replicate 1024 mirePattern else (List.range 1024).map (entryOf t)

/-- Entries of an image with those that unreadable rows of 128 B reach replaced by the pattern (R151). -/
def imageWith (bad : List Nat) (l : List Entry) : List Entry :=
  l.zipIdx.map fun x => if bad.any fun r => decide (7 * x.2 < 128 * (r + 1) ∧ 128 * r < 7 * x.2 + 7) then mirePattern else x.1

/-- A tile loaded from entries (R151): the status is clear but for MIRE, which a mired image sets. -/
def tileLoaded (l : List Entry) : Tile :=
  { ent := (l.zipIdx).foldl (fun m x => mapPut 0#56 m x.2 x.1) [], mire := l.any mireEntry, invalid := false }

/-- Load a tile through its port. -/
def loadTile (p a d : Nat) (t : Tile) (s : State) : State :=
  modFen p (fun f => putTile (scrubTileDrop f a d) a d t) s

/-! ## Streams -/

/-- The context of a stream that is not CLOSED. -/
def streamBy (s : State) (sid : BitVec 16) : Option Nat :=
  (s.streams.find? fun e => decide (e.2.sid = sid) && decide (e.2.st ≠ .closed)).map (·.1)

/-- A binding of a loaded plan. -/
def bindingOf (s : State) (plan ix : Nat) : Option Binding :=
  (planOf s plan).bind fun x => x.bindings.find? fun b => decide (b.index = ix)

/-- A free context. -/
def freeStream (s : State) : Option Nat := (List.range 8192).find? fun k => decide ((streamOf s k).st = .closed)

/-- Whether another stream holds a binding: it has the same index of the same plan, or of another plan with the same tiles,
under which its plan may have been loaded again (R158, R164). The destination of a STATE_MOVE in progress is not yet held
(log entry 117). -/
def bindingHeld (s : State) (plan ix : Nat) (sid : BitVec 16) : Bool :=
  s.streams.any fun e => decide (e.2.st ≠ .closed) && decide (e.2.sid ≠ sid) && decide (e.2.binding.toNat = ix)
    && (decide (e.2.plan = plan) || decide ((bindingOf s plan ix).map (·.tiles) = some e.2.tiles))

/-- The binding of a stream context: its plan's, or, once that is unloaded, the one at its index in a plan that is loaded
(R164). -/
def streamBinding (s : State) (x : Stream) : Option Binding :=
  match bindingOf s x.plan x.binding.toNat with
  | some b => some b
  | none => (plansOf s).findSome? fun y => y.2.bindings.find? fun b => decide (b.index = x.binding.toNat)

/-- Whether some tile of a stream has MIRE set (Table 4-4). -/
def streamMired (s : State) (x : Stream) : Bool :=
  x.tiles.any fun t => match pfenOf s t.1 with
    | some p => (tileOf (fenOf s p) t.2.1 t.2.2).mire
    | none => false

/-- The value of a stream state (Table 4-5). -/
def streamCode : StreamSt → Nat
  | .closed => 0
  | .opening => 1
  | .open => 2
  | .resetting => 3
  | .moving => 4
  | .awaiting => 5

/-- The bits of a stream context (Table 4-4); COMP is as the loaded plan declares it (R183). -/
def streamBits (s : State) (x : Stream) : BitVec 256 :=
  let b (v : Bool) : Nat := if v then 1 else 0
  let comp := match streamBinding s x with
    | some y => y.comp
    | none => x.comp
  BitVec.ofNat 256 (x.sid.toNat + streamCode x.st * 2 ^ 16 + b comp * 2 ^ 19 + x.initMode.toNat * 2 ^ 20
    + b (streamMired s x) * 2 ^ 22 + x.binding.toNat * 2 ^ 32 + x.initHandle.toNat * 2 ^ 64 + x.initOffset.toNat * 2 ^ 96
    + x.position.toNat * 2 ^ 128)

/-- Whether a fen declares a state-move window (R147, R148). -/
def hasWindow (f : Fen) : Bool := decide (f.img.win.toNat / 2 ^ 16 ≠ 0)

/-- A number for a command accepted now, above those of the stream commands and transfers that wait. -/
def acceptNumber (s : State) : Nat := (s.streamJobs.map (·.seq) ++ s.ports.map (·.seq)).foldl max 0 + 1

/-- A transfer put before those of later commands that have not started. -/
def portInsert (x : PortXfer) : List PortXfer → List PortXfer
  | [] => [x]
  | y :: l => if x.seq < y.seq ∧ y.start = none then x :: y :: l else y :: portInsert x l

/-- Whether a transfer is a write whose image has not been read. -/
def portNoImage : PortKind → Bool
  | .moveWrite _ _ none => true
  | _ => false

/-- A transfer of a fen that waits for a boundary makes a block of a ring request a ring-wide hold (R319). -/
def portRequest (p : Nat) (s : State) : State := if hasWindow (fenOf s p) then s else ringRequest holdMove s

/-- Queue a transfer of a tile (logical fen, array, depth) for the command numbered `seq` in acceptance order (R147). -/
def queuePort (seq : Nat) (t : Nat × Nat × Nat) (kind : PortKind) (s : State) : State :=
  match pfenOf s t.1 with
  | none => s
  | some p =>
    let s := { s with ports := portInsert ⟨p, t.2.1, t.2.2, kind, none, false, seq⟩ s.ports }
    if portNoImage kind then s else portRequest p s

/-- Whether a kind of transfer is an initial-state load of a stream. -/
def isInit (sid : BitVec 16) : PortKind → Bool
  | .init x _ => decide (x = sid)
  | _ => false

/-- Queue the initial-state loads of a stream's binding, its initial-state tiles included (R192). -/
def queueInit (seq : Nat) (sid : BitVec 16) (x : Stream) (b : Binding) (s : State) : State :=
  let img (i : Nat) : Option Nat := if x.initMode = 1 then some (x.initOffset.toNat + i) else none
  (b.tiles.zipIdx ++ b.initTiles.zipIdx).foldl (fun s t => queuePort seq t.1 (.init sid (img t.2)) s) s

/-- The loads of an opening or resetting stream have ended (R158, R159). -/
def loadsEnded (sid : BitVec 16) (s : State) : State :=
  match streamBy s sid with
  | none => s
  | some k =>
    let x := streamOf s k
    if decide (x.st = .opening ∨ x.st = .resetting) && s.ports.all (fun t => !isInit sid t.kind) then
      modStream k (fun x => { x with st := .open, position := 0 }) s
    else s

/-- Free a context and set INVALID on every tile of its binding (R160). -/
def closeStream (sid : BitVec 16) (s : State) : State :=
  match streamBy s sid with
  | none => s
  | some k =>
    let s := (streamOf s k).tiles.foldl (fun s t => match pfenOf s t.1 with
      | some p => modFen p (fun f => putTile f t.2.1 t.2.2 { tileOf f t.2.1 t.2.2 with invalid := true }) s
      | none => s) s
    modStream k (fun _ => {}) { s with moves := s.moves.filter fun m => !(m.incoming && decide (m.sid = sid)) }

/-- Change tiles of a list. -/
def modTiles (g : Tile → Tile) (l : List (Nat × Nat × Nat)) (s : State) : State :=
  l.foldl (fun s t => match pfenOf s t.1 with
    | some p => modFen p (fun f => putTile f t.2.1 t.2.2 (g (tileOf f t.2.1 t.2.2))) s
    | none => s) s

/-- The job of a stream that is in progress. -/
def streamJobOf (s : State) (sid : BitVec 16) : Option StreamJob :=
  s.streamJobs.find? fun j => decide (j.sid = sid) && j.started

/-- A stream's command is answered and its job goes. -/
def endStreamJob (sid : BitVec 16) (st : Status) (res : BitVec 96) (s : State) : State :=
  match streamJobOf s sid with
  | none => s
  | some j => replyWith j.cmd st true res { s with streamJobs := s.streamJobs.erase j }

/-- Kinds of stream jobs. -/
def sjOpen : Nat := 0
def sjClose : Nat := 1
def sjReset : Nat := 2
def sjMove : Nat := 3

/-- Whether an initial image of a handle can be named: the handle is current and the images lie in the object (R158; log
entry 117 for images past its end). -/
def initCheck (s : State) (h : Word) (off n : Nat) : Option Status :=
  match objCurrent s h with
  | none => some stEpochMismatch
  | some k => if (objOf s k).size * 4096 < imageBytes * (off + n) then some stRefusedConfig else none

/-- The checks of STREAM_OPEN (R158): the status that refuses it. -/
def openCheck (p : Packet) (s : State) : Option Status :=
  let sid := BitVec.ofNat 16 (par p 0 2)
  match bindingOf s (par p 2 1) (par p 4 2), freeStream s with
  | some b, some _ =>
    if (streamBy s sid).isSome ∨ 3 ≤ par p 3 1 ∨ bindingHeld s (par p 2 1) (par p 4 2) sid then some stRefusedConfig
    else if par p 3 1 = 1 then initCheck s (BitVec.ofNat 32 (par p 8 4)) (par p 12 4) b.tiles.length
    else none
  | _, _ => some stRefusedConfig

/-- STREAM_OPEN begins (R158): the status that ends it at once, or `none` where its loads go on. -/
def openBegin (seq : Nat) (p : Packet) (s : State) : Option Status × State :=
  let sid := BitVec.ofNat 16 (par p 0 2)
  let mode := par p 3 1
  match bindingOf s (par p 2 1) (par p 4 2), freeStream s with
  | some b, some k =>
    let x : Stream := { sid := sid, st := if mode = 2 then .awaiting else .opening, comp := b.comp,
                        initMode := BitVec.ofNat 2 mode, binding := BitVec.ofNat 16 (par p 4 2),
                        initHandle := BitVec.ofNat 32 (par p 8 4), initOffset := BitVec.ofNat 32 (par p 12 4),
                        plan := par p 2 1, tiles := b.tiles }
    let s := modStream k (fun _ => x) { s with moves := s.moves.filter fun m => !(m.incoming && decide (m.sid = sid)) }
    if mode = 2 then (some stOk, s)
    else
      let s := loadsEnded sid (queueInit seq sid x b s)
      (if (streamOf s k).st = .open then some stOk else none, s)
  | _, _ => (some stRefusedConfig, s)

/-- The check of STREAM_RESET's initial state (R159). -/
def resetCheck (x : Stream) (b : Binding) (s : State) : Option Status :=
  if x.initMode = 2 then some stRefusedConfig
  else if x.initMode = 1 then initCheck s x.initHandle x.initOffset.toNat b.tiles.length
  else none

/-- STREAM_RESET begins (R159); the initial image's handle was current at acceptance. -/
def resetBegin (seq : Nat) (p : Packet) (s : State) : Option Status × State :=
  let sid := BitVec.ofNat 16 (par p 0 2)
  match streamBy s sid with
  | none => (some stRefusedConfig, s)
  | some k =>
    let x := streamOf s k
    match streamBinding s x with
    | none => (some stRefusedConfig, s)
    | some b =>
      if x.st ≠ .open then (some stRefusedConfig, s)
      else
        let s := loadsEnded sid (queueInit seq sid x b (modStream k (fun x => { x with st := .resetting }) s))
        (if (streamOf s k).st = .open then some stOk else none, s)

/-- STREAM_CLOSE begins (R160): at once while the tempo is stopped, otherwise it waits for the boundary. -/
def closeBegin (c : Cmd) (p : Packet) (s : State) : Option Status × State :=
  let sid := BitVec.ofNat 16 (par p 0 2)
  if (streamBy s sid).isNone then (some stRefusedConfig, s)
  else if tempoStopped s then (some stOk, closeStream sid s)
  else (none, { s with jobs := s.jobs ++ [.close c sid] })

/-- Whether a STATE_MOVE may go to its destination: the tiles there for an in-block binding. -/
def moveDestCheck (p : Packet) (x : Stream) (b : Binding) (s : State) : Status ⊕ List (Nat × Nat × Nat) :=
  match par p 3 1 with
  | 0 =>
    match bindingOf s (par p 4 1) (par p 6 2) with
    | none => .inl stRefusedConfig
    | some t =>
      if bindingHeld s (par p 4 1) (par p 6 2) x.sid ∨ t.tiles.length ≠ b.tiles.length ∨ t.comp ≠ b.comp then .inl stRefusedConfig
      else .inr t.tiles
  | 1 =>
    match objCurrent s (BitVec.ofNat 32 (par p 8 4)) with
    | none => .inl stEpochMismatch
    | some k =>
      let o := objOf s k
      if (resolveObj o true).isNone ∨ o.size * 4096 < imageBytes * (par p 12 4 + b.tiles.length) then .inl stRefusedConfig
      else .inr []
  | 2 => if 3 ≤ par p 16 1 ∨ (cwOf s (par p 16 1)).st ≠ .up ∨ (cwOf s (par p 16 1)).role = 3 then .inl stRefusedConfig else .inr []
  | _ => .inl stRefusedConfig

/-- STATE_MOVE begins (R153): the source tiles are FROZEN and the stream MOVING; the reads of the source tiles and, within the
block, the writes of the images are queued (R147). -/
def moveBegin (seq : Nat) (p : Packet) (s : State) : Option Status × State :=
  let sid := BitVec.ofNat 16 (par p 0 2)
  match streamBy s sid with
  | none => (some stRefusedConfig, s)
  | some k =>
    let x := streamOf s k
    match streamBinding s x with
    | none => (some stRefusedConfig, s)
    | some b =>
      if x.st ≠ .open ∨ 2 ≤ par p 2 1 then (some stRefusedConfig, s)
      else match moveDestCheck p x b s with
        | .inl st => (some st, s)
        | .inr dst =>
          let m : Move := { sid := sid, incoming := false, copy := decide (par p 2 1 = 1), dest := par p 3 1, plan := par p 4 1,
                            binding := par p 6 2, handle := BitVec.ofNat 32 (par p 8 4), offset := par p 12 4,
                            cw := par p 16 1, remoteSid := BitVec.ofNat 16 (par p 18 2), src := b.tiles, dst := dst,
                            readDone := 0, writeDone := 0, tierWr := 0 }
          let s := modTiles (fun t => { t with frozen := true }) b.tiles (modStream k (fun x => { x with st := .moving }) s)
          let s := { s with moves := s.moves ++ [m] }
          let s := b.tiles.zipIdx.foldl (fun s t => queuePort seq t.1 (.moveRead sid t.2) s) s
          (none, dst.zipIdx.foldl (fun s t => queuePort seq t.1 (.moveWrite sid t.2 none) s) s)

/-- Begin the first command that waits for a stream, if none is in progress; one that ends at once makes way for the next
(R161). -/
def streamNext (sid : BitVec 16) : Nat → State → State
  | 0, s => s
  | n + 1, s =>
    match streamJobOf s sid, s.streamJobs.find? fun j => decide (j.sid = sid) with
    | none, some j =>
      let s := { s with streamJobs := s.streamJobs.map fun i => if i = j then { i with started := true } else i }
      let r := if j.kind = sjOpen then openBegin j.seq j.p s else if j.kind = sjClose then closeBegin j.cmd j.p s
        else if j.kind = sjReset then resetBegin j.seq j.p s else moveBegin j.seq j.p s
      match r.1 with
      | none => r.2
      | some st => streamNext sid n (endStreamJob sid st 0 r.2)
    | _, _ => s

/-- A stream's command in progress has ended: it is answered, and the next one begins. -/
def streamEnd (sid : BitVec 16) (st : Status) (res : BitVec 96) (s : State) : State :=
  streamNext sid s.streamJobs.length (endStreamJob sid st res s)

/-- The checks at acceptance of a command that names a stream (R158 to R160, R499): the status that refuses it. A stream
whose STREAM_CLOSE has been accepted is no longer open to commands; one with a command in progress takes more (R161). -/
def streamCheck (kind : Nat) (p : Packet) (s : State) : Option Status :=
  let sid := BitVec.ofNat 16 (par p 0 2)
  if kind = sjOpen then openCheck p s
  else match streamBy s sid with
    | none => some stRefusedConfig
    | some k =>
      let x := streamOf s k
      if s.streamJobs.any fun j => decide (j.sid = sid ∧ j.kind = sjClose) then some stRefusedConfig
      else if kind = sjClose then none
      else match streamBinding s x with
        | none => some stRefusedConfig
        | some b =>
          if x.st = .awaiting then some stRefusedConfig
          else if kind = sjReset then resetCheck x b s
          else if 2 ≤ par p 2 1 then some stRefusedConfig
          else match moveDestCheck p x b s with
            | .inl st => some st
            | .inr _ => none

/-- A stream command at its acceptance: it is refused, or it starts when those before it on its stream have completed
(R161). -/
def streamCmd (kind : Nat) (c : Cmd) (p : Packet) (s : State) : State :=
  let sid := BitVec.ofNat 16 (par p 0 2)
  match streamCheck kind p s with
  | some st => reply c st s
  | none => streamNext sid (s.streamJobs.length + 1) { s with streamJobs := s.streamJobs ++ [⟨c, sid, p, kind, false, acceptNumber s⟩] }

/-- STREAM_OPEN. -/
def execStreamOpen (q : Fin 16) (p : Packet) (s : State) : Host.Outcome State Fault Refusal :=
  .next (acceptCmd 0x18 q.val p (fun c _ s => streamCmd sjOpen c p s) s)
/-- STREAM_CLOSE. -/
def execStreamClose (q : Fin 16) (p : Packet) (s : State) : Host.Outcome State Fault Refusal :=
  .next (acceptCmd 0x19 q.val p (fun c _ s => streamCmd sjClose c p s) s)
/-- STREAM_RESET. -/
def execStreamReset (q : Fin 16) (p : Packet) (s : State) : Host.Outcome State Fault Refusal :=
  .next (acceptCmd 0x1A q.val p (fun c _ s => streamCmd sjReset c p s) s)
/-- STATE_MOVE. -/
def execStateMove (q : Fin 16) (p : Packet) (s : State) : Host.Outcome State Fault Refusal :=
  .next (acceptCmd 0x1B q.val p (fun c _ s => streamCmd sjMove c p s) s)

/-! ## Moves -/

/-- The move of a stream, outgoing or incoming, that has not been rejected. -/
def moveOf (s : State) (sid : BitVec 16) (incoming : Bool) : Option Move :=
  s.moves.find? fun m => decide (m.sid = sid) && decide (m.incoming = incoming) && !m.rejected

/-- Whether a move that comes over a causeway for a stream has been rejected (R479). -/
def moveRefused (s : State) (c : Nat) (sid : BitVec 16) : Bool :=
  s.moves.any fun m => m.incoming && m.rejected && decide (m.cw = c) && decide (m.sid = sid)

/-- Change a move. -/
def modMove (sid : BitVec 16) (incoming : Bool) (g : Move → Move) (s : State) : State :=
  { s with moves := s.moves.map fun m => if m.sid = sid ∧ m.incoming = incoming then g m else m }

/-- Take a move away. -/
def dropMove (sid : BitVec 16) (incoming : Bool) (s : State) : State :=
  { s with moves := s.moves.filter fun m => !(decide (m.sid = sid) && decide (m.incoming = incoming)) }

/-- A move has completed at the source (R155). -/
def moveDone (sid : BitVec 16) (m : Move) (s : State) : State :=
  let s := dropMove sid false s
  match streamBy s sid with
  | none => streamEnd sid stOk 0 s
  | some k =>
    let s := if m.dest = 0 then
        let comp := match bindingOf s m.plan m.binding with
          | some b => b.comp
          | none => false
        modStream k (fun x => { x with
          st := .open, plan := m.plan, binding := BitVec.ofNat 16 m.binding, comp := comp, tiles := m.dst }) s
      else if m.copy then modStream k (fun x => { x with st := .open }) s
      else
        let s := if m.dest = 2 then modTiles (fun t => { t with invalid := true, frozen := false }) m.src s else s
        modStream k (fun _ => {}) s
    streamEnd sid stOk 0 s

/-- Whether a move has written everything, and completes if so. -/
def moveCheck (sid : BitVec 16) (s : State) : State :=
  match moveOf s sid false with
  | none => s
  | some m =>
    let n := m.src.length
    if m.readDone < n ∨ m.dest = 2 ∨ (m.dest = 0 ∧ m.writeDone < n) ∨ (m.dest = 1 ∧ (m.writeDone < n ∨ 0 < m.tierWr)) then s
    else moveDone sid m s

/-- The image for the write of tile `i` of a move within the block has been read. -/
def imageRead (sid : BitVec 16) (i : Nat) (img : List Entry) (s : State) : State :=
  match s.ports.find? fun x => decide (x.kind = .moveWrite sid i none) with
  | none => s
  | some x => portRequest x.pfen { s with ports := s.ports.map fun y => if y = x then { y with kind := .moveWrite sid i (some img) } else y }

/-- A source tile's image has been read (R153, R154): the tile is released as the mode says, and the image goes on. One for a
tier object whose handle is no longer current is dropped (log entry 117). -/
def moveRead (sid : BitVec 16) (i p a d : Nat) (s : State) : State :=
  match moveOf s sid false with
  | none => s
  | some m =>
    let s := portRead p a d s
    let t := tileOf (fenOf s p) a d
    let img := tileImage t
    let keep := m.copy || decide (m.dest = 2)
    let frozen := decide (m.dest = 2) && !m.copy
    let s := modFen p (fun f => putTile f a d { t with frozen := frozen, invalid := t.invalid || !keep }) s
    let s := modMove sid false (fun m => { m with readDone := m.readDone + 1 }) s
    if m.dest = 0 then imageRead sid i img s
    else if m.dest = 1 then
      let s := modMove sid false (fun m => { m with tierWr := m.tierWr + 1 }) s
      match objCurrent s m.handle with
      | none => s
      | some k =>
        let o := objOf s k
        let tier := (resolveObj o true).getD .a
        let addr := copyAddr o tier + imageBytes * (m.offset + i)
        let s := modObj k (fun o => { o with dirty := o.dirty || (decide (o.home = 1) && decide (tier = .a)) }) s
        if anyRank s .off (some tier) [addr] then
          dropTierWrite ((List.range 56).map fun r => addr + 128 * r) o.fmt.toNat o.sc s
        else tierWrite tier addr (entryBytes img) s
    else
      let rows := (List.range 56).map fun r => (rowOfBytes (((entryBytes img).drop (128 * r)).take 128), false)
      sendMessage m.cw (moveDest (partnerPos s m.cw) m.remoteSid.toNat i) rows s

/-- A moved tile's image has been written (R151, R155, R479). -/
def moveWritten (sid : BitVec 16) (s : State) : State :=
  match moveOf s sid true with
  | some m =>
    let s := modMove sid true (fun m => { m with writeDone := m.writeDone + 1 }) s
    if m.writeDone + 1 < m.dst.length then s
    else
      let s := match streamBy s sid with
        | some k => modStream k (fun x => { x with st := .open }) s
        | none => s
      let s := modCw m.cw (fun x => { x with answers := x.answers ++ [(0x05, sid, 7)] }) s
      dropMove sid true (sendCtrl m.cw 0x05 (sid.setWidth 2048) s)
  | none => if (moveOf s sid false).isNone then s
    else moveCheck sid (modMove sid false (fun m => { m with writeDone := m.writeDone + 1 }) s)

/-- STATE_MOVE_TIER_WRITE_DONE (R155): the tier engine has written one image of a move to a tier object. -/
def execStateMoveTierWriteDone (sid : BitVec 16) (s : State) : Host.Outcome State Fault Refusal :=
  match moveOf s sid false with
  | none => .next s
  | some m =>
    if m.tierWr = 0 then .next s
    else .next (moveCheck sid (modMove sid false (fun m => { m with tierWr := m.tierWr - 1, writeDone := m.writeDone + 1 }) s))

/-! ## The transfers themselves (R146 to R148) -/

/-- The CK in which a transfer of a fen may start (R147, R148), with `none` where it waits for another window or the
boundary. -/
def portStart (s : State) (x : PortXfer) : Option Nat :=
  let f := fenOf s x.pfen
  let t := max s.ck (arrOf f x.array).portTo
  if tempoStopped s || (x.due && s.tempo.actAt.isSome) then some t
  else
    let first := s.tempo.startCk + f.img.win.toNat % 2 ^ 16
    let len := f.img.win.toNat / 2 ^ 16
    let t := max t first
    if len = 0 ∨ first + len < t + 40 then none else some t

/-- A fen in RETAIN is woken to IDLE for what its state ports do (R531, R564). -/
def portWake (p : Nat) (s : State) : State :=
  if (fenOf s p).pwr.st = .retain then
    wakeFen p .retain false (modFen p (fun f => { f with pwr := { f.pwr with st := .idle, wakeFor := true } }) s)
  else s

/-- A transfer starts at CK `t`: the fen is awake, its port is taken for 40 CK (R146, R564). -/
def portBegin (x : PortXfer) (t : Nat) (s : State) : State :=
  let s := settle x.pfen (advanceCk t s)
  let s := portWake x.pfen s
  let s := spend x.pfen (32 * 38) (portBusy x.pfen x.array s)
  { s with ports := s.ports.map fun y => if y = x then { y with start := some t } else y }

/-- STATE_PORT_TRANSFER_START (R147): the next transfer of a fen starts. -/
def execStatePortTransferStart (p : Fin 72) (s : State) : Host.Outcome State Fault Refusal :=
  match s.ports.find? fun x => decide (x.pfen = p.val) && decide (x.start = none) with
  | none => .next s
  | some x =>
    let f := fenOf s p.val
    if !ckRuns s || decide (f.pwr.st = .off) || decide (f.pwr.phase ≠ .none) || portNoImage x.kind then .next s
    else match portStart s x with
      | none => .next s
      | some t => .next (portBegin x t s)

/-- The image that an initial-state load writes (R150, R151, R158): zero; or read through the handle, mired where it is no
longer current or no copy of its object can be read. -/
def initImage (s : State) (sid : BitVec 16) (image : Option Nat) (bad : List Nat) : List Entry :=
  match image, streamBy s sid with
  | some i, some k =>
    match objCurrent s (streamOf s k).initHandle with
    | none => List.replicate 1024 mirePattern
    | some o =>
      match resolveObj (objOf s o) false with
      | none => List.replicate 1024 mirePattern
      | some tier => imageWith bad (imageEntries (tierRead s tier (copyAddr (objOf s o) tier + imageBytes * i) imageBytes))
  | _, _ => List.replicate 1024 0

/-- A transfer ends: what it read or wrote takes effect. -/
def portFinish (x : PortXfer) (bad : List Nat) (s : State) : State :=
  let s := { s with ports := s.ports.erase x }
  match x.kind with
  | .init sid image =>
    let s := if bad ≠ [] ∧ image.isSome then bump 0x6050 1 s else s
    let s := loadTile x.pfen x.array x.depth (tileLoaded (initImage s sid image bad)) s
    let busy := match streamBy s sid with
      | some k => decide ((streamOf s k).st = .opening ∨ (streamOf s k).st = .resetting)
      | none => false
    let s := loadsEnded sid s
    let ended := match streamBy s sid with
      | some k => decide ((streamOf s k).st = .open)
      | none => true
    if busy && ended then streamEnd sid stOk 0 s else s
  | .moveRead sid i => moveCheck sid (moveRead sid i x.pfen x.array x.depth s)
  | .moveWrite sid _ ent => moveWritten sid (loadTile x.pfen x.array x.depth (tileLoaded (ent.getD [])) s)

/-- After a transfer a fen woken for it returns to RETAIN (R564). -/
def portSleep (p : Nat) (s : State) : State :=
  let f := fenOf s p
  if f.pwr.wakeFor && s.ports.all (fun x => decide (x.pfen ≠ p)) then
    pwrRequest p ⟨.retain, none⟩ (modFen p (fun f => { f with pwr := { f.pwr with wakeFor := false } }) s)
  else s

/-- The transfer of a fen that started first. -/
def portRunning (s : State) (p : Nat) : Option PortXfer := s.ports.find? fun x => decide (x.pfen = p) && x.start.isSome

/-- A transfer ends 40 CK after its start (R146). -/
def portEnd (x : PortXfer) (badRows : List Nat) (s : State) : State :=
  portSleep x.pfen (portFinish x badRows (settle x.pfen (advanceCk (x.start.getD 0 + 40) s)))

/-! ## Scrubbers -/

/-- The CK in which the state file of an array is in use by a state operation (Table 3-10): its issue, and the CK in which a
pending update writes, two for a compensated one. -/
def stateCks (f : Fen) (a : Nat) : List Nat :=
  (arrOf f a).stateCk.toList ++ f.pend.flatMap fun w => match w.wr with
    | .entries t _ _ => if t / 128 = a then tab (w.due - (w.seq / 4 + 4) + 1) fun k => w.seq / 4 + 4 + k else []
    | _ => []

/-- The first number from `k` on that is not in a list, of at most `n` tried. -/
def firstFree (l : List Nat) : Nat → Nat → Nat
  | 0, k => k
  | n + 1, k => if l.contains k then firstFree l n (k + 1) else k

/-- The next CK in which an array's scrubber may work (R138). -/
def scrubCk (s : State) (f : Fen) (a : Nat) : Nat :=
  let l := stateCks f a
  firstFree l l.length (max s.ck (max (arrOf f a).portTo (arrOf f a).scrubAt))

/-- STATE_SCRUB (R138, R139): one idle CK of an array's scrubber, in which it reads a depth or writes back the fields
that the read corrected. -/
def execStateScrub (p : Fin 72) (array : Fin 4) (s : State) : Host.Outcome State Fault Refusal :=
  let f := fenOf s p.val
  let a := array.val
  if !regBit s (fenWin p.val 0x510) 0 || !ckRuns s || decide (f.pwr.st = .retain ∨ f.pwr.st = .off) || f.resetUntil.isSome then .next s
  else
    let s := settle p.val (advanceCk (scrubCk s f a) s)
    let s := modFen p.val (fun f => putArr f a { arrOf f a with scrubAt := s.ck + 1 }) s
    let x := arrOf (fenOf s p.val) a
    let next (s : State) : State :=
      let s := modFen p.val (fun f => putArr f a { arrOf f a with scrub := (x.scrub + 1) % 128, scrubRead := none }) s
      if a = 0 ∧ x.scrub = 127 then
        let v := fenReg s p.val 0x510
        setFenReg p.val 0x510 ((v &&& 0xFFFF00FF#32) ||| ((v + 0x100#32) &&& 0xFF00#32)) s
      else s
    match x.scrubRead with
    | some l => .next (next (modFen p.val (fun f =>
        let t := tileOf f a x.scrub
        putTile f a x.scrub { t with err := l.foldl (fun m e => mapPut .ok m e .ok) t.err }) s))
    | none =>
      let t := tileOf (fenOf s p.val) a x.scrub
      let fixed := (t.err.filter fun e => decide (e.2 = .ce)).map (·.1)
      let s := portRead p.val a x.scrub s
      if fixed = [] then .next (next s)
      else .next (modFen p.val (fun f => putArr f a { x with scrubRead := some fixed }) s)

/-- The rows of a fen's buffers that are read or written in CK `k`, as far as it has begun or is set: what used them in the present
CK, the reads of the TLOAD that runs, and results on their way (R104, R115, R359). -/
def rowsUsed (f : Fen) (k : Nat) : List (BufId × Nat) :=
  (if f.useCk = k then f.useRows else [])
    ++ (f.loads.flatMap fun j => match j.start with
      | some c => if c ≤ k then ((List.range (min 2 (loadRows j.op - 2 * (k - c)))).map fun i =>
          (BufId.w, loadRowAt j.op (2 * (k - c) + i))) else []
      | none => [])
    ++ f.pend.filterMap fun w => if w.due ≠ k + 1 then none else match w.wr with
      | .prow r _ _ _ => some (.p, r)
      | .rowPart b r _ _ _ _ _ => some (b, r)
      | _ => none

/-- The first CK from `k` on, of at most `n` tried, in which the bank of a row has no read or write (R381). -/
def bankFree (f : Fen) (b : BufId) (row : Nat) : Nat → Nat → Nat
  | 0, k => k
  | n + 1, k =>
    let bank := Config.rowBank (bufCode b)
    if (rowsUsed f k).any fun x => decide (x.1 = b) && decide (bank x.2 = bank row) then bankFree f b row n (k + 1) else k

/-- BUFFER_SCRUB (R381): in the next CK in which the bank of its row has no read or write, the scrubber reads the row or, in a later
such CK, writes it back. -/
def execBufferScrub (p : Fin 72) (buf : BufId) (s : State) : Host.Outcome State Fault Refusal :=
  let f := fenOf s p.val
  if !regBit s (fenWin p.val 0xB08) 0 || !ckRuns s || bufsOff f || f.resetUntil.isSome then .next s
  else
    let row := (bufOf f buf).scrub
    let tries := 1 + f.pend.length + (f.loads.map fun j => loadCk j.op).sum
    let s := settle p.val (advanceCk (bankFree f buf row tries (max s.ck (bufOf f buf).scrubAt)) s)
    let s := modFen p.val (fun f => putBuf f buf { bufOf f buf with scrubAt := s.ck + 1 }) s
    let x := bufOf (fenOf s p.val) buf
    let last := decide (row + 1 = 32 * bufSlots buf)
    let next (s : State) : State :=
      let s := modFen p.val (fun f => let x := bufOf f buf
        putBuf f buf { x with scrub := if last then 0 else row + 1, scrubRead := none }) s
      if last ∧ buf = .a then
        let v := fenReg s p.val 0xB08
        setFenReg p.val 0xB08 ((v &&& 0xFFFF00FF#32) ||| ((v + 0x100#32) &&& 0xFF00#32)) s
      else s
    match x.scrubRead with
    | some l => .next (next (modFen p.val (fun f => let x := bufOf f buf
        putBuf f buf { x with err := l.foldl (fun m w => mapPut .ok m w .ok) x.err }) s))
    | none =>
      let fixed := (List.range 8).filter fun w => decide (mapGet .ok x.err (8 * row + w) = .ce)
      let s := touchRows p.val buf [row] s
      if fixed = [] then .next (next s)
      else .next (modFen p.val (fun f => let x := bufOf f buf
        putBuf f buf { x with scrubRead := some (fixed.map fun w => 8 * row + w) }) s)

end Sys2Proof.Machine
end

