-- ==== Sys2Proof/Machine/Snapshot.lean ====
section
/-!
DEFINITION. Snapshots, RESTORE and COMPARE, and the twin's digests (R529 to R542, R551 to R554).
-/

namespace Sys2Proof.Machine

/-! ## Digests and sketches (R533, R540) -/

/-- CRC-64 of ECMA-182, reflected, one bit. -/
def crc64Bit (c : BitVec 64) : BitVec 64 := if c.getLsbD 0 then (c >>> 1) ^^^ 0xC96C5795D7870F42#64 else c >>> 1

/-- `n` steps of it. -/
def crc64Bits : Nat → BitVec 64 → BitVec 64
  | 0, c => c
  | n + 1, c => crc64Bits n (crc64Bit c)

/-- The digest of bytes: initial value and final XOR all ones. -/
def crc64 (l : List Byte) : BitVec 64 :=
  ~~~(l.foldl (fun c b => crc64Bits 8 (c ^^^ b.setWidth 64)) (BitVec.allOnes 64))

/-- Sum of squares of compensated values, each square and each sum rounded to W40. -/
def sumSquares (l : List Entry) : W40 :=
  l.foldl (fun a e => (roundW40 (numAdd (w40v a) (w40v (roundW40 (numMul (entryValue e) (entryValue e))).1))).1) 0

/-- Rounded once to F32 (R69, OVF = 0). -/
def sketchWord (a : W40) : Word := BitVec.ofNat 32 (convert .f32 none false (w40v a)).1

/-- The sketch of a tile. -/
def tileSketch (l : List Entry) : Word := sketchWord (sumSquares l)

/-- The sketch of a fen: its tiles with MIRE and INVALID both 0, in tile order. -/
def fenSketch (f : Fen) : Word :=
  sketchWord ((f.tiles.filter fun t => !t.2.mire && !t.2.invalid).foldl (fun a t =>
    (roundW40 (numAdd (w40v a) (f32v (tileSketch ((List.range 1024).map (entryOf t.2)))))).1) 0)

/-! ## The image (R532) -/

/-- The first page of the digest table. -/
def imgTable : Nat := 57411

/-- The pfen of a logical fen whose tiles a snapshot can read: a fen that is OFF has none (R564). -/
def snapPfen (s : State) (n : Nat) : Option Nat := (pfenOf s n).filter fun p => decide ((fenOf s p).pwr.st ≠ .off)

/-- A tile by its index in an image, 512 · fen + 128 · array + depth; a logical fen without a pfen has INVALID tiles, and so
has one that is OFF. -/
def imgTile (s : State) (t : Nat) : Tile :=
  match snapPfen s (t / 512) with
  | some p => tileOf (fenOf s p) (t / 128 % 4) (t % 128)
  | none => {}

/-- The tile status map: bit 2t MIRE and bit 2t + 1 INVALID of tile t. -/
def imgStatus (s : State) : List Byte :=
  (List.range 8192).map fun i => BitVec.ofNat 8 (((List.range 4).map fun k =>
    let t := imgTile s (4 * i + k)
    ((if t.mire then 1 else 0) + (if t.invalid then 2 else 0)) * 4 ^ k).sum)

/-- Pages 1 to 57,410. -/
def imgBody (s : State) : List Byte :=
  imgStatus s ++ ((List.range 8192).map fun k => leBytes 32 (streamBits s (streamOf s k)).toNat).flatten
    ++ ((List.range 32768).map fun t => entryBytes (tileImage (imgTile s t))).flatten

/-- The block-section RWS registers in ascending order (R594, R595). -/
def rwsBlock : List Nat :=
  [0x100, 0x200, 0x208, 0x20C, 0x210, 0x214, 0x240, 0x1000, 0x1004, 0x1008, 0x100C, 0x1030, 0x1038, 0x103C, 0x5000]

/-- CW_UID. -/
def cwUid (s : State) : BitVec 64 := match s.plant.fuses with
  | some f => f.uid
  | none => 0

/-- The entry of a logical fen in the header. -/
def headFen (s : State) (n : Nat) : List Byte :=
  match pfenOf s n with
  | none => leBytes 4 0 ++ [0xFF#8, 1#8] ++ leBytes 2 0 ++ leBytes 2 512 ++ leBytes 6 0
  | some p =>
    let f := fenOf s p
    let f := if f.pwr.st = .off then { f with tiles := [] } else f
    let bad := f.tiles.filter fun t => t.2.mire
    let valid := f.tiles.filter fun t => !t.2.invalid
    leBytes 4 f.life.epoch.toNat ++ [BitVec.ofNat 8 p, if f.life.stale then 1#8 else 0#8] ++ leBytes 2 bad.length
      ++ leBytes 2 (512 - valid.length) ++ leBytes 2 0 ++ leBytes 4 (fenSketch f).toNat

/-- The header (Table 14-3) with FLAGS and MANIFEST as given. -/
def imgHeader (s : State) (tempo : BitVec 48) (source flags : Nat) (manifest : BitVec 64) : List Byte :=
  let pairs := rwsBlock.map fun o => leBytes 4 o ++ leBytes 4 (reg s o).toNat
  let free := List.replicate 49 (leBytes 4 0xFFFFFFFF ++ leBytes 4 0)
  leBytes 4 0x4E534E31 ++ leBytes 2 1 ++ leBytes 2 s.mapGen.toNat ++ leBytes 6 tempo.toNat
    ++ [BitVec.ofNat 8 source, BitVec.ofNat 8 flags] ++ leBytes 8 (cwUid s).toNat
    ++ leBytes 4 (s.ringId.toNat + s.ringPos.toNat * 2 ^ 4 + s.ringSize.toNat * 2 ^ 10) ++ leBytes 4 imgPages
    ++ leBytes 8 manifest.toNat ++ leBytes 2 (s.heron.score / 256) ++ List.replicate 470 0#8 ++ (pairs ++ free).flatten
    ++ ((List.range 64).map (headFen s)).flatten ++ List.replicate 2048 0#8

/-- A header with FLAGS bit 0 set and the manifest digest filled in. -/
def headComplete (h : List Byte) (manifest : BitVec 64) : List Byte :=
  h.take 15 ++ [h.getD 15 0#8 ||| 1#8] ++ (h.drop 16).take 16 ++ leBytes 8 manifest.toNat ++ h.drop 40

/-! ## Arming (R529, R535, R536) -/

/-- Change the snapshot's state. -/
def modSnap (g : Snap → Snap) (s : State) : State := { s with snap := g s.snap }

/-- The address of an area. -/
def areaAddr (s : State) (a : Nat) : Nat := (reg s (0x20C + 8 * a)).toNat * 2 ^ 32 + (reg s (0x208 + 8 * a)).toNat

/-- Whether an image at an address lies in tier B. -/
def imgFits (addr : Nat) : Bool := decide (addr % 4096 = 0 ∧ addr + imgBytes ≤ 2 ^ 40)

/-- The ranks that an image touches. -/
def imgRanks (addr : Nat) : List Nat := [rankAt addr, rankAt (addr + imgBytes - 1)].eraseDups

/-- Whether every rank that an image touches is ON. -/
def imgRanksOn (s : State) (addr : Nat) : Bool := (imgRanks addr).all fun r => decide ((rankOf s r).st = .on)

/-- An automatic snapshot is skipped (R535): 1 areas busy, 2 a rank that is not ON. -/
def snapSkip (why : Nat) (s : State) : State :=
  logAdd lkSnapSkipped 0x300 [why] (orReg 0x5130 4#32 (bump 0x22C 1 s))

/-- The area an automatic snapshot takes. -/
def snapArea (x : Snap) : Option Nat :=
  let first := match x.lastArea with
    | some 0 => 1
    | _ => 0
  let busy (a : Nat) : Bool := if a = 0 then x.busy0 else x.busy1
  if !busy first then some first else if !busy (1 - first) then some (1 - first) else none

/-- SNAP_CTRL.RING_INTERVAL. -/
def ringInterval (s : State) : Nat := regBits s 0x200 31 16

/-- Whether a snapshot of tempo `n` is an interval snapshot (R552). -/
def isInterval (s : State) (n : BitVec 48) : Bool :=
  decide (ringInterval s ≠ 0) && decide (n.toNat % ringInterval s = ringInterval s - 1)

/-- The first page of an image that lies in a rank that is OFF. -/
def offPage (s : State) (addr : Nat) : Option Nat :=
  (List.range imgPages).find? fun k => decide ((rankOf s (rankAt (addr + 4096 * k))).st = .off)

/-- A snapshot has failed at a page (R537): the header is left without COMPLETE. -/
def snapFail (page : Nat) (cmd : Option Cmd) (s : State) : State :=
  let addr := s.snap.addr
  let s := if (rankOf s (rankAt addr)).st = .off then s else tierWrite .b addr s.snap.header s
  let s := logAdd lkSnapFailed 0x300 [page] (modSnap (fun x => { x with lastFailed := true, draining := false, cmd := none }) s)
  match cmd with
  | some c => reply c stDeadBank s
  | none => s

/-- The freeze (R531): the image of the state that tempo `n` left goes to tier B page by page, up to a rank that is OFF. An
automatic snapshot is the previous one for R535 from here on, also one that fails (DEDUCED, log entry 47). -/
def snapFreeze (addr : Nat) (area : Option Nat) (source : Nat) (cmd : Option Cmd) (n : BitVec 48) (s : State) : State :=
  let fens := (List.range 64).filterMap (snapPfen s)
  let s := fens.foldl (fun s p =>
    (List.range 512).foldl (fun s t => portRead p (t / 128) (t % 128) s) (spend p (512 * 32 * 38) (portWake p (settle p s)))) s
  let sk := (List.range 64).map fun k => match snapPfen s k with
    | some p => fenSketch (fenOf s p)
    | none => 0
  let mired := fens.any fun p => (fenOf s p).tiles.any fun t => t.2.mire
  let iv := isInterval s n
  let h := imgHeader s n source ((if iv then 2 else 0) + (if mired then 4 else 0)) 0
  let body := imgBody s
  let s := modSnap (fun x => { x with
    draining := true, addr := addr, area := area, source := BitVec.ofNat 2 source, interval := iv, cmd := cmd, tempo := n,
    mired := mired, lastArea := area.or x.lastArea, header := h, sketches := sk, score := BitVec.ofNat 16 (s.heron.score / 256), began := s.now }) s
  match offPage s addr with
  | none => tierWrite .b (addr + 4096) body s
  | some k => snapFail k cmd (tierWrite .b (addr + 4096) (body.take (4096 * (k - 1))) s)

/-- Take the snapshot that is armed for a boundary that ends tempo `n` (R529, R530, R535); `flagged` says that the boundary is
the flagged one of a ring-wide hold. Nothing is taken where none is armed. -/
def snapTake (flagged : Bool) (n : BitVec 48) (s : State) : State :=
  let x := s.snap
  let auto := x.armedAuto || (flagged && (regBit s 0x200 1 || isInterval s n))
  let source := if x.armedAuto then 1 else if isInterval s n then 3 else 2
  match x.armedCmd with
  | some (c, addr) => snapFreeze addr none 0 (some c) n (modSnap (fun x => { x with armedCmd := none, armedAuto := false }) s)
  | none =>
    if !auto then s
    else
      let s := modSnap (fun x => { x with armedAuto := false }) s
      match snapArea x with
      | none => snapSkip 1 s
      | some a =>
        if !imgFits (areaAddr s a) || !imgRanksOn s (areaAddr s a) then snapSkip 2 s
        else snapFreeze (areaAddr s a) (some a) source none n s

/-- The last completed tempo, where no segment runs. -/
def lastTempo (s : State) : BitVec 48 := if s.tempo.first then s.tempo.count - 1 else s.tempo.count

/-- SNAPSHOT: armed for the next boundary or the flagged one, or taken at once while the tempo is stopped. -/
def execSnapshot (q : Fin 16) (p : Packet) (s : State) : Host.Outcome State Fault Refusal :=
  .next (acceptCmd 0x30 q.val p (fun c _ s =>
    let addr := par p 0 8
    if par p 8 4 < imgPages ∨ addr % 4096 ≠ 0 ∨ 2 ^ 40 < addr + 4096 * par p 8 4 ∨ !ranksOn s addr (4096 * par p 8 4) ∨ s.snap.armedCmd.isSome
        ∨ (tempoStopped s ∧ s.snap.draining) then reply c stRefusedConfig s
    else
      let s := modSnap (fun x => { x with armedCmd := some (c, addr) }) s
      if tempoStopped s then snapTake false (lastTempo s) s else ringRequest holdSnapshot s) s)

/-! ## The twin (R552 to R554) -/

/-- Change the twin's state. -/
def modTwin (g : Twin → Twin) (s : State) : State := { s with twin := g s.twin }

/-- The newest four entries. -/
def keepFour (l : List TwinDigest) : List TwinDigest := l.drop (l.length - 4)

/-- The block's own digests it keeps: R554 waits TIMEOUT tempos on each, and R553 bounds only the partner's, so that an older
one goes once it has been reported missing (DEDUCED, log entry 48). -/
def keepOwn (l : List TwinDigest) : List TwinDigest :=
  (l.take (l.length - 4)).filter (fun d => !d.late) ++ keepFour l

/-- The test of R541 on two sketches under `eps`: both finite, and near. -/
def sketchNear (eps : Num) (a b : Word) : Bool :=
  let x := f32v a
  let y := f32v b
  match x, y with
  | .fin _ _ _, .fin _ _ _ => !numLt (numMul eps (if numLt x y then y else x)) (numAbs (numSub x y))
  | _, _ => false

/-- Sketches k of 32 in a DIGEST frame. -/
def sketchAt (v : BitVec 1024) (k : Nat) : Word := BitVec.ofNat 32 (v.toNat / 2 ^ (32 * k))

/-- Whether two sets of 32 sketches are near, equal where they are not finite. -/
def sketchesNear (eps : Num) (a b : BitVec 1024) : Bool :=
  (List.range 32).all fun k => decide (sketchAt a k = sketchAt b k) || sketchNear eps (sketchAt a k) (sketchAt b k)

/-- The comparison of R553: 1 MATCH, 2 TOLERANT_MATCH, 3 MISMATCH; `none` while some frame is missing. -/
def twinResult (s : State) (a b : TwinDigest) : Option Nat :=
  match a.manifest, b.manifest, a.sk0, b.sk0, a.sk1, b.sk1 with
  | some x, some y, some a0, some b0, some a1, some b1 =>
    let eps := Num.fin false 1 (-(regBits s 0x240 13 8 : Nat))
    some (if x.1 = y.1 then 1
      else if regBit s 0x240 1 && decide (x.2.1 = y.2.1) && sketchesNear eps a0 b0 && sketchesNear eps a1 b1 then 2 else 3)
  | _, _, _, _, _, _ => none

/-- Compare the digests of a tempo when both blocks' are held. -/
def twinCompare (n : BitVec 48) (s : State) : State :=
  match s.twin.own.find? fun d => decide (d.tempo = n), s.twin.partner.find? fun d => decide (d.tempo = n) with
  | some a, some b =>
    match twinResult s a b, b.manifest with
    | some r, some y =>
      let s := setReg 0x250 (y.2.2.setWidth 32) (modTwin (fun x => { x with
        result := BitVec.ofNat 2 r, missing := false, tempo := n, risk := y.2.2,
        own := x.own.filter fun d => decide (d.tempo ≠ n), partner := x.partner.filter fun d => decide (d.tempo ≠ n) }) s)
      if r = 3 then
        let m (d : TwinDigest) : Nat := (d.manifest.map fun x => x.1.toNat).getD 0
        logAdd lkTwinMismatch 0x300 [n.toNat % 2 ^ 32, n.toNat / 2 ^ 32, m a % 2 ^ 32, m a / 2 ^ 32, m b % 2 ^ 32, m b / 2 ^ 32]
          (bump 0x254 1 s)
      else s
    | _, _ => s
  | _, _ => s

/-- A DIGEST frame of `payload` bits (Table 14-5) joins C2. -/
def sendDigest (payload : Nat) (s : State) : State :=
  sendFrame 2 { kind := frDigest, ts := 0, payload := BitVec.ofNat 2048 payload } s

/-- 32 sketches as bits. -/
def sketchBits (l : List Word) : BitVec 1024 := BitVec.ofNat 1024 ((l.zipIdx.map fun x => x.1.toNat * 2 ^ (32 * x.2)).sum)

/-- An interval snapshot has completed: its DIGEST frames go to the twin, and its digests are kept. -/
def twinSend (manifest context : BitVec 64) (s : State) : State :=
  let x := s.snap
  if x.interval && regBit s 0x240 0 && decide ((cwOf s 2).role = 2) && decide ((cwOf s 2).st = .up) then
    let k0 := sketchBits (x.sketches.take 32)
    let k1 := sketchBits (x.sketches.drop 32)
    let d : TwinDigest := ⟨x.tempo, some (manifest, context, x.score), some k0, some k1, s.tempo.count.toNat, false⟩
    let s := sendDigest (x.tempo.toNat + manifest.toNat * 2 ^ 64 + context.toNat * 2 ^ 128 + x.score.toNat * 2 ^ 192) s
    let s := sendDigest (x.tempo.toNat + 2 ^ 48 + k0.toNat * 2 ^ 64) s
    let s := sendDigest (x.tempo.toNat + 2 * 2 ^ 48 + k1.toNat * 2 ^ 64) s
    twinCompare x.tempo (modTwin (fun t => { t with own := keepOwn (t.own ++ [d]) }) s)
  else s

/-- A DIGEST frame that has passed its lane's checks (R553). -/
def digestArrive (pl : BitVec 2048) (s : State) : State :=
  let v := pl.toNat
  let n := BitVec.ofNat 48 v
  let l := s.twin.partner
  let l := if l.any fun d => decide (d.tempo = n) then l else keepFour (l ++ [⟨n, none, none, none, 0, false⟩])
  let put (d : TwinDigest) : TwinDigest :=
    if d.tempo ≠ n then d
    else match v / 2 ^ 48 % 16 with
      | 0 => { d with manifest := some (BitVec.ofNat 64 (v / 2 ^ 64), BitVec.ofNat 64 (v / 2 ^ 128), BitVec.ofNat 16 (v / 2 ^ 192)) }
      | 1 => { d with sk0 := some (BitVec.ofNat 1024 (v / 2 ^ 64)) }
      | 2 => { d with sk1 := some (BitVec.ofNat 1024 (v / 2 ^ 64)) }
      | _ => d
  twinCompare n (modTwin (fun t => { t with partner := l.map put }) s)

/-- TWIN_MISSING_TIMEOUT (R554): the oldest of the block's own digests has waited TIMEOUT tempos for the partner's. -/
def execTwinMissingTimeout (s : State) : Host.Outcome State Fault Refusal :=
  match s.twin.own.find? fun d => !d.late && decide (d.since + regBits s 0x240 31 16 ≤ s.tempo.count.toNat) with
  | none => .next s
  | some d => .next (logAdd lkTwinMissing 0x300 [d.tempo.toNat % 2 ^ 32, d.tempo.toNat / 2 ^ 32] (modTwin (fun t => { t with
      missing := true, own := t.own.map fun x => if x.tempo = d.tempo then { x with late := true } else x }) s))

/-! ## Completion (R533, R537) -/

/-- The digest of page `k` of an image in tier B. -/
def pageDigest (s : State) (addr k : Nat) : BitVec 64 := crc64 (tierRead s .b (addr + 4096 * k) 4096)

/-- The drain and the digests are complete: the header, the digest table, the registers and the reply. -/
def snapDone (s : State) : State :=
  let x := s.snap
  let digs := ((List.range (imgTable - 1)).map fun k => leBytes 8 (pageDigest s x.addr (k + 1)).toNat).flatten
  let manifest := crc64 digs
  let context := crc64 (digs.take (8 * 66))
  let h := headComplete x.header manifest
  let table := leBytes 8 (crc64 h).toNat ++ digs
  let pad := List.replicate (4096 * (imgPages - imgTable) - table.length) 0#8
  let s := tierWrite .b (x.addr + 4096 * imgTable) (table ++ pad) (tierWrite .b x.addr h s)
  let s := orReg 0x5130 2#32 (bump 0x228 1 s)
  let s := modSnap (fun y => { y with
    draining := false, cmd := none, header := [], lastSource := x.source, lastMired := x.mired, lastFailed := false,
    busy0 := y.busy0 || decide (x.area = some 0), busy1 := y.busy1 || decide (x.area = some 1),
    snapTempo := x.tempo, digest := manifest }) s
  let s := twinSend manifest context s
  let s := match x.cmd with
    | some c => replyWith c (if x.mired then stMired else stOk) true (BitVec.ofNat 96 (manifest.toNat + x.tempo.toNat % 2 ^ 32 * 2 ^ 64)) s
    | none => s
  (s.fens.map (·.1)).foldl (fun s p => portSleep p s) s

/-- The least time that a drain takes, one row of 128 B per FK (R534), in State's units. -/
def drainUnits : Nat := imgPages * 32 * 5 / 2

/-! ## Restore and comparison (R538 to R542) -/

/-- Whether the header of an image says that it is complete. -/
def headOk (s : State) (addr : Nat) : Bool :=
  let h := tierRead s .b addr 32
  imgFits addr && imgRanksOn s addr && decide (leNat (h.take 4) = 0x4E534E31) && decide (leNat ((h.drop 4).take 2) = 1)
    && (h.getD 15 0#8).getLsbD 0 && decide (leNat ((h.drop 28).take 4) = imgPages)

/-- The entry of page `k` in an image's digest table. -/
def tableEntry (s : State) (addr k : Nat) : BitVec 64 := BitVec.ofNat 64 (leNat (tierRead s .b (addr + 4096 * imgTable + 8 * k) 8))

/-- Whether a page of an image agrees with its digest. -/
def pageOk (s : State) (addr k : Nat) : Bool := decide (pageDigest s addr k = tableEntry s addr k)

/-- The status bits recorded for a tile, MIRE and INVALID. -/
def recStatus (s : State) (addr t : Nat) : Nat := ((tierRead s .b (addr + 4096 + t / 4) 1).headD 0#8).toNat / 4 ^ (t % 4) % 4

/-- The bytes recorded for a tile. -/
def recTile (s : State) (addr t : Nat) : List Byte := tierRead s .b (addr + 4096 * 67 + imageBytes * t) imageBytes

/-- The pages in which a tile's bytes lie. -/
def tilePages (t : Nat) : List Nat := [67 + imageBytes * t / 4096, 67 + (imageBytes * t + 4096) / 4096, 67 + (imageBytes * t + imageBytes - 1) / 4096]

/-- Whether a STATE_MOVE is in progress on a tile of a fen, or of any fen. -/
def moveTouches (s : State) (n : Option Nat) : Bool :=
  (s.moves.filter fun m => !m.rejected).any fun m => match n with
    | none => true
    | some k => (m.src ++ m.dst).any fun t => decide (t.1 = k)

/-- Whether the one fen that a RESTORE names is OFF (R564). -/
def restoreOff (s : State) (n : Option Nat) : Bool :=
  match n.bind fun k => pfenOf s k with
  | some p => decide ((fenOf s p).pwr.st = .off)
  | none => false

/-- RESTORE: it is refused, or its pages are read. -/
def execRestore (q : Fin 16) (p : Packet) (s : State) : Host.Outcome State Fault Refusal :=
  .next (acceptCmd 0x31 q.val p (fun c t s =>
    let n : Option Nat := match t with
      | .fen n => some n
      | _ => none
    let lost := match n with
      | some n => (pfenOf s n).isNone
      | none => false
    if !noSegment s || lost || moveTouches s n || !headOk s (par p 0 8) then reply c stRefusedConfig s
    else if restoreOff s n then reply c stRefusedPower s
    else { s with images := s.images ++ [⟨c, false, n, par p 0 8, 0, false, false, 0, []⟩] }) s)

/-- The plan that has a binding at an index, for a context that was restored. -/
def planWith (s : State) (ix : Nat) : Option (Nat × Binding) :=
  (plansOf s).findSome? fun x => (x.2.bindings.find? fun b => decide (b.index = ix)).map fun b => (x.1, b)

/-- A stream context of 32 recorded bytes. -/
def streamOfBits (s : State) (v : Nat) : Stream :=
  let ix := v / 2 ^ 32 % 2 ^ 16
  let b := planWith s ix
  let st : StreamSt := match v / 2 ^ 16 % 8 with
    | 0 => .closed
    | 1 => .opening
    | 3 => .resetting
    | 5 => .awaiting
    | _ => .open
  if st = .closed then {}
  else { sid := BitVec.ofNat 16 v, st := st, comp := decide (v / 2 ^ 19 % 2 = 1), initMode := BitVec.ofNat 2 (v / 2 ^ 20),
         binding := BitVec.ofNat 16 ix, initHandle := BitVec.ofNat 32 (v / 2 ^ 64), initOffset := BitVec.ofNat 32 (v / 2 ^ 96),
         position := BitVec.ofNat 48 (v / 2 ^ 128), plan := (b.map (·.1)).getD 0, tiles := (b.map fun x => x.2.tiles).getD [] }

/-- A block target replaces every stream context; those OPENING or RESETTING run their loads again (R539). -/
def restoreStreams (addr : Nat) (s : State) : State :=
  (List.range 8192).foldl (fun s k =>
    let x := streamOfBits s (leNat (tierRead s .b (addr + 4096 * 3 + 32 * k) 32))
    let s := modStream k (fun _ => x) s
    match planWith s x.binding.toNat with
    | some (_, b) => if x.st = .opening ∨ x.st = .resetting then queueInit (acceptNumber s) x.sid x b s else s
    | none => s) { s with ports := s.ports.filter fun t => match t.kind with
      | .init _ _ => false
      | _ => true }

/-- Stream commands in progress whose context a RESTORE has replaced: one that opens or resets a stream which loads no more is
answered as its context now is (log entry 123). -/
def restoreJobs (s : State) : State :=
  (s.streamJobs.filter fun j => j.started && decide (j.kind = sjOpen ∨ j.kind = sjReset)).foldl (fun s j =>
    match (streamBy s j.sid).map fun k => (streamOf s k).st with
    | some .opening => s
    | some .resetting => s
    | some .open => streamEnd j.sid stOk 0 s
    | _ => streamEnd j.sid stRefusedConfig 0 s) s

/-- One more tile passes through the state port of an array, after what the port already has to do (R146). -/
def portAlso (p a : Nat) (s : State) : State :=
  spend p (32 * 38) (modFen p (fun f => putArr f a { arrOf f a with portTo := max (arrOf f a).portTo s.ck + 40 }) s)

/-- Load a tile of a fen whose recorded INVALID is 0 from its image, of which the rows `bad` of 128 B were read with an
uncorrectable error (R151, R421); mired where a page fails its digest; whether it is mired so. -/
def restoreTile (addr n p : Nat) (bad : List (Nat × List Nat)) (d : Nat) (r : Bool × State) : Bool × State :=
  let t := 512 * n + d
  if 2 ≤ recStatus r.2 addr t then r
  else
    let lost := (tilePages t).any fun k => !pageOk r.2 addr k
    let rows := (bad.filter fun x => decide (x.1 = t)).flatMap (·.2)
    let ent := if lost then List.replicate 1024 mirePattern else imageWith rows (imageEntries (recTile r.2 addr t))
    let s := bump 0x6050 (if rows.isEmpty then 0 else 1) r.2
    (r.1 || lost || !rows.isEmpty, loadTile p (d / 128) (d % 128) (tileLoaded ent) (portAlso p (d / 128) s))

/-- Load the tiles of a logical fen; whether one was mired for its bytes. -/
def restoreFen (addr : Nat) (bad : List (Nat × List Nat)) (n : Nat) (r : Bool × State) : Bool × State :=
  match pfenOf r.2 n with
  | none => r
  | some p =>
    if (fenOf r.2 p).pwr.st = .off then r
    else
      let r := (List.range 512).foldl (fun r d => restoreTile addr n p bad d r) (r.1, portWake p (settle p r.2))
      (r.1, modFen p (fun f => { f with life := { f.life with restored := true } }) r.2)

/-- The CK in which the state ports of some fens have done what they have to do. -/
def portsEnd (s : State) (fens : List Nat) : Nat :=
  (fens.flatMap fun p => (fenOf s p).arrays.map (·.2.portTo)).foldl max s.ck

/-- RESTORE_LOAD_DONE (R539): the contexts and tiles have been loaded, each tile through its port (R146). -/
def execRestoreLoadDone (s : State) : Host.Outcome State Fault Refusal :=
  match s.images.find? fun j => !j.compare && ckRuns s with
  | none => .next s
  | some j =>
    let s := { s with images := s.images.erase j }
    match (List.range 67).find? fun k => !pageOk s j.addr1 k with
    | some k => .next (replyWith j.cmd stCompareMismatch true (BitVec.ofNat 96 k) s)
    | none =>
      let s := if j.target.isNone then restoreJobs (restoreStreams j.addr1 s) else s
      let fens := match j.target with
        | some n => [n]
        | none => List.range 64
      let r := fens.foldl (fun r n => restoreFen j.addr1 j.badRows n r) (false, s)
      let pf := fens.filterMap (pfenOf r.2)
      let s := pf.foldl (fun s p => portSleep p s) (advanceCk (portsEnd r.2 pf) r.2)
      .next (reply j.cmd (if r.1 then stMired else stOk) s)

/-- COMPARE: it is refused, or its images are read. -/
def execCompare (q : Fin 16) (p : Packet) (s : State) : Host.Outcome State Fault Refusal :=
  .next (acceptCmd 0x32 q.val p (fun c _ s =>
    if 2 ≤ par p 16 1 ∨ 2 ≤ par p 17 1 ∨ !headOk s (par p 0 8) ∨ !headOk s (par p 8 8) then reply c stRefusedConfig s
    else
      let eps := if par p 20 4 = 0 then 0x35800000#32 else BitVec.ofNat 32 (par p 20 4)
      { s with images := s.images ++ [⟨c, true, none, par p 0 8, par p 8 8, decide (par p 16 1 = 1), decide (par p 17 1 = 1), eps, []⟩] }) s)

/-- RESULT of COMPARE: page or tile, kind, failing image. -/
def compareResult (at_ kind image : Nat) : BitVec 96 := BitVec.ofNat 96 (at_ + kind * 2 ^ 32 + image * 2 ^ 40)

/-- How a tile of two images fails TOLERANT: kind 2 or 3, `none` where it passes (R541). -/
def tileCompare (s : State) (a b t : Nat) (eps : Num) : Option Nat :=
  if recStatus s a t ≠ recStatus s b t then some 2
  else
    let x := recTile s a t
    let y := recTile s b t
    if x = y ∨ sketchNear eps (tileSketch (imageEntries x)) (tileSketch (imageEntries y)) then none else some 3

/-- The outcome of COMPARE (Table 14-4). -/
def compareImages (s : State) (j : ImageJob) : Status × BitVec 96 :=
  let a := j.addr1
  let b := j.addr2
  let bad (addr : Nat) : Option Nat := if j.verify then (List.range imgTable).find? fun k => !pageOk s addr k else none
  match bad a, bad b with
  | some k, _ => (stCompareMismatch, compareResult k 4 1)
  | none, some k => (stCompareMismatch, compareResult k 4 2)
  | none, none =>
    match ((List.range imgTable).drop 1).find? fun k => decide (tableEntry s a k ≠ tableEntry s b k) with
    | none => (stOk, 0)
    | some k =>
      if k ≤ 66 ∨ !j.tolerant then (stCompareMismatch, compareResult k 1 0)
      else match (List.range 32768).findSome? fun t => (tileCompare s a b t (f32v j.eps)).map fun x => (t, x) with
        | none => (stCompareTolerant, compareResult k 0 0)
        | some (t, 2) => (stCompareMismatch, compareResult (1 + t / 16384) 2 0)
        | some (t, x) => (stCompareMismatch, compareResult t x 0)

/-- COMPARE_DONE (R542). -/
def execCompareDone (s : State) : Host.Outcome State Fault Refusal :=
  match s.images.find? fun j => j.compare with
  | none => .next s
  | some j =>
    let r := compareImages s j
    .next (replyWith j.cmd r.1 true r.2 { s with images := s.images.erase j })

end Sys2Proof.Machine
end

