-- ==== Sys2Proof/Machine/Commit.lean ====
section
/-!
DEFINITION. COMMIT and the shadow registers (R510 to R513, Table 13-10), with the budgets that it and LOAD_PLAN check.
-/

namespace Sys2Proof.Machine

/-! ## Budgets under a configuration -/

/-- A field of a register of a configuration. -/
def cfgBits (m : SMap (Option Word)) (off hi lo : Nat) : Nat := bitsOf (fileGet m off) hi lo

/-- PERIOD of a configuration. -/
def cfgPeriod (m : SMap (Option Word)) : Nat := cfgBits m 0x1004 15 0

/-- The segment budget B in CK (R300). -/
def budgetCk (m : SMap (Option Word)) : Nat := (cfgPeriod m - cfgBits m 0x1008 11 0) * 45 / 2 - 96

/-- The least MARGIN (Table 8-4a). -/
def minMargin (m : SMap (Option Word)) : Nat :=
  let n := cfgBits m 0x1000 10 8
  if cfgBits m 0x1000 1 0 = 0 then max 1 (8 * n) else 4 + 8 * n + (cfgPeriod m + 4999) / 5000

/-- The frames that a link may carry in a tempo (R482). -/
def frameLimit (s : State) (period c : Nat) : Nat :=
  let rtt := (cwOf s c).rtt.toNat
  if 2176 * 512 ≤ rtt * 100 then 72 * period * 512 / rtt else 72 * period * 100 / 2176

/-- The message frames and the carries of loaded plans on a link in a tempo. -/
def planTraffic (l : List (Nat × Plan)) (c : Nat) : Nat × Nat :=
  ((l.map fun x => x.2.frames.getD c 0).sum, (l.map fun x => x.2.frames.getD (c + 3) 0).sum)

/-- The frames that loaded plans send on a link in a tempo, with those reserved (R482). -/
def framesOn (l : List (Nat × Plan)) (c : Nat) : Nat := 4 + (planTraffic l c).1 + (43 * (planTraffic l c).2 + 1) / 2

/-- Bytes reserved on tiers A and B (R423). -/
def tierReserved (l : List (Nat × Plan)) : Nat × Nat := ((l.map fun x => x.2.tierA).sum, (l.map fun x => x.2.tierB).sum)

/-- Whether reservations fit a period (Table 11-2). -/
def tiersFit (period : Nat) (l : List (Nat × Plan)) : Bool :=
  decide ((tierReserved l).1 ≤ 64800 * period) && decide ((tierReserved l).2 ≤ 4140 * period)

/-- Whether the frames of loaded plans fit every link. -/
def framesFit (s : State) (period : Nat) (l : List (Nat × Plan)) : Bool :=
  (List.range 3).all fun c => decide (planTraffic l c = (0, 0)) || decide (framesOn l c ≤ frameLimit s period c)

/-- Energy of loaded plans in a tempo, in pJ. -/
def plansPj (l : List (Nat × Plan)) : Nat := (l.map fun x => x.2.energyPj).sum

/-- R570: E_plans + 38.99 W × T ≤ PWR_CAP × T, in pJ, T being PERIOD × 10 ns. -/
def powerFits (m : SMap (Option Word)) (pj : Nat) : Bool :=
  decide (pj + 389900 * cfgPeriod m ≤ 1000 * cfgBits m 0x5000 11 0 * cfgPeriod m)

/-! ## COMMIT -/

/-- The offsets of the RWS registers (R594): those of the block sections, and NUM_SR_SEED of every fen. -/
def rwsAll : List Nat := rwsBlock ++ (List.range 72).map fun p => fenWin p 0x41C

/-- Whether an area's address passes R536. -/
def areaOk (m : SMap (Option Word)) (a : Nat) : Bool :=
  imgFits ((fileGet m (0x20C + 8 * a)).toNat * 2 ^ 32 + (fileGet m (0x208 + 8 * a)).toNat)

/-- The checks of Table 13-10 with the register that each concerns, in ascending order of offset. -/
def commitChecks (s : State) (m : SMap (Option Word)) : List (Nat × Bool) :=
  let l := plansOf s
  let period := cfgPeriod m
  let tree := cfgBits m 0x100 0 0
  let link := (List.range 4).all fun i => decide (cfgBits m 0x1000 i i = regBits s 0x1000 i i)
  [(0x100, decide (tree = regBits s 0x100 0 0) || s.spareTree),
   (0x208, areaOk m 0), (0x210, areaOk m 1),
   (0x1000, link || tempoStopped s),
   (0x1004, decide (200 ≤ period ∧ period ≤ 50000) && l.all (fun x => decide (x.2.worst ≤ budgetCk m)) && tiersFit period l
      && framesFit s period l && (decide (period = regBits s 0x1004 15 0) || powerFits m (plansPj l))),
   (0x1008, decide (minMargin m ≤ cfgBits m 0x1008 11 0 ∧ 2 * cfgBits m 0x1008 11 0 < period)),
   (0x100C, decide (100 ≤ cfgBits m 0x100C 15 0 ∧ cfgBits m 0x100C 15 0 ≤ 2000)),
   (0x5000, l.isEmpty || powerFits m (plansPj l))]

/-- A set takes effect: RWS registers, the generators of every fen, whose NUM_SR_SEED takes effect with it (R79, R510), and the
active carry tree (R212). -/
def applySet (m : SMap (Option Word)) (s : State) : State :=
  let reseed (s : State) (p : Nat) : State :=
    modFen p (fun f => { f with seed := fileGet m (fenWin p 0x41C), gens := [] }) s
  let s := (List.range 72).foldl reseed s
  let s := rwsAll.foldl (fun s o => setReg o (fileGet m o) s) s
  modPlant (fun x => { x with treeActive := decide (cfgBits m 0x100 0 0 = 1) }) s

/-- COMMIT: refused, pending until a boundary, or in effect at once while the tempo is stopped. -/
def execCommit (q : Fin 16) (p : Packet) (s : State) : Host.Outcome State Fault Refusal :=
  .next (acceptCmd 0x0A q.val p (fun c _ s =>
    match (commitChecks s s.shadow).find? fun x => !x.2 with
    | some x => replyWith c stRefusedConfig true (BitVec.ofNat 96 x.1) s
    | none =>
      if tempoStopped s then reply c stOk (applySet s.shadow s)
      else { s with pendSet := some s.shadow, jobs := s.jobs ++ [.commit c] }) s)

end Sys2Proof.Machine
end

