-- ==== Sys2Proof/Machine/Link.lean ====
section
/-!
DEFINITION. The causeways' links (R450, R460 to R471, R487 to R491): their states, training, roles and addresses, echoes,
heartbeats and resets. Frames and lanes are in Lane.lean.
-/

namespace Sys2Proof.Machine

/-! ## Reasons of a DOWN (Table 12-14) -/

def downLane : Nat := 3
def downCaps : Nat := 4
def downRole : Nat := 5
def downAddress : Nat := 6
def downStepping : Nat := 7
def downCommand : Nat := 8

/-! ## What a link loses (R466, R477, R479) -/

/-- A lane of a causeway. -/
def laneOf (x : Causeway) (i : Nat) : Lane := mapGet {} x.lanes i

/-- Change a lane. -/
def modLane (c i : Nat) (g : Lane → Lane) (s : State) : State :=
  modCw c (fun x => { x with lanes := mapPut {} x.lanes i (g (laneOf x i)) }) s

/-- The message number and the fragment number of a DATA frame. -/
def msgOf (ts : BitVec 64) : Nat := ts.toNat / 2 ^ 52 % 512
def fragOf (ts : BitVec 64) : Nat := ts.toNat / 2 ^ 36 % 256

/-- Whether a frame that waits is the rest of a message whose first fragment waits no more. -/
def restOf (tx : List TxFrame) (f : TxFrame) : Bool :=
  decide (f.kind = frData) && !tx.any fun g => decide (g.kind = frData ∧ msgOf g.ts = msgOf f.ts ∧ fragOf g.ts = 0)

/-- The messages of a list of frames. -/
def msgsIn (l : List TxFrame) : List Nat := ((l.filter fun f => decide (f.kind = frData)).map fun f => msgOf f.ts).eraseDups

/-- Rows of a carry whose first row is gone. -/
def carryRest (l : List (Row × Bool)) : List (Row × Bool) := l.takeWhile fun r => !r.2

/-- What a fresh start drops: unacknowledged frames, partial messages and partial carries, both ways (R466). -/
def partials (x : Causeway) : Nat :=
  (x.lanes.map fun l => l.2.unacked.length).sum + (msgsIn (x.tx.filter (restOf x.tx))).length
    + (x.rx.filter fun m => m.2.isSome).length + (if carryRest x.carryTx = [] then 0 else 1)
    + (if x.carryRows = [] ∧ x.carryRx = [] then 0 else 1)

/-- A link restarts every sequence at 0, that of the carry stream's frames among them, and drops what is partial (R466). -/
def linkFresh (c : Nat) (s : State) : State :=
  let n := partials (cwOf s c)
  bump (cwWin c 0x058) n (modCw c (fun x => { x with
    lanes := mapVals {} (fun l => { slotAt := l.slotAt }) x.lanes, tx := x.tx.filter fun f => !restOf x.tx f, rx := [],
    carryTx := x.carryTx.drop (carryRest x.carryTx).length, carryIdx := 0, carryRx := [], carryNext := 0, carryRows := [] }) s)

/-- A link that goes DOWN or OFF, or is reset, loses whatever waits in its gateway too (R477, R489). -/
def linkFlush (c : Nat) (s : State) : State :=
  let s := linkFresh c s
  let x := cwOf s c
  bump (cwWin c 0x058) ((msgsIn x.tx).length + (x.carryTx.filter (·.2)).length)
    (modCw c (fun x => { x with tx := [], carryTx := [], carryIdx := 0, carryReady := [], echoOut := none, echoRuns := [] }) s)

/-- A remote STATE_MOVE fails at its source (R479). -/
def moveFail (m : Move) (s : State) : State :=
  let mine : PortKind → Bool
    | .moveRead sid _ => decide (sid = m.sid)
    | _ => false
  let s := dropMove m.sid false { s with ports := s.ports.filter fun x => !mine x.kind }
  let s := modTiles (fun t => { t with frozen := false }) m.src s
  let s := match streamBy s m.sid with
    | some k => modStream k (fun x => { x with st := .open }) s
    | none => s
  streamEnd m.sid stRefusedConfig 0xFC s

/-- The moves in progress over a causeway fail. -/
def movesFail (c : Nat) (s : State) : State :=
  (s.moves.filter fun m => !m.incoming && decide (m.dest = 2) && decide (m.cw = c)).foldl (fun s m => moveFail m s) s

/-! ## Replies (R462, R468) -/

/-- A link has reached UP, DOWN or OFF: its commands are answered, LINK_ROLE once every link it retrains is there. -/
def linkReached (c : Nat) (s : State) : State :=
  let cmds := (cwOf s c).cmds
  let s := modCw c (fun x => { x with cmds := [] }) s
  let s := replyAll (cmds.filter fun k => !((List.range 3).any fun d => (cwOf s d).cmds.contains k)) stOk s
  if cmds ≠ [] ∧ ((List.range 3).all fun d => decide ((cwOf s d).cmds = [])) then startDone 7 s else s

/-- The link goes DOWN (R460, R464). -/
def linkDown (c reason : Nat) (s : State) : State :=
  let s := modCw c (fun x => { x with st := .down, reason := BitVec.ofNat 4 reason, fresh := true, phase := 0 }) s
  linkReached c (movesFail c (linkFlush c s))

/-- The link goes OFF with its power domain (R463). -/
def linkOff (c : Nat) (s : State) : State :=
  let s := modCw c (fun x => { x with st := .off, fresh := true, phase := 0 }) s
  linkReached c (movesFail c (linkFlush c s))

/-! ## Training (R464 to R470) -/

/-- The CAPS that a link sends (Table 12-8). -/
def capsBits (s : State) (c : Nat) : BitVec 192 :=
  let x := cwOf s c
  let seqs := ((List.range 8).map fun i => (laneOf x i).rxNext.toNat * 2 ^ (8 * i)).sum
  BitVec.ofNat 192 (s.ringId.toNat + s.ringPos.toNat * 2 ^ 4 + s.ringSize.toNat * 2 ^ 10 + x.role.toNat * 2 ^ 16
    + regBits s 0x0000 15 8 * 2 ^ 19 + (if x.fresh then 2 ^ 27 else 0) + x.rxExcl.toNat * 2 ^ 28 + 8 * 2 ^ 32 + 64 * 2 ^ 40
    + (cwUid s).toNat * 2 ^ 64 + seqs * 2 ^ 128)

/-- A field of CAPS. -/
def capsField (v : BitVec 192) (lo n : Nat) : Nat := v.toNat / 2 ^ lo % 2 ^ n

/-- The agreement checks (Table 12-9): the reason of the first that fails. -/
def capsFault (s : State) (c : Nat) (v : BitVec 192) : Option Nat :=
  let role := capsField v 16 3
  let id := capsField v 0 4
  let own := (cwOf s c).role.toNat
  let want := if c = 0 then 1 else if c = 1 then 0 else own
  let idOk := if c = 2 then decide (id ≠ s.ringId.toNat) else decide (id = s.ringId.toNat)
  let addrOk := idOk && decide (capsField v 4 6 = partnerPos s c) && decide (capsField v 10 6 = s.ringSize.toNat)
  if role ≠ want then some downRole
  else if own ≠ 3 ∧ !addrOk then some downAddress
  else if capsField v 19 8 ≠ regBits s 0x0000 15 8 then some downStepping
  else if capsField v 32 8 ≠ 8 ∨ capsField v 40 8 < 64 then some downCaps
  else none

/-- A partner's CAPS meet the agreement checks (R469). -/
def capsTake (c : Nat) (v : BitVec 192) (s : State) : State :=
  match capsFault s c v with
  | some r => linkDown c r s
  | none => modCw c (fun x => { x with partnerCaps := some v, partner := v.setWidth 27, txExcl := BitVec.ofNat 4 (capsField v 28 4),
                                       checked := true }) s

/-- Training begins at phase 1, or fast retraining at phase 2. -/
def trainBegin (c : Nat) (st : LinkSt) (fast : Bool) (s : State) : State :=
  let again := linkKeeps (cwOf s c) || fast
  bump (cwWin c 0x04C) (if again then 1 else 0) (modCw c (fun x => { x with
    st := st, fast := fast, phase := if fast then 2 else 1, rxExcl := if fast then x.rxExcl else 0xF,
    txExcl := if fast then x.txExcl else 0xF, partnerCaps := none, phaseAt := s.now }) s)

/-- Physical lanes named by a mask. -/
def lanesIn (m : BitVec 9) : List Nat := (List.range 9).filter fun i => m.getLsbD i

/-- The one lane of a mask, 0xF for none. -/
def exclOf (m : BitVec 9) : BitVec 4 := match lanesIn m with
  | [] => 0xF
  | i :: _ => BitVec.ofNat 4 i

/-- The excluded lane as a mask. -/
def exclMask (x : BitVec 4) : BitVec 9 := if x = 0xF then 0 else 1#9 <<< x.toNat

/-- Training goes on to phase `k`. -/
def phaseNext (c k : Nat) (s : State) : State := modCw c (fun x => { x with phase := k, phaseAt := s.now }) s

/-- W for a round trip in 1/8 ns (R467). -/
def windowOf (rtt : Nat) : Nat := min 64 ((rtt * 100 + 17407) / 17408 + 4)

/-- The sender of a lane resumes from the next SEQ that its partner expects (R466). -/
def laneResume (next : BitVec 8) (l : Lane) : Lane :=
  let keep := l.unacked.dropWhile fun u => decide (u.1 ≠ next)
  { l with unacked := keep, replay := keep.map fun u => (u.1, u.2.1), nakDue := false, nakMissing := false, crcRun := 0, replays := 0 }

/-- What the partner's UID says when a link comes UP (R470). -/
def partnerCheck (c : Nat) (uid : BitVec 64) (s : State) : State :=
  let x := cwOf s c
  let s := modCw c (fun x => { x with partnerUid := uid, lastUpUid := some uid }) s
  match x.lastUpUid with
  | some old =>
    if old = uid then s
    else logAdd lkPartnerChanged (0x100 + c) [old.toNat, old.toNat / 2 ^ 32, uid.toNat, uid.toNat / 2 ^ 32] s
  | none => s

/-- Loaded plans whose frames no longer fit a retrained link are logged (R482). -/
def budgetCheck (c : Nat) (s : State) : State :=
  let l := plansOf s
  let limit := frameLimit s (regBits s 0x1004 15 0) c
  if planTraffic l c ≠ (0, 0) ∧ limit < framesOn l c then
    logAdd lkLinkBudget (0x100 + c) [limit, framesOn l c] s
  else s

/-- Phase 5: sequences restart or resume, and the link is UP (R466, R467, R470). -/
def linkUp (c : Nat) (v : BitVec 192) (s : State) : State :=
  let s := if (cwOf s c).fresh || v.getLsbD 27 then movesFail c (linkFresh c s)
    else (List.range 8).foldl (fun s i => modLane c i (laneResume (BitVec.ofNat 8 (capsField v (128 + 8 * i) 8))) s) s
  let s := modCw c (fun x => { x with st := .up, phase := 0, fresh := false, window := windowOf x.rtt.toNat, echoAt := s.now,
                                      hbAt := s.now, hbBoundaries := 0, hbDueAt := s.now, newRtt := none, echoRuns := [] }) s
  linkReached c (budgetCheck c (partnerCheck c (BitVec.ofNat 64 (capsField v 64 64)) s))

/-- A round trip in 1/8 ns comes into force, rounded to 1 ns, with D and the cable length (R465). -/
def rttForce (c rtt : Nat) (s : State) : State :=
  modCw c (fun x => { x with rtt := BitVec.ofNat 24 rtt, delay := BitVec.ofNat 24 (rtt / 2), cable := BitVec.ofNat 16 (rtt / 8 - 480) }) s

/-- A round trip in 1/8 ns rounded to 1 ns. -/
def roundNs (v : Nat) : Nat := (v + 4) / 8 * 8

/-- The least of the round trips that phase 4 has measured (R465). -/
def leastRtt (l : List (BitVec 16 × BitVec 24)) : Nat := ((l.map fun e => e.2.toNat).min?).getD 0

/-- TRAINING_PHASE_END (Table 12-7). Phase 4 ends with its 16 exchanges, or at its bound with fewer (log entry 122). -/
def phaseEnd (c : Nat) (r : PhaseResult) (s : State) : State :=
  let x := cwOf s c
  let many (m : BitVec 9) : Bool := decide (1 < (lanesIn m).length)
  match x.phase with
  | 1 =>
    if many r.badLanes || many r.txBad then linkDown c downLane s
    else phaseNext c 2 (modCw c (fun x => { x with rxExcl := exclOf r.badLanes, txExcl := exclOf r.txBad }) s)
  | 2 =>
    let bad := exclMask x.rxExcl ||| r.badLanes
    let txBad := exclMask x.txExcl ||| r.txBad
    if x.fast && decide (bad ≠ exclMask x.rxExcl ∨ txBad ≠ exclMask x.txExcl) then
      phaseNext c 1 (modCw c (fun x => { x with fast := false, rxExcl := 0xF, txExcl := 0xF }) s)
    else if many bad || many txBad then linkDown c downLane s
    else
      let s := phaseNext c 3 (modCw c (fun x => { x with rxExcl := exclOf bad, txExcl := exclOf txBad }) s)
      sendCtrl c 0x01 ((capsBits s c).setWidth 2048) s
  | 3 =>
    let s := match r.caps with
      | some v => capsTake c v s
      | none => if x.partnerCaps.isNone then linkDown c downCaps s else s
    if (cwOf s c).st = .down then s
    else (List.range 16).foldl (fun s i => sendCtrl c 0x02 (BitVec.ofNat 2048 i) s)
      (phaseNext c 4 (modCw c (fun x => { x with exchanges := [] }) s))
  | 4 =>
    if x.exchanges = [] then s
    else
      let s := if x.exchanges.length < 16 then advanceTo (x.phaseAt + 100 * unitsUs) s else s
      phaseNext c 5 (rttForce c (leastRtt x.exchanges) s)
  | 5 => match x.partnerCaps with
    | some v => linkUp c v s
    | none => s
  | _ => s

/-- TRAINING_PHASE_END. -/
def execTrainingPhaseEnd (c : Fin 3) (r : PhaseResult) (s : State) : Host.Outcome State Fault Refusal :=
  let x := cwOf s c.val
  .next (if (x.st = .training ∨ x.st = .retraining) ∧ x.resetUntil.isNone then phaseEnd c.val r s else s)

/-- A lane fails: fast retraining, or DOWN with reason LANE (R460). -/
def laneFail (c : Nat) (s : State) : State :=
  if regBit s (cwWin c 0x000) 0 then trainBegin c .retraining true s else linkDown c downLane s

/-- Whether a physical lane that the partner's or the own receiver may exclude carries a logical lane (R450). -/
def laneCarries (excl : BitVec 4) (lane : Nat) : Bool := if excl = 0xF then decide (lane < 8) else decide (lane ≠ excl.toNat)

/-- Whether a lane has failed: its receiver reports it, eight frames in a row failed their CRC (R457), or REPLAY_LIMIT replays
brought no progress. -/
def laneFailed (s : State) (c lane : Nat) (why : LaneFail) : Bool :=
  let x := cwOf s c
  match why with
  | .signal => laneCarries x.rxExcl lane
  | .lock => laneCarries x.rxExcl lane
  | .frameLock => decide (lane < 8 ∧ 8 ≤ (laneOf x lane).crcRun)
  | .replay => decide (lane < 8 ∧ 0 < (laneOf x lane).replays ∧ regBits s (cwWin c 0x000) 15 8 ≤ (laneOf x lane).replays)

/-- LANE_FAILURE. -/
def execLaneFailure (c : Fin 3) (lane : Fin 9) (why : LaneFail) (s : State) : Host.Outcome State Fault Refusal :=
  .next (if (cwOf s c.val).st = .up && laneFailed s c.val lane.val why then laneFail c.val s else s)

/-! ## Commands -/

/-- LINK_TRAIN (R462): full, fast or off. -/
def execLinkTrain (q : Fin 16) (p : Packet) (s : State) : Host.Outcome State Fault Refusal :=
  .next (acceptCmd 0x40 q.val p (fun k _ s =>
    let c := par p 0 1
    let x := cwOf s c
    if 3 ≤ c ∨ 3 ≤ par p 1 1 ∨ (x.role = 4 ∧ par p 1 1 ≠ 2) then reply k stRefusedConfig s
    else
      let s := modCw c (fun x => { x with cmds := x.cmds ++ [k] }) s
      if par p 1 1 = 2 then linkOff c (modCw c (fun x => { x with reason := BitVec.ofNat 4 downCommand }) s)
      else if par p 1 1 = 1 ∧ (linkKeeps x ∨ x.st = .down) then trainBegin c .retraining true s
      else trainBegin c (if linkKeeps x then .retraining else .training) false s) s)

/-- LINK_ROLE retrains a link with FRESH = 1. -/
def roleTrain (k : Cmd) (c : Nat) (s : State) : State :=
  trainBegin c .training false (modCw c (fun x => { x with fresh := true, cmds := x.cmds ++ [k] }) s)

/-- LINK_ROLE (R468). -/
def execLinkRole (q : Fin 16) (p : Packet) (s : State) : Host.Outcome State Fault Refusal :=
  .next (acceptCmd 0x41 q.val p (fun k _ s =>
    let role := par p 3 1
    if s.tempo.running ∨ 16 ≤ par p 0 1 ∨ par p 2 1 = 0 ∨ 64 ≤ par p 2 1 ∨ par p 2 1 < par p 1 1 ∨ role < 2 ∨ 4 < role then
      reply k stRefusedConfig s
    else
      let change := decide (s.c2Role ≠ BitVec.ofNat 3 role)
      let s := { s with ringId := BitVec.ofNat 4 (par p 0 1), ringPos := BitVec.ofNat 6 (par p 1 1),
                        ringSize := BitVec.ofNat 6 (par p 2 1), c2Role := BitVec.ofNat 3 role }
      let s := [0, 1, 2].foldl (fun s c => modCw c (fun x => { x with checked := false }) s) s
      let s := modCw 2 (fun x => { x with role := BitVec.ofNat 3 role }) s
      let s := roleTrain k 1 (roleTrain k 0 s)
      if !change then s else if role = 4 then linkOff 2 s else roleTrain k 2 s) s)

/-! ## Echoes and heartbeats (R471, R487) -/

/-- ECHO_INTERVAL. -/
def execEchoInterval (c : Fin 3) (s : State) : Host.Outcome State Fault Refusal :=
  let x := cwOf s c.val
  if x.st = .up then
    let s := advanceTo (x.echoAt + regBits s (cwWin c.val 0x020) 15 0 * 4500000) s
    .next (sendCtrl c.val 0x02 (x.echoNum.setWidth 2048)
      (modCw c.val (fun x => { x with echoAt := s.now, echoNum := x.echoNum + 1 }) s))
  else .next s

/-- Whether two round trips agree within 1 ns. -/
def rttNear (d : Nat) (a b : BitVec 24) : Bool := decide (a.toNat ≤ b.toNat + d ∧ b.toNat ≤ a.toNat + d)

/-- A round trip measured in service: four in a row that agree within 1 ns, each of which differs by more than 2 ns from the one in
force, wait for the next boundary, which takes the least of them (R471, R465). -/
def echoMeasured (c : Nat) (rtt : BitVec 24) (s : State) : State :=
  let x := cwOf s c
  let runs := (x.echoRuns ++ [rtt]).drop (x.echoRuns.length - 3)
  let least := runs.foldl (fun a b => if b.toNat < a.toNat then b else a) rtt
  let new := decide (runs.length = 4) && runs.all (fun a => runs.all (rttNear 8 a) && !rttNear 16 a x.rtt)
  modCw c (fun x => { x with echoOut := none, echoRuns := if new then [] else runs, newRtt := if new then some least else x.newRtt }) s

/-- New round trips come into force at a boundary (R471). -/
def cableChanges (s : State) : State :=
  [0, 1, 2].foldl (fun s c => match (cwOf s c).newRtt with
    | some r => logAdd lkCableChange (0x100 + c) [r.toNat] (bump (cwWin c 0x064) 1
        (modCw c (fun x => { x with newRtt := none }) (rttForce c r.toNat s)))
    | none => s) s

/-- Whether the block sends heartbeats: its fabric attach and command logic pass their checks, and no fatal error stands. -/
def beatsOn (s : State) : Bool := !s.plant.attachFault && decide (s.plant.fatal = 0)

/-- Repeat the answers to remote moves that are still due (R479). -/
def repeatAnswers (c : Nat) (s : State) : State :=
  let due := (cwOf s c).answers.filter fun a => decide (a.2.2 ≠ 0)
  let s := modCw c (fun x => { x with answers := (due.map fun a => (a.1, a.2.1, a.2.2 - 1)).filter fun a => decide (a.2.2 ≠ 0) }) s
  due.foldl (fun s a => sendCtrl c a.1.toNat (a.2.1.setWidth 2048) s) s

/-- A HEARTBEAT on an UP link (Table 12-5). -/
def heartbeat (c : Nat) (s : State) : State :=
  if (cwOf s c).st = .up && beatsOn s then
    repeatAnswers c (sendCtrl c 0x04 (BitVec.ofNat 2048 (s.tempo.count.toNat + if s.tempo.running then 2 ^ 48 else 0))
      (modCw c (fun x => { x with hbDueAt := s.now }) s))
  else s

/-- HEARTBEAT_TIMER: 100 µs after the last ones, while the tempo is stopped. -/
def execHeartbeatTimer (s : State) : Host.Outcome State Fault Refusal :=
  let ups := [0, 1, 2].filter fun c => decide ((cwOf s c).st = .up)
  match (ups.map fun c => (cwOf s c).hbDueAt).min? with
  | some t => .next (if tempoStopped s && beatsOn s then ups.foldl (fun s c => heartbeat c s) (advanceTo (t + 100 * unitsUs) s) else s)
  | none => .next s

/-- HEARTBEAT_LOSS_TIMEOUT. -/
def execHeartbeatLossTimeout (c : Fin 3) (s : State) : Host.Outcome State Fault Refusal :=
  let x := cwOf s c.val
  if x.st ≠ .up ∨ x.hbLost ∨ (!tempoStopped s ∧ x.hbBoundaries < 2) then .next s
  else
    let s := if tempoStopped s then advanceTo (x.hbAt + 200 * unitsUs) s else s
    .next (logAdd lkHeartbeatLost (0x100 + c.val) [] (bump (cwWin c.val 0x060) 1 (modCw c.val (fun x => { x with hbLost := true }) s)))

/-- FABRIC_ATTACH_FAULT: heartbeats stop on every link. -/
def execFabricAttachFault (s : State) : Host.Outcome State Fault Refusal :=
  .next (modPlant (fun x => { x with attachFault := true }) s)

/-! ## Reset (R489) -/

/-- The link's counters return to their reset values (Table 16-4); the heron goes on counting (R524). -/
def cwCountersClear (c : Nat) (s : State) : State :=
  let s := heronForget (fun o => if cwWin c 0x040 ≤ o ∧ o < cwWin c 0x0A4 then (reg s o).toNat else 0) s
  { s with regs := s.regs.filter fun e => !(decide (cwWin c 0x040 ≤ e.1) && decide (e.1 < cwWin c 0x0A4)) }

/-- The rows in a gateway's stores: those of the messages that wait, of the carry stream, and received rows of messages and
carries that are not complete. -/
def gatewayRows (x : Causeway) : Nat :=
  2 * (x.tx.filter fun f => decide (f.kind = frData)).length + x.carryTx.length + x.carryRows.length
    + (x.rx.map fun m => (m.2.map fun m => m.data.length).getD 0).sum

/-- A causeway reset of 1 µs begins: its counters return to their reset values, and what it loses then counts (R477, Table 16-4);
the gateway rows in their crossings are discarded (R577). -/
def cwReset (c : Nat) (s : State) : State :=
  let on := decide ((cwOf s c).st ≠ .off)
  let s := xingFlush (inCrossings s 0 (gatewayRows (cwOf s c))).length (cwCountersClear c s)
  modCw c (fun x => { x with enabled := on || (x.enabled && x.resetUntil.isSome), resetUntil := some (s.now + unitsUs) }) (linkOff c s)

/-- RST_CTRL_CW. -/
def execRstCtrlCw (c : Fin 3) (s : State) : Host.Outcome State Fault Refusal := .next (cwReset c.val s)

/-- CAUSEWAY_RESET_END: the link stays OFF, or trains when it was enabled. -/
def execCausewayResetEnd (c : Fin 3) (s : State) : Host.Outcome State Fault Refusal :=
  let x := cwOf s c.val
  match x.resetUntil with
  | none => .next s
  | some t =>
    let s := modCw c.val (fun x => { x with resetUntil := none, enabled := false }) (advanceTo t s)
    .next (if x.enabled then trainBegin c.val .training false s else s)

end Sys2Proof.Machine
end

