-- ==== Sys2Proof/Machine/Tree.lean ====
section
/-!
DEFINITION. What fens exchange through the block: scalar summaries and selections (R278 to R283), and carries on the
carry tree, in its leaves and round the ring (R193 to R217, R613).
-/

namespace Sys2Proof.Machine

/-! ## Decisions -/

/-- The key of a decision of a plan. -/
def decKey (plan d : Nat) : Nat := 64 * plan + d

/-- Combine values of summaries in ascending logical-fen order (R280). A saturation here is counted in no register (log entry
124). -/
def combineValues (op : SumOp) (ty : ETy) (l : List Word) : Word :=
  match op with
  | .min => (foldTy (tyMin ty) 0#32 l).val
  | .max => (foldTy (tyMax ty) 0#32 l).val
  | .or => l.foldl (· ||| ·) 0#32
  | .sum => match ty with
    | .f32 => match l with
      | [] => 0#32
      | x :: xs => xs.foldl (fun a y => (fAdd a y).val) x
    | .i32 => (satInt .w32 (l.map BitVec.toInt).sum).val
    | .l32 => (compAll l).val

/-- The variant a decision selects, and whether it was forced to 0 (R280). -/
def chooseVariant (d : BitVec 256) (got : List (Nat × Word × Bool)) : Nat × Bool :=
  let ty := decType d
  let v := combineValues (decCombine d) ty (got.map (·.2.1))
  if got.any (·.2.2) || (decide (ty = .f32) && decide (f32v v = .nan)) then (0, true)
  else (((List.range (decCount d)).filter fun k => !tyLt ty v (decThreshold d k)).length, false)

/-- Insert a summary in ascending logical-fen order. -/
def gotInsert (x : Nat × Word × Bool) : List (Nat × Word × Bool) → List (Nat × Word × Bool)
  | [] => [x]
  | y :: l => if x.1 < y.1 then x :: y :: l else y :: gotInsert x l

/-- A summary of fen `n` reaches the control core (R280, R282). -/
def summaryArrive (plan n d : Nat) (v : Word) (tempo : BitVec 8) (mire : Bool) (dec : Option (BitVec 256)) (s : State) :
    State :=
  let x := mapGet {} s.decisions (decKey plan d)
  match dec with
  | none => bump 0x140 1 s
  | some dd =>
    if tempo ≠ s.tempo.count.setWidth 8 ∨ x.got.any (fun g => decide (g.1 = n)) ∨ !(decSources dd).getLsbD n then bump 0x140 1 s
    else
      let got := gotInsert (n, v, mire) x.got
      let all := (List.range 64).all fun k => !(decSources dd).getLsbD k || got.any fun g => decide (g.1 = k)
      if all then
        let c := chooseVariant dd got
        let tgt := (List.range 64).filter fun k => (decTargets dd).getLsbD k
        let s := { s with decisions := mapPut {} s.decisions (decKey plan d) { got := got, chosen := some c.1 },
                          selPending := s.selPending ++ tgt.map fun k => (decKey plan d, k) }
        if c.2 then bump 0x144 1 s else s
      else { s with decisions := mapPut {} s.decisions (decKey plan d) { x with got := got } }

/-- SUMMARY_FLIT_ARRIVAL: the oldest flit of the fen. -/
def summaryFlit (p : Nat) (s : State) : State :=
  let f := fenOf s p
  match f.flits, logicalOf s p with
  | x :: l, some n =>
    if ckRuns s then
      let s := advanceCk x.1 (putFen p { f with flits := l } s)
      summaryArrive (f.img.plan.getD 0) n x.2.1 x.2.2.1 x.2.2.2.1 x.2.2.2.2 (decisionOf s p x.2.1) s
    else s
  | _, _ => s

/-- SELECT_SLOT_WRITE (R281). -/
def selectWrite (n d : Nat) (s : State) : State :=
  match pfenOf s n with
  | none => s
  | some p =>
    let key := decKey ((fenOf s p).img.plan.getD 0) d
    match (mapGet {} s.decisions key).chosen, decisionOf s p d with
    | some v, some dd =>
      if s.selPending.contains (key, n) then
        modFen p (fun f => { f with selects := mapPut {} f.selects (decSlot dd) ⟨some (BitVec.ofNat 2 v), s.ck⟩ })
          { s with selPending := s.selPending.erase (key, n) }
      else s
    | _, _ => s

/-- SUMMARY_FLIT_ARRIVAL. -/
def execSummaryFlitArrival (p : Fin 72) (s : State) : Host.Outcome State Fault Refusal := .next (summaryFlit p s)
/-- SELECT_SLOT_WRITE. -/
def execSelectSlotWrite (n : Fin 64) (decision : Fin 64) (s : State) : Host.Outcome State Fault Refusal :=
  .next (selectWrite n.val decision.val s)

/-! ## Composition of carries (R193, R194) -/

/-- The identity carry. -/
def carryIdent : Carry := ⟨List.replicate 32 l32One, List.replicate 32 l32One, List.replicate 1024 0, false⟩

/-- The carry of a decay part alone. -/
def carryOfDecay (lr lc : List Word) : Carry := ⟨lr, lc, List.replicate 1024 0, false⟩

/-- Decay parts composed element by element, and the saturations. -/
def composeRows (b a : List Word) : List Word × Nat :=
  let l := (b.zip a).map fun x => composeL32 x.1 x.2
  (l.map (·.1), (l.filter (·.2)).length)

/-- compose_carry: `b` follows `a`. The carry, the L32 saturations and whether some entry saturated. -/
def composeCarry (b a : Carry) : Carry × Nat × Bool :=
  let lr := composeRows b.lr a.lr
  let lc := composeRows b.lc a.lc
  let cells := (List.range 1024).map fun e =>
    let x := (composeL32 (elemAt b.lr (e / 32)) (elemAt b.lc (e % 32))).1
    if x = l32Cut then (b.st.getD e 0, false, true)
    else
      let r := roundW40 (numAdd (numMul (decayFactor x) (w40v (a.st.getD e 0))) (w40v (b.st.getD e 0)))
      (r.1, r.2, false)
  (⟨lr.1, lc.1, cells.map (·.1), b.mired || (a.mired && cells.any fun c => !c.2.2)⟩, lr.2 + lc.2, cells.any (·.2.1))

/-- A composition made in the tree with its counts (R194, Table 5-9), mired where its check fails (R211). -/
def treeCompose (bad : Bool) (b a : Carry) (s : State) : Carry × State :=
  let r := composeCarry b a
  let r := ({ r.1 with mired := r.1.mired || bad }, r.2)
  (r.1, bump 0x10C (if r.1.mired then 1 else 0) (bump 0x118 (if r.2.2 then 1 else 0) (bump 0x108 r.2.1 s)))

/-! ## Scans -/

/-- The declaration of a scan in a loaded plan. -/
def scanOf (s : State) (scan : Nat) : Option ScanDecl :=
  (plansOf s).findSome? fun p => p.2.scans.find? fun d => decide (d.scan = scan)

/-- Key of a tree cell or leaf by its index and the scan and tile. -/
def treeKey (i scan tile : Nat) : Nat := (i * 16 + scan) * 512 + tile

/-- Logical fens under a node in heap order: a leaf is 64 + n (R206). -/
def nodeLeaves (node : Nat) : List Nat := (List.range 64).filter fun n =>
  (List.range 7).any fun k => decide ((64 + n) / 2 ^ k = node)

/-- Whether some leaf under a node takes part. -/
def takesPart (d : ScanDecl) (node : Nat) : Bool := (nodeLeaves node).any fun n => d.leaves.getLsbD n

/-- A failed check of the tree (R211): the fault bit, CARRY_FAULT_INFO if it is empty, the log. -/
def treeFault (node : Nat) (leaf : Bool) (x : Option TreeFault) (s : State) : State :=
  match x with
  | none => s
  | some k =>
    let kind := match k with
      | .edgeParity => 1
      | .residue => if leaf then 3 else 2
    let t := if s.plant.treeActive then 1 else 0
    let info := 1 + 2 * t + 4 * node + 512 * kind
    let s := orReg 0x104 (1#32 <<< t) s
    let s := if regBit s 0x114 0 then orReg 0x114 1#32 s else eventReg 0x114 (fun _ => BitVec.ofNat 32 info) s
    logAdd lkCarryFault 0x500 [(reg s 0x114).toNat] s

/-- A carry that came over an edge: a failed parity marks it mired (R211). -/
def edgeCarry (x : Option TreeFault) (c : Carry) : Carry := { c with mired := c.mired || decide (x = some .edgeParity) }

/-- Whether the residue of a composition fails (R211). -/
def resBad (x : Option TreeFault) : Bool := decide (x = some .residue)

/-- A carry handed on without a composition: any failed check marks it. -/
def faultCarry (x : Option TreeFault) (c : Carry) : Carry := { c with mired := c.mired || x.isSome }

/-- The 43 beats of a carry on an edge (Table 15-5). -/
def spendEdge (s : State) : State := modTempo (fun t => { t with pj := t.pj + 43 * 14 }) s

/-- A carry handed up from child `child` to its parent's cell, in the present CK. -/
def handUp (child scan tile : Nat) (c : Carry) (late : Nat) (s : State) : State :=
  let k := treeKey (child / 2) scan tile
  let x := mapGet {} s.carryTree k
  let x := { x with since := max x.since (s.ck + late) }
  let s := spendEdge s
  { s with carryTree := mapPut {} s.carryTree k (if child % 2 = 0 then { x with left := some c } else { x with right := some c }) }

/-- The CK from which a tree cell takes a carry in a direction: 56 CK after the last (R207). -/
def freeCk (s : State) (i dir : Nat) : Nat :=
  match s.treeBusy.find? fun e => decide (e.1 = 2 * i + dir) with
  | some e => e.2 + 56
  | none => 0

/-- The CK of an event of a tree cell: 56 CK after its input, and after its last carry in that direction (R207). -/
def hopCk (s : State) (i dir since : Nat) : Nat := max (since + 56) (freeCk s i dir)

/-- Mark a tree cell as having sent a carry in the present CK, and `n` more at 56 CK each. -/
def markHop (i dir n : Nat) (s : State) : State := { s with treeBusy := mapPut 0 s.treeBusy (2 * i + dir) (s.ck + 56 * n) }

/-- A carry handed down to child `child`: a node's cell, or a leaf. -/
def handDown (child scan tile : Nat) (c : Carry) (s : State) : State :=
  let k := treeKey child scan tile
  let x := mapGet {} s.carryTree k
  let s := spendEdge s
  { s with carryTree := mapPut {} s.carryTree k { x with down := some c, downAt := s.ck } }

/-! ## Leaves -/

/-- A leaf's tile. -/
def leafOf (s : State) (n scan tile : Nat) : LeafTile := mapGet {} s.leaves (treeKey n scan tile)

/-- The state with a leaf's tile replaced. -/
def putLeaf (n scan tile : Nat) (x : LeafTile) (s : State) : State :=
  { s with leaves := mapPut {} s.leaves (treeKey n scan tile) x }

/-- A leaf's aggregate: its pushes composed in order (leaf_up). -/
def leafAggregate : List LeafPush → State → Carry × State
  | [], s => (carryIdent, s)
  | x :: l, s => l.foldl (fun r c => treeCompose c.bad c.carry r.1 r.2) ({ x.carry with mired := x.carry.mired || x.bad }, s)

/-- LEAF_PUSH_RECEIVE: the oldest push of an array completes in the leaf, 56 CK or more after the last that the leaf took
(R207, R210, R613). -/
def leafReceive (p a : Nat) (fault : Option TreeFault) (s : State) : State :=
  match (fenOf s p).pushes.find? fun x => decide (x.array = a), logicalOf s p with
  | some x, some n =>
    if !ckRuns s then s
    else
      let s := markHop (64 + n) 0 0 (advanceCk (max x.due (freeCk s (64 + n) 0)) s)
      let s := modFen p (fun f => { f with pushes := f.pushes.erase x }) s
      let decl := (planOfFen s p).bind fun pl => pl.scans.find? fun d => decide (d.scan = x.scan)
      let lt := leafOf s n x.scan x.tile
      let bad := match decl with
        | none => true
        | some d => !d.leaves.getLsbD n || decide (d.tiles < x.tile + 1) || lt.sent
      if bad then logAdd lkCarryHazard p [a, x.scan, x.tile] (fenBump p 0x614 1 s)
      else
        let s := treeFault (64 + n) true fault s
        let lt := { lt with pushes := lt.pushes ++ [⟨a, x.ret, edgeCarry fault x.carry, resBad fault⟩] }
        let want := (decl.bind fun d => d.expect.find? fun e => decide (e.1 = n ∧ e.2.1 = x.tile)).map (·.2.2)
        if want = some lt.pushes.length then
          let r := leafAggregate lt.pushes s
          handUp (64 + n) x.scan x.tile r.1 (56 * (lt.pushes.length - 1)) (putLeaf n x.scan x.tile { lt with sent := true } r.2)
        else putLeaf n x.scan x.tile lt s
  | _, _ => s

/-- LEAF_PUSH_RECEIVE. -/
def execLeafPushReceive (p : Fin 72) (array : Fin 4) (fault : Option TreeFault) (s : State) :
    Host.Outcome State Fault Refusal := .next (leafReceive p array.val fault s)

/-! ## Nodes -/

/-- The children's carries of a cell in scan order, `none` while one that takes part has not arrived. With one child
taking part, its carry alone (R206, R219). A failed parity of the cell's lower edges marks what came over them (R211). -/
def cellInputs (d : ScanDecl) (node : Nat) (fault : Option TreeFault) (y : TreeCell) : Option (Carry × Option Carry) :=
  let x := { y with left := y.left.map (edgeCarry fault), right := y.right.map (edgeCarry fault) }
  match takesPart d (2 * node), takesPart d (2 * node + 1) with
  | true, true => match x.left, x.right with
    | some l, some r => some (if d.dir then (r, some l) else (l, some r))
    | _, _ => none
  | true, false => x.left.map fun l => (l, none)
  | false, true => x.right.map fun r => (r, none)
  | false, false => none

/-- The carry a cell forms of its inputs (node_up), and its cell afterwards. -/
def cellUp (d : ScanDecl) (node : Nat) (fault : Option TreeFault) (x : TreeCell) (s : State) : Option (Carry × TreeCell × State) :=
  if x.upDone then none
  else match cellInputs d node fault x with
    | none => none
    | some (e, none) => some (faultCarry fault e, { x with upDone := true }, s)
    | some (e, some l) => let r := treeCompose (resBad fault) l e s; some (r.1, { x with upDone := true, keep := some e }, r.2)

/-- NODE_UP (R208). -/
def nodeUpOp (node scan tile : Nat) (fault : Option TreeFault) (s : State) : State :=
  let k := treeKey node scan tile
  match scanOf s scan with
  | none => s
  | some d =>
    if node < 2 ∨ !ckRuns s then s
    else match cellUp d node fault (mapGet {} s.carryTree k) s with
      | none => s
      | some (c, x, t) =>
        let t := advanceCk (hopCk s node 0 (mapGet {} s.carryTree k).since) t
        let t := treeFault node false fault { t with carryTree := mapPut {} t.carryTree k x }
        handUp node scan tile c 0 (markHop node 0 0 t)

/-- Send a prefix that has come down on to the children of a node (node_down). -/
def passDown (d : ScanDecl) (node scan tile : Nat) (fault : Option TreeFault) (came : Carry) (keep : Option Carry) (s : State) :
    State :=
  let l := takesPart d (2 * node)
  let r := takesPart d (2 * node + 1)
  let p := edgeCarry fault came
  if l && r then
    let later := match keep with
      | some k => treeCompose (resBad fault) k p s
      | none => (p, s)
    let first := if d.dir then 2 * node + 1 else 2 * node
    let second := if d.dir then 2 * node else 2 * node + 1
    handDown second scan tile later.1 (handDown first scan tile p later.2)
  else if l then handDown (2 * node) scan tile (faultCarry fault came) s
  else if r then handDown (2 * node + 1) scan tile (faultCarry fault came) s
  else s

/-- NODE_DOWN (R208). -/
def nodeDownOp (node scan tile : Nat) (fault : Option TreeFault) (s : State) : State :=
  let k := treeKey node scan tile
  let x := mapGet {} s.carryTree k
  match scanOf s scan, x.down with
  | some d, some p =>
    if node < 2 ∨ x.downDone ∨ !ckRuns s then s
    else
      let s := advanceCk (hopCk s node 1 x.downAt) s
      let s := treeFault node false fault { s with carryTree := mapPut {} s.carryTree k { x with downDone := true } }
      passDown d node scan tile fault p x.keep (markHop node 1 0 s)
  | _, _ => s

/-- NODE_UP. -/
def execNodeUp (node : Fin 64) (st : ScanTile) (fault : Option TreeFault) (s : State) : Host.Outcome State Fault Refusal :=
  .next (nodeUpOp node.val st.scan.val st.tile.val fault s)
/-- NODE_DOWN. -/
def execNodeDown (node : Fin 64) (st : ScanTile) (fault : Option TreeFault) (s : State) :
    Host.Outcome State Fault Refusal := .next (nodeDownOp node.val st.scan.val st.tile.val fault s)

/-! ## Deliveries -/

/-- Add a delivery to an array of the leaf's fen; on a ring scan beyond the first block its decay part is kept (R215). -/
def deliverTo (p : Nat) (keepFor : Option (Nat × Nat)) (a since : Nat) (c : Carry) (s : State) : State :=
  modFen p (fun f => { f with
    deliveries := mapPut [] f.deliveries a (deliveriesOf f a ++ [⟨c, since⟩])
    kept := match keepFor with
      | some (scan, tile) => f.kept ++ [⟨scan, tile, a, c.lr, c.lc⟩]
      | none => f.kept }) s

/-- leaf_down over the pushes of a tile, of which the compositions fail their check where `bad` (R211): `n` deliveries have been
made so far. -/
def leafDown (p : Nat) (bad : Bool) (keepFor : Option (Nat × Nat)) : List LeafPush → Carry → Nat → State → State
  | [], _, _, s => s
  | x :: l, c, n, s =>
    let ex := decide (x.ret = .excl ∨ x.ret = .both)
    let inc := decide (x.ret = .incl ∨ x.ret = .both)
    let s := if ex then deliverTo p keepFor x.array (s.ck + 56 * n) c s else s
    let n := if ex then n + 1 else n
    let q := treeCompose bad x.carry c s
    let s := if inc then deliverTo p keepFor x.array (q.2.ck + 56 * n) q.1 q.2 else q.2
    leafDown p bad keepFor l q.1 (if inc then n + 1 else n) s

/-- The deliveries that a push returns (Table 5-4). -/
def retCount : RetKind → Nat
  | .none => 0
  | .excl => 1
  | .incl => 1
  | .both => 2

/-- Whether this block is the first, and the last, of a scan's ring span in scan order (R213, R219). -/
def ringEnds (s : State) (d : ScanDecl) : Bool × Bool :=
  let at_ := s.ringPos.toNat
  if d.dir then (decide (at_ = d.ringLast), decide (at_ = d.ringFirst)) else (decide (at_ = d.ringFirst), decide (at_ = d.ringLast))

/-- LEAF_DELIVERY (R207 to R209): 56 CK after the prefix came down; each further delivery comes 56 CK later and holds the leaf. -/
def leafDeliver (n scan tile : Nat) (fault : Option TreeFault) (s : State) : State :=
  let x := mapGet {} s.carryTree (treeKey (64 + n) scan tile)
  let lt := leafOf s n scan tile
  match scanOf s scan, x.down, pfenOf s n with
  | some d, some c, some p =>
    if lt.delivered ∨ !ckRuns s then s
    else
      let s := advanceCk (hopCk s (64 + n) 1 x.downAt) s
      let more := (lt.pushes.map fun x => retCount x.ret).sum - 1
      let s := treeFault (64 + n) true fault (markHop (64 + n) 1 more s)
      let keepFor := if d.ring && !(ringEnds s d).1 then some (scan, tile) else none
      leafDown p (resBad fault) keepFor lt.pushes (edgeCarry fault c) 0 (putLeaf n scan tile { lt with delivered := true } s)
  | _, _, _ => s

/-- LEAF_DELIVERY. -/
def execLeafDelivery (n : Fin 64) (st : ScanTile) (fault : Option TreeFault) (s : State) :
    Host.Outcome State Fault Refusal := .next (leafDeliver n.val st.scan.val st.tile.val fault s)

/-! ## The ring (R213 to R216) -/

/-- A carry's layout of Table 5-8: 43 rows. -/
def carryRowsOf (scan tile : Nat) (dir : Bool) (src : Nat) (tempo : BitVec 48) (c : Carry) : List Row :=
  let abs := c.lr.all fun x => decide (x = l32Cut)
  let h := scan + 2 ^ 4 * tile + 2 ^ 13 * (if dir then 1 else 0) + 2 ^ 14 * (if c.mired then 1 else 0)
    + 2 ^ 15 * (if abs then 1 else 0) + 2 ^ 16 * src + 2 ^ 22 * tempo.toNat
  let st := (c.st.zipIdx).foldl (fun a x => a + x.1.toNat * 2 ^ (40 * x.2)) 0
  [BitVec.ofNat 1024 h, packRow .l32 (c.lr.map BitVec.toNat), packRow .l32 (c.lc.map BitVec.toNat)]
    ++ (List.range 40).map fun k => BitVec.ofNat 1024 (st / 2 ^ (1024 * k))

/-- The carry that 43 rows hold. -/
def carryOfRows (rows : List Row) : Carry :=
  let l (k : Nat) : List Word := (List.range 32).map fun i => BitVec.ofNat 32 (rowElem .l32 (rows.getD k 0) i)
  let st := ((rows.drop 3).zipIdx).foldl (fun a x => a + x.1.toNat * 2 ^ (1024 * x.2)) 0
  ⟨l 1, l 2, (List.range 1024).map fun e => BitVec.ofNat 40 (st / 2 ^ (40 * e)), (rows.getD 0 0).getLsbD 14⟩

/-- Send a carry on the outgoing causeway of a scan: C1 forward, C0 in reverse (R213, R219); on a link that carries no traffic
it is lost (R466). -/
def ringSend (d : ScanDecl) (tile : Nat) (c : Carry) (s : State) : State :=
  let rows := carryRowsOf d.scan tile d.dir s.ringPos.toNat s.tempo.count c
  let cw := if d.dir then 0 else 1
  if linkKeeps (cwOf s cw) then
    modCw cw (fun x => { x with carryTx := x.carryTx ++ rows.zipIdx.map fun r => (r.1, decide (r.2 = 0)) }) s
  else bump (cwWin cw 0x058) 1 s

/-- The ring store entry of a tile. -/
def ringCell (s : State) (scan tile : Nat) : Option RingCell := s.ring.find? fun x => decide (x.scan = scan ∧ x.tile = tile)

/-- The state with a ring store entry put in place of an earlier one of its tile. -/
def putRing (x : RingCell) (s : State) : State :=
  { s with ring := (s.ring.filter fun y => !decide (y.scan = x.scan ∧ y.tile = x.tile)) ++ [x] }

/-- Once G and H of a tile are there, the root composes compose_carry(G, H), which goes on unless this is the last block (R211,
R214). -/
def ringForward (d : ScanDecl) (fault : Option TreeFault) (x : RingCell) (s : State) : State :=
  match x.g, x.h with
  | some g, some h =>
    if (ringEnds s d).2 then s
    else
      let r := treeCompose (resBad fault) g (edgeCarry fault h) (treeFault 1 false fault s)
      ringSend d x.tile r.1 r.2
  | _, _ => s

/-- ROOT_AGGREGATE (R208, R214): the block aggregate is complete, the down-sweep starts with the identity, and G goes on
the ring or into the ring store; `ring` is a failed check of its composition with an H that came before it. -/
def rootOp (scan tile : Nat) (fault ring : Option TreeFault) (s : State) : State :=
  let k := treeKey 1 scan tile
  match scanOf s scan with
  | none => s
  | some d =>
    if !ckRuns s then s
    else match cellUp d 1 fault (mapGet {} s.carryTree k) s with
      | none => s
      | some (g, x, t) =>
        let since := (mapGet {} s.carryTree k).since
        let t := advanceCk (max (hopCk s 1 0 since) (hopCk s 1 1 since)) t
        let t := markHop 1 1 0 (markHop 1 0 0 { t with carryTree := mapPut {} t.carryTree k { x with downDone := true } })
        let t := passDown d 1 scan tile none carryIdent x.keep (treeFault 1 false fault t)
        if !d.ring then t
        else if (ringEnds t d).1 then (if (ringEnds t d).2 then t else ringSend d tile g t)
        else
          let cell : RingCell := match ringCell t scan tile with
            | some y => { y with g := some g }
            | none => ⟨scan, tile, some g, none, false, t.ck, []⟩
          ringForward d ring cell (putRing cell t)

/-- ROOT_AGGREGATE. -/
def execRootAggregate (st : ScanTile) (fault : RootFaults) (s : State) : Host.Outcome State Fault Refusal :=
  .next (rootOp st.scan.val st.tile.val fault.up fault.ring s)

/-- The checks of R216 on a ring carry's header row that came on causeway `c`. -/
def ringAccept (s : State) (c : Nat) (h : Row) : Option ScanDecl :=
  match scanOf s (rowField h 0 4) with
  | none => none
  | some d =>
    let dir := h.getLsbD 13
    let fromC := if d.dir then 1 else 0
    let n := s.ringSize.toNat + 1
    let src := if d.dir then (s.ringPos.toNat + 1) % n else (s.ringPos.toNat + n - 1) % n
    if d.ring && decide (rowField h 4 9 < d.tiles) && decide (dir = d.dir) && decide (c = fromC)
        && decide (rowField h 16 6 = src) && decide (rowField h 22 48 = s.tempo.count.toNat) then some d else none

/-- RING_CARRY_RECEIVE (R214, R216): the oldest complete carry of a causeway. -/
def ringReceive (c : Nat) (fault : Option TreeFault) (s : State) : State :=
  match (cwOf s c).carryReady with
  | [] => s
  | rows :: l =>
    let s := modCw c (fun x => { x with carryReady := l }) s
    let h := rows.getD 0 0
    match ringAccept s c h with
    | none => logAdd lkCarryReject 0x500 [rowField h 0 32, rowField h 32 32, rowField h 64 6] (bump 0x110 1 s)
    | some d =>
      let tile := rowField h 4 9
      let hc := carryOfRows rows
      let cell : RingCell := match ringCell s d.scan tile with
        | some y => { y with h := some hc, since := s.ck }
        | none => ⟨d.scan, tile, none, some hc, false, s.ck, []⟩
      ringForward d fault cell (putRing cell s)

/-- RING_CARRY_RECEIVE. -/
def execRingCarryReceive (x : RingArrival) (s : State) : Host.Outcome State Fault Refusal :=
  .next (ringReceive x.cw.val x.fault s)

/-- RING_H_BROADCAST: H reaches the leaves 336 CK after the root has sent it down (R207, R214); `bad` are the nodes and leaves on
whose upper edge its parity fails (R211). -/
def ringBroadcast (scan tile : Nat) (bad : List Nat) (s : State) : State :=
  match ringCell s scan tile with
  | some x =>
    if x.h.isSome && !x.broadcast && ckRuns s then
      let sent := max x.since (freeCk s 1 1)
      let s := advanceCk (sent + 336) { s with treeBusy := mapPut 0 s.treeBusy 3 sent }
      let s := bad.foldl (fun s k => treeFault k (decide (64 ≤ k)) (some .edgeParity) s) s
      putRing { x with broadcast := true, since := s.ck, bad := bad } s
    else s
  | none => s

/-- RING_H_BROADCAST. -/
def execRingHBroadcast (x : RingSweep) (s : State) : Host.Outcome State Fault Refusal :=
  .next (ringBroadcast x.st.scan.val x.st.tile.val (x.bad.map (·.val)) s)

/-- RING_CORRECTION: for each decay part that the leaf kept for the tile, its composition with H is delivered (R207, R215). -/
def ringCorrect (n scan tile : Nat) (fault : Option TreeFault) (s : State) : State :=
  match ringCell s scan tile, pfenOf s n with
  | some x, some p =>
    match x.h with
    | none => s
    | some h =>
      let l := (fenOf s p).kept.filter fun k => decide (k.scan = scan ∧ k.tile = tile)
      if !x.broadcast ∨ l = [] ∨ !ckRuns s then s
      else
        let s := markHop (64 + n) 1 (l.length - 1) (advanceCk (hopCk s (64 + n) 1 x.since) s)
        let s := treeFault (64 + n) true fault s
        let h := edgeCarry fault { h with mired := h.mired || x.bad.any fun k => (nodeLeaves k).contains n }
        let s := modFen p (fun f => { f with kept := f.kept.filter fun k => !decide (k.scan = scan ∧ k.tile = tile) }) s
        (l.foldl (fun r k =>
          let c := treeCompose (resBad fault) (carryOfDecay k.lr k.lc) h r.1
          (deliverTo p none k.array (c.2.ck + 56 * r.2) c.1 c.2, r.2 + 1)) (s, 0)).1
  | _, _ => s

/-- RING_CORRECTION. -/
def execRingCorrection (n : Fin 64) (st : ScanTile) (fault : Option TreeFault) (s : State) :
    Host.Outcome State Fault Refusal := .next (ringCorrect n.val st.scan.val st.tile.val fault s)

/-! ## Discard at a boundary (R217) -/

/-- Carries a tree cell still holds on their way. -/
def cellHolds (x : TreeCell) : Nat :=
  (if x.upDone then 0 else (if x.left.isSome then 1 else 0) + (if x.right.isSome then 1 else 0))
    + (if x.down.isSome && !x.downDone then 1 else 0)

/-- Carries and deliveries that a boundary discards: in ports, leaves, nodes and the ring store, and not yet pulled. -/
def discardCount (s : State) : Nat :=
  let cells := (s.carryTree.map fun x =>
    if 64 ≤ x.1 / 8192 then
      (if x.2.down.isSome && !(mapGet {} s.leaves (x.1 - 64 * 8192)).delivered then 1 else 0)
    else cellHolds x.2).sum
  let leaves := (s.leaves.map fun x => if x.2.sent then 0 else x.2.pushes.length).sum
  let fens := (s.fens.map fun f => f.2.pushes.length + (f.2.deliveries.map (·.2.length)).sum).sum
  cells + leaves + fens + (s.ring.filter fun x => !x.broadcast).length

/-- Discard what carries remain at step 2 of Table 1-5. -/
def discardCarries (s : State) : State :=
  let n := discardCount s
  bump 0x11C n { s with carryTree := [], leaves := [], treeBusy := [], ring := [],
                        fens := mapVals {} (fun f => { f with pushes := [], deliveries := [], kept := [] }) s.fens }

end Sys2Proof.Machine
end

