-- ==== Sys2Proof/Machine/Lane.lean ====
section
/-!
DEFINITION. Lanes and frames (R450 to R461, R472 to R487): what a lane slot sends, the checks of a received frame, retry and
credit, and what each type of frame does.
-/

namespace Sys2Proof.Machine

/-! ## Sending -/

/-- Priority of a frame type (Table 12-3), scaled by 10. -/
def framePriority (kind : Nat) : Nat :=
  if kind = frTempo then 10 else if kind = frHold then 20 else if kind = frCarry then 30
  else if kind = frData ∨ kind = frDigest then 40 else 60

/-- Whether frames of a type are sequenced (Table 12-3). -/
def frSeqd (kind : Nat) : Bool := decide (kind = frData ∨ kind = frCarry ∨ kind = frHold ∨ kind = frDigest)

/-- A lane slot in State's units (R467): max(21.76 ns, RTT ÷ 64), rounded up. -/
def slotUnits (x : Causeway) : Nat := max 98 ((x.rtt.toNat * 9 + 1023) / 1024)

/-- RTT in force, in State's units. -/
def rttUnits (x : Causeway) : Nat := x.rtt.toNat * 9 / 16

/-- Whether a CTRL frame belongs on logical lane 0: an ECHO or its reply (Table 12-7). -/
def isEcho (f : TxFrame) : Bool := decide (f.kind = frCtrl ∧ (f.ts.toNat % 256 = 2 ∨ f.ts.toNat % 256 = 3))

/-- Whether a message number is still in use by frames that are not acknowledged (R476). -/
def msgBusy (x : Causeway) (f : TxFrame) : Bool :=
  decide (f.kind = frData ∧ fragOf f.ts = 0)
    && x.lanes.any fun l => l.2.unacked.any fun u => decide (u.2.1.kind = frData ∧ msgOf u.2.1.ts = msgOf f.ts)

/-- Whether a new sequenced frame may go on a lane: the window is open and a credit is held (R458, R461). -/
def laneOpen (x : Causeway) (l : Lane) : Bool := decide (l.unacked.length < x.window ∧ l.credits ≠ 0)

/-- The first frame that waits in each priority class, with its place in the queue. -/
def firstOf (x : Causeway) (kinds : List Nat) : Option (Nat × TxFrame) :=
  ((x.tx.zipIdx).find? fun f => kinds.contains f.1.kind).map fun f => (f.2, f.1)

/-- What a lane may send in a slot. -/
inductive Ready
  | waiting (at_ : Nat) (f : TxFrame)
  | replay (seq : BitVec 8) (f : TxFrame)
  | carry
  | fill
  deriving DecidableEq, Repr

/-- What is ready on a lane, in order of priority (R455); on a link in training only CTRL and CREDIT. -/
def readyList (x : Causeway) (lane : Nat) : List Ready :=
  let l := laneOf x lane
  let up := decide (x.st = .up)
  let new (kinds : List Nat) : List Ready := match firstOf x kinds with
    | some (k, f) => if !frSeqd f.kind || (laneOpen x l && !msgBusy x f) then [.waiting k f] else []
    | none => []
  let ctrl : List Ready := match (x.tx.zipIdx).find? fun f => decide (f.1.kind = frCtrl) && (decide (lane = 0) || !isEcho f.1) with
    | some (f, k) => [.waiting k f]
    | none => []
  (if up && decide (lane = 0) then new [frTempo] else [])
    ++ (if up then new [frHold] else [])
    ++ (if up then (match l.replay with
        | (n, f) :: _ => [.replay n f]
        | [] => []) else [])
    ++ (if up && laneOpen x l && decide (x.carryTx ≠ []) then [.carry] else [])
    ++ (if up then new [frData, frDigest] else [])
    ++ ctrl ++ [.fill]

/-- Whether a ready sequenced frame waits for credit (R461). -/
def creditStall (x : Causeway) (l : Lane) : Bool :=
  decide (x.st = .up ∧ l.credits = 0) && (decide (x.carryTx ≠ []) || x.tx.any fun f => frSeqd f.kind)

/-- A frame as it leaves a lane (Tables 12-1, 12-2): it carries the lane's acknowledgement, NAK and credits, and its CRC. -/
def frameOut (l : Lane) (seq : BitVec 8) (f : TxFrame) (now : Nat) : Frame :=
  let v := f.ts.toNat
  let sub := v % 256
  let ts := if f.kind = frTempo then 0 else if f.kind = frCtrl then sub else v
  let pl : Nat := f.payload.toNat
    + (if f.kind = frTempo then min ((v - now) * 16 / 9) (2 ^ 24 - 1) * 2 ^ 48 else 0)
    + (if f.kind = frCtrl ∧ sub = 3 then (now - v / 256) * 16 / 9 % 2 ^ 32 * 2 ^ 16 else 0)
  frameOf (BitVec.ofNat 96 (f.kind + (if frSeqd f.kind then 2 ^ 4 else 0) + (if l.nakDue then 2 ^ 5 else 0) + seq.toNat * 2 ^ 8
      + (l.rxNext - 1).toNat * 2 ^ 16 + l.rxCredits % 256 * 2 ^ 24 + ts * 2 ^ 32)) (BitVec.ofNat 2048 pl)

/-- A frame leaves a lane. -/
def frameLeave (c lane : Nat) (seq : BitVec 8) (f : TxFrame) (s : State) : State :=
  let l := laneOf (cwOf s c) lane
  modLane c lane (fun l => { l with nakDue := false, nakAt := if l.nakDue then s.now else l.nakAt, rxCredits := 0 })
    (emit (.frame c lane (frameOut l seq f s.now)) s)

/-- A new frame leaves a lane; a sequenced one takes the next number and a credit (R458, R461). -/
def frameNew (c lane : Nat) (f : TxFrame) (s : State) : State :=
  if frSeqd f.kind then
    let l := laneOf (cwOf s c) lane
    let s := frameLeave c lane l.nextSeq f s
    bump (cwWin c 0x068) 1 (modLane c lane (fun l => { l with nextSeq := l.nextSeq + 1, credits := l.credits - 1,
                                                              unacked := l.unacked ++ [(l.nextSeq, f, s.now)] }) s)
  else frameLeave c lane 0 f s

/-- The next CARRY frame of the tempo's stream (Table 12-4, R483). -/
def carryFrame (x : Causeway) (tempo : BitVec 48) : TxFrame :=
  let a := x.carryTx.headD (0, false)
  let b := x.carryTx.tail.headD (0, false)
  let two := decide (1 < x.carryTx.length)
  { kind := frCarry,
    ts := BitVec.ofNat 64 (x.carryIdx % 2 ^ 16 + tempo.toNat % 2 ^ 16 * 2 ^ 16 + (if a.2 then 2 ^ 32 else 0)
      + (if b.2 then 2 ^ 33 else 0) + (if two then 2 ^ 34 else 0)),
    payload := b.1 ++ a.1 }

/-- One slot of a lane (R455). -/
def slotSend (c lane : Nat) (s : State) : State :=
  let x := cwOf s c
  let s := bump (cwWin c 0x05C) (if creditStall x (laneOf x lane) then 1 else 0) s
  match (readyList x lane).headD .fill with
  | .waiting k f => frameNew c lane f (modCw c (fun x => { x with tx := x.tx.eraseIdx k }) s)
  | .replay n f => frameLeave c lane n f (modLane c lane (fun l => { l with
      replay := l.replay.tail, unacked := l.unacked.map fun u => if u.1 = n then (u.1, u.2.1, s.now) else u }) s)
  | .carry => frameNew c lane (carryFrame x s.tempo.count)
      (modCw c (fun x => { x with carryTx := x.carryTx.drop 2, carryIdx := x.carryIdx + 1 }) s)
  | .fill => frameLeave c lane 0 { kind := 0, ts := 0, payload := 0 } s

/-- Whether lanes carry frames: the link is UP, or its training has reached phase 3. -/
def lanesRun (x : Causeway) : Bool := decide (x.st = .up) || (decide (x.st = .training ∨ x.st = .retraining) && decide (3 ≤ x.phase))

/-- FRAME_SLOT_TRANSMIT: the lane's next slot, no earlier than one lane slot after the one before (R467). -/
def execFrameSlotTransmit (c : Fin 3) (lane : Fin 8) (s : State) : Host.Outcome State Fault Refusal :=
  let x := cwOf s c.val
  if lanesRun x then
    let s := advanceTo (laneOf x lane.val).slotAt s
    .next (modLane c.val lane.val (fun l => { l with slotAt := s.now + slotUnits x }) (slotSend c.val lane.val s))
  else .next s

/-! ## Retry (R459) -/

/-- Replay every unacknowledged frame of a lane. -/
def laneReplay (c lane : Nat) (s : State) : State :=
  if (laneOf (cwOf s c) lane).unacked = [] then s
  else bump (cwWin c 0x048) 1 (modLane c lane (fun l => { l with
    replay := l.unacked.map fun u => (u.1, u.2.1), replays := l.replays + 1 }) s)

/-- REPLAY_TIMEOUT: the oldest unacknowledged frame has waited one round trip and 64 slots. -/
def execReplayTimeout (c : Fin 3) (lane : Fin 8) (s : State) : Host.Outcome State Fault Refusal :=
  let x := cwOf s c.val
  let l := laneOf x lane.val
  match l.unacked with
  | [] => .next s
  | u :: _ =>
    if x.st = .up ∧ l.replay = [] then
      .next (laneReplay c.val lane.val (advanceTo (u.2.2 + rttUnits x + 64 * slotUnits x) s))
    else .next s

/-- A frame of a lane's sequence is missing: NAK goes with the next frame sent there, once until it is repeated. -/
def laneMissing (l : Lane) : Lane := if l.nakMissing then l else { l with nakMissing := true, nakDue := true }

/-- NAK_REPEAT: a round trip after the last NAK. -/
def execNakRepeat (c : Fin 3) (lane : Fin 8) (s : State) : Host.Outcome State Fault Refusal :=
  let x := cwOf s c.val
  let l := laneOf x lane.val
  if x.st = .up && l.nakMissing && !l.nakDue then
    .next (modLane c.val lane.val (fun l => { l with nakDue := true }) (advanceTo (l.nakAt + rttUnits x) s))
  else .next s

/-- CW_LANE_CORR of the physical lane of a logical receive lane (R450, R453). -/
def corrReg (x : Causeway) (lane : Nat) : Nat := 0x080 + 4 * (if x.rxExcl = 0xF ∨ lane < x.rxExcl.toNat then lane else lane + 1)

/-- A frame fails its CRC: it is discarded and counted, with the codewords that could not be corrected and the symbols that were
in the others that it ends, and NAK asks for the lane's sequence (R453, R456, R459). -/
def crcFailed (c lane uncorrectable corrected : Nat) (s : State) : State :=
  let x := cwOf s c
  bump (cwWin c 0x044) 1 (bump (cwWin c 0x040) uncorrectable (bump (cwWin c (corrReg x lane)) corrected
    (modLane c lane (fun l => { laneMissing l with crcRun := l.crcRun + 1 }) s)))

/-- CRC_FAILED_FRAME_RECEIVE. -/
def execCrcFailedFrameReceive (c : Fin 3) (lane : Fin 8) (n : FecCount) (s : State) : Host.Outcome State Fault Refusal :=
  .next (if lanesRun (cwOf s c.val) then crcFailed c.val lane.val n.uncorrectable.toNat n.corrected.toNat s else s)

/-! ## Receiving -/

/-- A field of a frame's header. -/
def hdrField (f : Frame) (lo n : Nat) : Nat := f.hdr.toNat / 2 ^ lo % 2 ^ n

/-- TYPE of a frame, and SUBTYPE of a CTRL frame. -/
def frameType (f : Frame) : Nat := hdrField f 0 4
def frameSub (f : Frame) : Nat := hdrField f 32 8

/-- Reserved bits of TS by type (Table 12-4). -/
def tsReserved (f : Frame) : Bool :=
  let k := frameType f
  if k = frData then decide (hdrField f (32 + 12) 2 = 3) && f.hdr.getLsbD (32 + 24)
  else if k = frCarry then decide (hdrField f (32 + 35) 29 ≠ 0)
  else if k = frCtrl then decide (hdrField f (32 + 8) 56 ≠ 0)
  else decide (hdrField f 32 64 ≠ 0)

/-- Reserved bits of the payload by type (Tables 12-5, 12-8, 12-10, 12-11, 14-5). -/
def payloadReserved (f : Frame) : Bool :=
  let k := frameType f
  let v := f.payload.toNat
  let rest (n : Nat) : Bool := decide (v / 2 ^ n ≠ 0)
  if k = frTempo then f.payload.getLsbD 91 || rest 98
  else if k = frHold then decide (v / 2 ^ 14 % 4 ≠ 0) || rest 64
  else if k = frDigest then decide (v / 2 ^ 52 % 2 ^ 12 ≠ 0) || (if v / 2 ^ 48 % 16 = 0 then rest 208 else rest 1088)
  else if k = frCtrl then
    match frameSub f with
    | 1 => decide (v / 2 ^ 48 % 2 ^ 16 ≠ 0) || rest 192
    | 2 => rest 16
    | 3 => rest 48
    | 4 => rest 49
    | 5 => rest 16
    | 6 => rest 16
    | _ => false
  else false

/-- Whether a frame with a good CRC is a protocol error (R456, R485). -/
def protoError (s : State) (c : Nat) (f : Frame) : Bool :=
  let k := frameType f
  let role := (cwOf s c).role
  decide (6 < k) || decide (hdrField f 6 2 ≠ 0) || (f.hdr.getLsbD 4 != frSeqd k) || tsReserved f || payloadReserved f
    || (decide (k = frDigest) && decide (role ≠ 2)) || (decide (k ≠ frCtrl) && decide (role = 3))
    || (decide (k = frHold) && decide (tempoRole s = 2) && decide (c = inLink s))

/-- The credits that a frame returns are taken (R461). -/
def takeCredits (c lane : Nat) (f : Frame) (s : State) : State :=
  modLane c lane (fun l => { l with credits := l.credits + hdrField f 24 8 }) s

/-- The acknowledgement and NAK of a frame are taken (R458, R459). -/
def takeAck (c lane : Nat) (f : Frame) (s : State) : State :=
  let ack := BitVec.ofNat 8 (hdrField f 16 8)
  let l := laneOf (cwOf s c) lane
  let s := match l.unacked.findIdx? fun u => decide (u.1 = ack) with
    | some k =>
      let done := (l.unacked.take (k + 1)).map (·.1)
      modLane c lane (fun l => { l with unacked := l.unacked.drop (k + 1), replays := 0,
                                        replay := l.replay.filter fun r => !done.contains r.1 }) s
    | none => s
  if f.hdr.getLsbD 5 then laneReplay c lane s else s

/-- A frame arrives: with a good CRC its ACK, NAK and CRED are taken, its place in the sequence and its form are checked, and
what it carries is handed on (R456, R458, R459, R461). In a training only CRED is: the sequences then resume or restart by CAPS
(R466, log entry 31). -/
def frameArrive (c lane : Nat) (f : Frame) (use : State → State) (s : State) : State :=
  let x := cwOf s c
  if !lanesRun x then s
  else if !crcGood f then crcFailed c lane 0 f.corrected.toNat s
  else
    let s := bump (cwWin c (corrReg x lane)) f.corrected.toNat (modLane c lane (fun l => { l with crcRun := 0 }) s)
    let up := decide (x.st = .up)
    let seqd := f.hdr.getLsbD 4
    let s := takeCredits c lane f s
    let s := if up then takeAck c lane f s else s
    if seqd && !up then s
    else if seqd && decide (hdrField f 8 8 ≠ (laneOf (cwOf s c) lane).rxNext.toNat) then modLane c lane laneMissing s
    else
      let bad := protoError s c f
      let s := if seqd then
          let s := modLane c lane (fun l => { l with rxNext := l.rxNext + 1, rxCredits := l.rxCredits + 1, nakMissing := false, nakDue := false }) s
          if bad then s else bump (cwWin c 0x06C) 1 s
        else s
      if bad then
        logAdd lkCwProtocol (0x100 + c) [hdrField f 0 32, hdrField f 32 32, hdrField f 64 32] (bump (cwWin c 0x050) 1 s)
      else if up || decide (frameType f = frCtrl) then use s else s

/-- A frame of type `k` arrives; one of another assigned type is not this event. A frame of a reserved type comes with any. -/
def arriveAs (k c lane : Nat) (f : Frame) (use : State → State) (s : State) : State :=
  if frameType f = k ∨ 6 < frameType f then frameArrive c lane f use s else s

/-- Whether a CTRL subtype is one of Table 12-5. -/
def subKnown (sub : Nat) : Bool := decide (1 ≤ sub ∧ sub ≤ 6)

/-- A CTRL frame of a subtype arrives; one of a reserved subtype comes with any, and does nothing beyond its header (log entry
30). -/
def ctrlAs (sub c lane : Nat) (f : Frame) (use : State → State) (s : State) : State :=
  if frameType f = frCtrl ∧ (frameSub f = sub ∨ !subKnown (frameSub f)) then
    frameArrive c lane f (fun s => if frameSub f = sub then use s else s) s
  else s

/-! ## DATA (R474 to R479) -/

/-- TS of a frame. -/
def frameTs (f : Frame) : BitVec 64 := BitVec.ofNat 64 (hdrField f 32 64)

/-- A field of TS. -/
def tsField (t : BitVec 64) (lo n : Nat) : Nat := t.toNat / 2 ^ lo % 2 ^ n

/-- Rows of the message that a frame belongs to. -/
def msgRows (t : BitVec 64) : Nat := 2 * (tsField t 44 8 + 1) - tsField t 61 1

/-- The rows that a frame carries, with their place in the message and their mire bits. -/
def frameRows (f : Frame) : List (Nat × Row × Bool) :=
  let t := frameTs f
  ([(2 * tsField t 36 8, f.payload.setWidth 1024, t.getLsbD 62),
    (2 * tsField t 36 8 + 1, (f.payload >>> 1024).setWidth 1024, t.getLsbD 63)]).filter fun r => decide (r.1 < msgRows t)

/-- The buffer that a DATA frame is for, its fen's pfen, its first row and its counter, where R475 accepts it. -/
def dataCheck (s : State) (t : BitVec 64) : Option (Nat × BufId × Nat × Nat) :=
  match bufOfCode (tsField t 12 2), pfenOf s (tsField t 6 6) with
  | some b, some p =>
    let g := tsField t 28 8
    let declared := (planOfFen s p).any fun x => x.msgCounters.contains (tsField t 6 6, g)
    if tsField t 0 6 = s.ringPos.toNat ∧ declared ∧ tsField t 14 9 < bufSlots b then
      some (p, b, 32 * tsField t 14 9 + tsField t 23 5, g)
    else none
  | _, _ => none

/-- A message's entry, opened at its first fragment. -/
def rxOf (x : Causeway) (t : BitVec 64) : RxMsg := (mapGet none x.rx (msgOf t)).getD ⟨t, [], false, []⟩

/-- A fragment is counted; a message with every fragment in leaves the reassembly (R476). -/
def rxTake (c : Nat) (t : BitVec 64) (reject : Bool) (data : List (Nat × Row)) (s : State) : Bool × RxMsg × State :=
  let m := rxOf (cwOf s c) t
  let m := { m with got := m.got ++ [fragOf t], rejected := m.rejected || reject, data := m.data ++ data }
  let whole := (List.range (tsField t 44 8 + 1)).all fun k => m.got.contains k
  (whole, m, modCw c (fun x => { x with rx := mapPut none x.rx (msgOf t) (if whole then none else some m) }) s)

/-- MSG_REJECT: the first rejected frame of a message (R475). -/
def msgReject (c : Nat) (t : BitVec 64) (s : State) : State :=
  let first := !(rxOf (cwOf s c) t).rejected
  let s := (rxTake c t true [] s).2.2
  if first then logAdd lkMsgReject (0x100 + c) [t.toNat, t.toNat / 2 ^ 32] (bump (cwWin c 0x054) 1 s) else s

/-- Rows of a message for a fen's buffer are written, and with the last of them its counter and tags change (R474, R476). -/
def dataRows (c : Nat) (f : Frame) (s : State) : State :=
  let t := frameTs f
  match dataCheck s t with
  | none => msgReject c t s
  | some (p, b, row, g) =>
    let s := spendRows p (frameRows f).length (settle p s)
    let s := (frameRows f).foldl (fun s r => arriveRow p b (bufWrap b (row + r.1)) r.2.1 r.2.2 s) s
    let r := rxTake c t false [] s
    if r.1 && !r.2.1.rejected && !bufsOff (fenOf r.2.2 p) then
      let at_ := (List.range (msgRows t)).map fun k => bufWrap b (row + k)
      countArrival p g r.2.2.ck ((slotsOf at_).foldl (fun s k => setTag p b k true s.ck s) r.2.2)
    else r.2.2

/-- The stream ID and tile index of a tile image's frame (Table 12-4). -/
def imageSid (t : BitVec 64) : BitVec 16 := BitVec.ofNat 16 (tsField t 6 6 + tsField t 14 9 * 2 ^ 6 + tsField t 23 1 * 2 ^ 15)
def imageTile (t : BitVec 64) : Nat := tsField t 28 8 + tsField t 25 3 * 2 ^ 8

/-- The incoming move that a tile image's frame belongs to, begun where a stream awaits one (R152, R478). -/
def moveInto (c : Nat) (sid : BitVec 16) (s : State) : Option (Move × State) :=
  if moveRefused s c sid then none
  else match moveOf s sid true, streamBy s sid with
  | some m, _ => if m.cw ≠ c then none else some (m, s)
  | none, some k =>
    let x := streamOf s k
    if x.st = .awaiting then
      let m : Move := { sid := sid, incoming := true, copy := false, dest := 0, plan := x.plan, binding := x.binding.toNat,
                        handle := 0, offset := 0, cw := c, remoteSid := sid, src := [], dst := x.tiles, readDone := 0,
                        writeDone := 0, tierWr := 0 }
      some (m, modStream k (fun x => { x with st := .moving }) { s with moves := s.moves ++ [m] })
    else none
  | none, none => none

/-- A move that comes over a causeway is rejected: no further image of it is written, and no later frame of it is taken. A stream
that awaits none keeps a record of it (R479). -/
def moveRefuse (c : Nat) (sid : BitVec 16) (s : State) : State :=
  match s.moves.find? fun m => m.incoming && decide (m.cw = c) && decide (m.sid = sid) with
  | some _ =>
    let mine (x : PortXfer) : Bool := match x.kind with
      | .moveWrite i _ (some _) => decide (i = sid) && x.start.isNone
      | _ => false
    modMove sid true (fun m => if m.cw = c then { m with rejected := true } else m) { s with ports := s.ports.filter fun x => !mine x }
  | none =>
    let m : Move := { sid := sid, incoming := true, copy := false, dest := 0, plan := 0, binding := 0, handle := 0, offset := 0,
                      cw := c, remoteSid := sid, src := [], dst := [], readDone := 0, writeDone := 0, tierWr := 0, rejected := true }
    { s with moves := s.moves ++ [m] }

/-- A frame of a move is rejected: MOVE_REJECT answers the first (R479). -/
def moveReject (c : Nat) (sid : BitVec 16) (t : BitVec 64) (s : State) : State :=
  let s := moveRefuse c sid (msgReject c t s)
  if (cwOf s c).answers.any fun a => decide (a.1 = 6 ∧ a.2.1 = sid) then s
  else
    modCw c (fun x => { x with answers := x.answers ++ [(0x06, sid, 7)] }) (sendCtrl c 0x06 (sid.setWidth 2048) s)

/-- A fragment of a tile image: with all 56 rows the image waits for its destination's window (R478). -/
def dataImage (c : Nat) (f : Frame) (s : State) : State :=
  let t := frameTs f
  let sid := imageSid t
  match moveInto c sid s with
  | none => moveReject c sid t s
  | some (m, s') =>
    if m.dst.length ≤ imageTile t ∨ msgRows t ≠ 56 then moveReject c sid t s
    else
      let r := rxTake c t false ((frameRows f).map fun r => (r.1, r.2.1)) s'
      if r.1 && !r.2.1.rejected then
        let rows := (List.range 56).map fun k => ((r.2.1.data.find? fun d => decide (d.1 = k)).map (·.2)).getD 0
        queuePort (acceptNumber s) (m.dst.getD (imageTile t) (0, 0, 0)) (.moveWrite sid (imageTile t)
          (some (imageEntries ((rows.map fun r => leBytes 128 r.toNat).flatten)))) r.2.2
      else r.2.2

/-- DATA_FRAME_RECEIVE. -/
def execDataFrameReceive (c : Fin 3) (lane : Fin 8) (f : Frame) (s : State) : Host.Outcome State Fault Refusal :=
  .next (arriveAs frData c.val lane.val f
    (fun s => if tsField (frameTs f) 12 2 = 3 then dataImage c.val f s else dataRows c.val f s) s)

/-! ## CARRY (R483) -/

/-- The rows that a CARRY frame holds, each with its START bit. -/
def carryFrameRows (t : BitVec 64) (pl : BitVec 2048) : List (Row × Bool) :=
  (pl.setWidth 1024, t.getLsbD 32) :: (if t.getLsbD 34 then [((pl >>> 1024).setWidth 1024, t.getLsbD 33)] else [])

/-- One row of the stream joins the carry in progress; 43 rows are a carry. -/
def carryRow (x : Causeway) (r : Row × Bool) : Causeway :=
  let rows := if r.2 then [r.1] else if x.carryRows = [] then [] else x.carryRows ++ [r.1]
  if rows.length = 43 then { x with carryRows := [], carryReady := x.carryReady ++ [rows] } else { x with carryRows := rows }

/-- Frames of the stream that are next in the order of FIDX are taken. -/
def carryTake : Nat → Causeway → Causeway
  | 0, x => x
  | n + 1, x =>
    match mapGet none x.carryRx x.carryNext with
    | none => x
    | some (t, pl) =>
      let x := { x with carryRx := mapPut none x.carryRx x.carryNext none, carryNext := x.carryNext + 1 }
      carryTake n ((carryFrameRows t pl).foldl carryRow x)

/-- The earliest tempo whose CARRY frames a link still takes: that of its stream, or the one before the block's own where the
stream's is not within a tempo of the block's (R483, log entry 122). -/
def carryFloor (s : State) (x : Causeway) : BitVec 16 :=
  let prev := s.tempo.count.setWidth 16 - 1
  if (x.carryTempo - prev).toNat ≤ 2 then x.carryTempo else prev

/-- A CARRY frame joins its tempo's stream; the first of a later tempo begins a new stream. -/
def carryArrive (c : Nat) (f : Frame) (s : State) : State :=
  let t := frameTs f
  let tempo := BitVec.ofNat 16 (tsField t 16 16)
  modCw c (fun x =>
    if 2 ^ 15 ≤ (tempo - carryFloor s x).toNat then x
    else
      let x := if tempo = x.carryTempo then x else { x with carryTempo := tempo, carryRx := [], carryNext := 0, carryRows := [] }
      let x := { x with carryRx := mapPut none x.carryRx (tsField t 0 16) (some (t, f.payload)) }
      carryTake x.carryRx.length x) s

/-- CARRY_FRAME_RECEIVE. -/
def execCarryFrameReceive (c : Fin 3) (lane : Fin 8) (f : Frame) (s : State) : Host.Outcome State Fault Refusal :=
  .next (arriveAs frCarry c.val lane.val f (carryArrive c.val f) s)

/-! ## The other types -/

/-- CREDIT_FRAME_RECEIVE: nothing beyond its header. -/
def execCreditFrameReceive (c : Fin 3) (lane : Fin 8) (f : Frame) (s : State) : Host.Outcome State Fault Refusal :=
  .next (arriveAs 0 c.val lane.val f id s)
/-- DIGEST_FRAME_RECEIVE. -/
def execDigestFrameReceive (c : Fin 3) (lane : Fin 8) (f : Frame) (s : State) : Host.Outcome State Fault Refusal :=
  .next (arriveAs frDigest c.val lane.val f (digestArrive f.payload) s)
/-- TEMPO_FRAME_RECEIVE. -/
def execTempoFrameReceive (c : Fin 3) (lane : Fin 8) (f : Frame) (s : State) : Host.Outcome State Fault Refusal :=
  .next (arriveAs frTempo c.val lane.val f (markerArrive c.val f.payload) s)
/-- HOLD_FRAME_RECEIVE: it travels only on ring links (R485). -/
def execHoldFrameReceive (c : Fin 3) (lane : Fin 8) (f : Frame) (s : State) : Host.Outcome State Fault Refusal :=
  .next (arriveAs frHold c.val lane.val f (fun s => if c.val = 2 then s else holdArrive c.val f.payload s) s)
/-- CAPS_RECEIVE: the agreement checks of phase 3. -/
def execCapsReceive (c : Fin 3) (lane : Fin 8) (f : Frame) (s : State) : Host.Outcome State Fault Refusal :=
  .next (ctrlAs 1 c.val lane.val f (fun s =>
    if (cwOf s c.val).phase = 3 then capsTake c.val (f.payload.setWidth 192) s else s) s)
/-- ECHO_RECEIVE: the reply carries the turnaround up to the moment it leaves. -/
def execEchoReceive (c : Fin 3) (lane : Fin 8) (f : Frame) (s : State) : Host.Outcome State Fault Refusal :=
  .next (ctrlAs 2 c.val lane.val f (fun s => modCw c.val (fun x => { x with
    tx := x.tx ++ [{ kind := frCtrl, ts := BitVec.ofNat 64 (3 + 256 * s.now), payload := (f.payload.setWidth 16).setWidth 2048 }] }) s) s)
/-- ECHO_REPLY_RECEIVE: the round trip is the time from the ECHO's leaving, `flight` in 1/8 ns, less the turnaround (R465). -/
def execEchoReplyReceive (c : Fin 3) (lane : Fin 8) (f : Frame) (flight : BitVec 32) (s : State) :
    Host.Outcome State Fault Refusal :=
  .next (ctrlAs 3 c.val lane.val f (fun s =>
    let x := cwOf s c.val
    let n := f.payload.setWidth 16
    let rtt := BitVec.ofNat 24 (roundNs (flight.toNat - f.payload.toNat / 2 ^ 16 % 2 ^ 32))
    if x.st = .up then (if n = x.echoNum - 1 then echoMeasured c.val rtt s else s)
    else if x.phase = 4 ∧ n.toNat < 16 ∧ !(x.exchanges.any fun e => decide (e.1 = n)) then
      modCw c.val (fun x => { x with exchanges := x.exchanges ++ [(n, rtt)] }) s
    else s) s)
/-- HEARTBEAT_RECEIVE. -/
def execHeartbeatReceive (c : Fin 3) (lane : Fin 8) (f : Frame) (s : State) : Host.Outcome State Fault Refusal :=
  .next (ctrlAs 4 c.val lane.val f (fun s =>
    modCw c.val (fun x => { x with hbLost := false, hbAt := s.now, hbBoundaries := 0 }) s) s)

/-- The outgoing move that an answer on a causeway matches (R479). -/
def moveAnswered (s : State) (c : Nat) (f : Frame) : Option Move :=
  s.moves.find? fun m => !m.incoming && decide (m.dest = 2) && decide (m.cw = c) && decide (m.remoteSid = f.payload.setWidth 16)

/-- MOVE_DONE_RECEIVE. -/
def execMoveDoneReceive (c : Fin 3) (lane : Fin 8) (f : Frame) (s : State) : Host.Outcome State Fault Refusal :=
  .next (ctrlAs 5 c.val lane.val f (fun s => match moveAnswered s c.val f with
    | some m => moveDone m.sid m s
    | none => s) s)
/-- MOVE_REJECT_RECEIVE. -/
def execMoveRejectReceive (c : Fin 3) (lane : Fin 8) (f : Frame) (s : State) : Host.Outcome State Fault Refusal :=
  .next (ctrlAs 6 c.val lane.val f (fun s => match moveAnswered s c.val f with
    | some m => moveFail m s
    | none => s) s)

/-! ## Rows of the block network (R17, R364) -/

/-- NETWORK_ROW_DELIVERY: the oldest SEND that a fen has put on the network arrives. A message to another block joins its
causeway's gateway. -/
def networkDeliver (p : Nat) (s : State) : State :=
  match (fenOf s p).net with
  | [] => s
  | x :: l =>
    let s := modFen p (fun f => { f with net := l }) s
    let s := advanceCk ((x.start.getD x.issued) + 52 + x.n) s
    match x.dest with
    | .remote c block n b row g =>
      sendMessage c { pos := block, fen := n, buf := bufCode b, slot := row / 32, row := row % 32, group := g } x.rows s
    | .fen n b row g =>
      match pfenOf s n with
      | some q => arriveRows q b row g x.rows (spendRows q x.rows.length (settle q s))
      | none => s

/-- NETWORK_ROW_DELIVERY. -/
def execNetworkRowDelivery (p : Fin 72) (s : State) : Host.Outcome State Fault Refusal :=
  .next (if ckRuns s then networkDeliver p.val (settle p.val s) else s)

end Sys2Proof.Machine
end

