-- ==== Sys2Proof/Machine/Objects.lean ====
section
/-!
DEFINITION. The object table (R425 to R438): OBJ_CMD operations, holds, promotions and demotions, and the tier B ranks
(R444 to R446).
-/

namespace Sys2Proof.Machine

/-- The bits of an object entry (Table 11-3). -/
def objBits (o : Obj) : BitVec 384 :=
  let b (x : Bool) : Nat := if x then 1 else 0
  let w0 := o.home.toNat + 4 * b o.valid + 8 * b o.resB + 16 * b o.resA + 32 * b o.pendB + 64 * b o.pendA + 128 * b o.dirty
    + 256 * b o.demoting + o.epoch.toNat * 2 ^ 12
  let done := if o.pendB then o.donePages else if o.pendA then o.doneA else 0
  BitVec.ofNat 384 (w0 + o.holds * 2 ^ 32 + o.readers * 2 ^ 48 + o.writers * 2 ^ 56 + o.size * 2 ^ 64 + o.nsid.toNat * 2 ^ 96
    + o.homeAddr.toNat * 2 ^ 128 + o.addrB.toNat * 2 ^ 192 + o.addrA.toNat * 2 ^ 256 + done * 2 ^ 320
    + o.fmt.toNat * 2 ^ 352 + b o.sc * 2 ^ 356)

/-! ## OBJ_CMD (R427, R448) -/

/-- The status of the last OBJ_CMD; BUSY is clear. -/
def objResult (st : Status) (s : State) : State := setReg 0x6068 (st.setWidth 32) s

/-- The entry that OBJ_SEL names. -/
def objSel (s : State) : Nat := regBits s 0x6060 11 0

/-- The next epoch of an entry. -/
def nextEpoch (e : BitVec 20) : BitVec 20 := if e = 0xFFFFF then 1 else e + 1

/-- A staging word of an operation. -/
def stageWord (x : ObjOp) (n : Nat) : Word := mapGet 0#32 x.stage n

/-- What CREATE refuses of a home, size, address and format (R427). -/
def createOk (home size addr fmt : Nat) : Bool :=
  decide (home < 3) && decide (1 ≤ size) && decide (size ≤ 2 ^ 30) && decide (fmt < 13)
    && (decide (home = 2) || (decide (addr % 4096 = 0)
      && decide (addr + 4096 * size ≤ tierSize (if home = 0 then .a else .b))))

/-- CREATE (R427): an entry is created from the staging words. -/
def objCreate (x : ObjOp) (s : State) : State :=
  let home := bitsOf (stageWord x 0) 1 0
  let size := (stageWord x 2).toNat
  let addr := (stageWord x 4).toNat + 2 ^ 32 * (stageWord x 5).toNat
  let fmt := bitsOf (stageWord x 11) 3 0
  if (objOf s x.sel).valid || !createOk home size addr fmt then objResult stRefusedConfig s
  else
    startDone 8 <| objResult stOk (modObj x.sel (fun o =>
      { home := BitVec.ofNat 2 home, valid := true, epoch := nextEpoch o.epoch, size := size, nsid := stageWord x 3,
        homeAddr := BitVec.ofNat 64 addr, fmt := BitVec.ofNat 4 fmt, sc := (stageWord x 11).getLsbD 4 }) s)

/-- The refusals that DESTROY and RENEW share. -/
def objBusy (o : Obj) (epoch : BitVec 20) : Option Status :=
  if !o.valid || decide (o.epoch ≠ epoch) then some stEpochMismatch
  else if o.holds ≠ 0 ∨ o.readers ≠ 0 ∨ o.writers ≠ 0 ∨ o.pendA ∨ o.pendB ∨ o.demoting then some stHeld
  else none

/-- DESTROY (R427). -/
def objDestroy (x : ObjOp) (s : State) : State :=
  match objBusy (objOf s x.sel) x.epoch with
  | some st => objResult st s
  | none => objResult stOk (modObj x.sel (fun o => { o with valid := false }) s)

/-- RENEW (R427). -/
def objRenew (x : ObjOp) (s : State) : State :=
  let o := objOf s x.sel
  match objBusy o x.epoch with
  | some st => objResult st s
  | none =>
    if o.dirty then objResult stRefusedConfig s
    else objResult stOk (modObj x.sel (fun o => { o with epoch := nextEpoch o.epoch, resA := false, resB := false }) s)

/-- The control core takes the OBJ_CMD operation that waits, if any, and posts its status (R429, R448). -/
def objTake (s : State) : State :=
  match s.objOp with
  | none => s
  | some x =>
    let s := { s with objOp := none }
    match x.op with
    | 1 => objCreate x s
    | 2 => objDestroy x s
    | _ => objRenew x s

/-- A write of OBJ_CMD: ignored while BUSY is 1; otherwise BUSY is set until the control core takes the operation, which is at once
where the firmware runs (R429, R448, R518; log entry 116). -/
def objWrite (op : Nat) (epoch : BitVec 20) (s : State) : State :=
  if s.objOp.isSome then s
  else
    let s := { s with objOp := some ⟨op, epoch, objSel s, s.objStage⟩ }
    if s.mbox.fw = .running then objTake s else orReg 0x6068 0x10000#32 s

/-- OBJ_CREATE (R427). -/
def execObjCreate (epoch : BitVec 20) (s : State) : Host.Outcome State Fault Refusal := .next (objWrite 1 epoch s)

/-- OBJ_DESTROY (R427). -/
def execObjDestroy (epoch : BitVec 20) (s : State) : Host.Outcome State Fault Refusal := .next (objWrite 2 epoch s)

/-- OBJ_RENEW (R427). -/
def execObjRenew (epoch : BitVec 20) (s : State) : Host.Outcome State Fault Refusal := .next (objWrite 3 epoch s)

/-- OBJ_DATA_SAMPLE (R447): a read of OBJ_DATA0 samples the entry that OBJ_SEL names. -/
def execObjDataSample (s : State) : Host.Outcome State Fault Refusal :=
  let v := objBits (objOf s (objSel s))
  let words := (List.range 12).map fun k => (v >>> (32 * k)).setWidth 32
  .next (emit (.readValue 0x6080 (words.headD 0)) { s with objSample := words })

/-! ## Holds and promotions (R434 to R436) -/

/-- The handle of an object command (R426): what to do with the entry, or EPOCH_MISMATCH. -/
def withObj (c : Cmd) (p : Packet) (body : Nat → Obj → State → State) (s : State) : State :=
  match objCurrent s (BitVec.ofNat 32 (par p 0 4)) with
  | none => reply c stEpochMismatch s
  | some k => body k (objOf s k) s

/-- HOLD_OBJECT (R436). -/
def execHoldObject (q : Fin 16) (p : Packet) (s : State) : Host.Outcome State Fault Refusal :=
  .next (acceptCmd 0x22 q.val p (fun c _ s => withObj c p (fun k o s =>
    if 0xFFFF ≤ o.holds then reply c stRefusedConfig s
    else reply c stOk (modObj k (fun o => { o with holds := o.holds + 1 }) s)) s) s)

/-- RELEASE_OBJECT (R436). -/
def execReleaseObject (q : Fin 16) (p : Packet) (s : State) : Host.Outcome State Fault Refusal :=
  .next (acceptCmd 0x23 q.val p (fun c _ s => withObj c p (fun k o s =>
    if o.holds = 0 then reply c stRefusedConfig s
    else reply c stOk (modObj k (fun o => { o with holds := o.holds - 1 }) s)) s) s)

/-- PROMOTE's result: the handle and HOLDS after the command. -/
def promoteReply (c : Cmd) (st : Status) (k : Nat) (s : State) : State :=
  let o := objOf s k
  replyWith c st true (BitVec.ofNat 96 (k + o.epoch.toNat * 2 ^ 12 + o.holds * 2 ^ 32)) s

/-- Whether an object has a complete copy at T, and one in progress. -/
def resAt (o : Obj) (toA : Bool) : Bool := if toA then o.resA else o.resB
/-- PEND_T. -/
def pendAt (o : Obj) (toA : Bool) : Bool := if toA then o.pendA else o.pendB
/-- The address of the copy at T. -/
def addrAt (o : Obj) (toA : Bool) : Nat := if toA then o.addrA.toNat else o.addrB.toNat

/-- Whether PROMOTE may name this tier and address for an object (R432, R434). -/
def promoteOk (o : Obj) (tier addr : Nat) : Bool :=
  let toA := decide (tier = 0)
  decide (tier < 2) && (if o.home = 1 then toA else decide (o.home = 2))
    && (!toA || decide (o.home ≠ 2) || o.resB || o.pendB) && decide (o.holds < 0xFFFF) && decide (o.writers = 0)
    && decide (addr % 4096 = 0) && decide (addr + 4096 * o.size ≤ tierSize (if toA then .a else .b))

/-- PROMOTE (R434, R438). -/
def execPromote (q : Fin 16) (p : Packet) (s : State) : Host.Outcome State Fault Refusal :=
  .next (acceptCmd 0x20 q.val p (fun c _ s => withObj c p (fun k o s =>
    let toA := decide (par p 4 1 = 0)
    let addr := par p 8 8
    let there := resAt o toA || pendAt o toA
    if !promoteOk o (par p 4 1) addr || (there && decide (addrAt o toA ≠ addr)) then reply c stRefusedConfig s
    else
      let s := modObj k (fun o => { o with holds := o.holds + 1 }) s
      let job : ObjJob := ⟨c, true, toA, 0, true⟩
      if resAt o toA ∧ ¬(o.writeback ∧ toA) then promoteReply c stOk k s
      else if there then modObj k (fun o => { o with jobs := o.jobs ++ [job] }) s
      else modObj k (fun o => { o with
        jobs := o.jobs ++ [job], pendA := o.pendA || toA, pendB := o.pendB || !toA,
        addrA := if toA then BitVec.ofNat 48 addr else o.addrA, addrB := if toA then o.addrB else BitVec.ofNat 48 addr,
        doneA := if toA then 0 else o.doneA, donePages := if toA then o.donePages else 0,
        extDone := if toA then o.extDone else [], extNext := if toA then o.extNext else 0,
        extRetry := if toA then o.extRetry else [], miredA := if toA then false else o.miredA, miredB := if toA then o.miredB else false }) s) s) s)

/-- The last page of a copy is done: RES_T is set and the PROMOTEs that wait for it are answered (R435). -/
def copyDone (k : Nat) (toA : Bool) (s : State) : State :=
  let o := objOf s k
  let st := if (if toA then o.miredA else o.miredB) then stMired else stOk
  let mine := o.jobs.filter fun j => j.promote && decide (j.toA = toA)
  let s := modObj k (fun o => { o with
    resA := o.resA || toA, resB := o.resB || !toA, pendA := o.pendA && !toA, pendB := o.pendB && toA,
    doneA := if toA then 0 else o.doneA, donePages := if toA then o.donePages else 0,
    extDone := if toA then o.extDone else [], extNext := if toA then o.extNext else 0, extRetry := if toA then o.extRetry else [],
    dirty := if toA then false else o.dirty,
    jobs := o.jobs.filter fun j => !(j.promote && decide (j.toA = toA)) }) s
  mine.foldl (fun s j => promoteReply j.cmd st k s) s

/-- The pages that lie behind DONE_PAGES once extents out of order have caught up (R435). -/
def runPages (size : Nat) : Nat → List Nat → Nat → Nat
  | 0, _, n => n
  | k + 1, done, n => if done.contains n then runPages size k done (min size (n + 32)) else n

/-- PROMOTION_EXTENT_COMPLETE (R435): an 8 KiB transfer of a copy to tier A is made, of which the tier B controller reports the
rows `bad` uncorrectable (R421), or DONE_PAGES of a copy to tier B
advances over the extents that have completed. -/
def execPromotionExtentComplete (o : Fin 4096) (ext : CopyExtent) (s : State) : Host.Outcome State Fault Refusal :=
  let x := objOf s o.val
  let toA := ext.toA
  let bad := ext.bad
  if !tierWorks s || !pendAt x toA then .next s
  else if toA then
    let from_ := if x.home = 1 then x.homeAddr.toNat else x.addrB.toNat
    let limit := if x.home = 2 ∧ x.pendB then x.donePages else x.size
    let n := min 2 (limit - x.doneA)
    let src := from_ + 4096 * x.doneA
    let addrs := [src, src + 4096 * n - 1]
    if n = 0 ∨ anyRank s .waking (some .b) addrs then .next s
    else
      let dst := x.addrA.toNat + 4096 * x.doneA
      let off := anyRank s .off (some .b) addrs
      let s := if off then bump 0x60D8 1 (writeMirePages .a dst n x.fmt.toNat x.sc s)
        else copyBytes .b .a src dst (4096 * n) x.fmt.toNat x.sc bad s
      let lost := off || bad.any fun k => decide (128 * k < 4096 * n)
      let s := modObj o.val (fun x => { x with doneA := x.doneA + n, miredA := x.miredA || lost }) s
      .next (if x.doneA + n = x.size then copyDone o.val true s else s)
  else
    let n := runPages x.size x.extDone.length x.extDone x.donePages
    let s := modObj o.val (fun x => { x with donePages := n, extDone := x.extDone.filter fun e => decide (n ≤ e) }) s
    .next (if n = x.size then copyDone o.val false s else s)

/-! ## Demotion (R437, R438) -/

/-- Whether a demotion from T may proceed. -/
def demoteFree (s : State) (k : Nat) (toA : Bool) : Bool :=
  let o := objOf s k
  decide (o.holds = 0) && !pendAt o toA
    && (objRefs s k).all (fun r => if toA then decide (r.2 ≠ .a) else decide (r.2 = .a))
    && (toA || (!o.resA && !o.pendA))

/-- DEMOTING as the DEMOTEs that remain give it. -/
def fixDemoting (k : Nat) (s : State) : State :=
  modObj k (fun o => { o with demoting := o.jobs.any fun j => !j.promote }) s

/-- A demotion's end: the copy at T is given up, and every DEMOTE of T that finds it gone is answered OK. -/
def demoteEnd (k : Nat) (toA : Bool) (s : State) : State :=
  let mine := (objOf s k).jobs.filter fun j => !j.promote && decide (j.toA = toA)
  let s := modObj k (fun o => { o with
    resA := o.resA && !toA, resB := o.resB && toA, dirty := o.dirty && !toA, writeback := o.writeback && !toA,
    jobs := o.jobs.filter fun j => j.promote || decide (j.toA ≠ toA) }) s
  replyAll (mine.map (·.cmd)) stOk (fixDemoting k s)

/-- A demotion proceeds: a DIRTY tier A copy is written back first, once for all that proceed meanwhile. -/
def demoteGo (k : Nat) (toA : Bool) (c : Cmd) (s : State) : State :=
  let o := objOf s k
  if toA ∧ o.dirty then
    modObj k (fun o => { o with
      writeback := true, demoting := true,
      jobs := o.jobs.map fun j => if j.cmd = c then { j with started := true } else j }) s
  else demoteEnd k toA s

/-- Units of State's time in a millisecond. -/
def unitsMs : Nat := 4500000

/-- DEMOTE (R437). -/
def execDemote (q : Fin 16) (p : Packet) (s : State) : Host.Outcome State Fault Refusal :=
  .next (acceptCmd 0x21 q.val p (fun c _ s => withObj c p (fun k o s =>
    let toA := decide (par p 4 1 = 0)
    if 2 ≤ par p 4 1 ∨ (if toA then o.home = 0 else o.home = 1) then reply c stRefusedConfig s
    else if !resAt o toA && !pendAt o toA then reply c stOk s
    else
      let job : ObjJob := ⟨c, false, toA, s.now + unitsMs * par p 6 2, false⟩
      if demoteFree s k toA then
        demoteGo k toA c (modObj k (fun o => { o with jobs := o.jobs ++ [job] }) s)
      else if par p 6 2 = 0 then reply c stHeld s
      else replyWith c stDeferred false 0 (modObj k (fun o => { o with jobs := o.jobs ++ [job], demoting := true }) s)) s) s)

/-- DEMOTE_PROCEED (R437): the first deferred DEMOTE whose conditions have come to hold goes on. -/
def execDemoteProceed (o : Fin 4096) (s : State) : Host.Outcome State Fault Refusal :=
  let x := objOf s o.val
  match x.jobs.find? fun j => !j.promote && !j.started && demoteFree s o.val j.toA with
  | none => .next s
  | some j => .next (demoteGo o.val j.toA j.cmd s)

/-- DEMOTE_WRITEBACK_DONE (R437, R438): the DIRTY copy has been written back. A PROMOTE accepted meanwhile keeps it; a hold
or a reference taken meanwhile defers the demotion again. The tier A controller reports the rows `bad` uncorrectable (R421). -/
def execDemoteWritebackDone (w : WriteBack) (s : State) : Host.Outcome State Fault Refusal :=
  let o := w.obj
  let bad := w.bad
  let x := objOf s o.val
  if !tierWorks s || !x.writeback || !ranksOn s x.homeAddr.toNat (4096 * x.size) then .next s
  else
    let s := copyBytes .a .b x.addrA.toNat x.homeAddr.toNat (4096 * x.size) x.fmt.toNat x.sc bad s
    let s := modObj o.val (fun x => { x with dirty := false, writeback := false }) s
    let wants := x.jobs.filter fun j => j.promote && j.toA
    let mine := x.jobs.filter fun j => !j.promote && j.started
    if wants ≠ [] then
      let s := modObj o.val (fun x => { x with jobs := x.jobs.filter fun j => !(j.promote && j.toA) && !(!j.promote && j.started) }) s
      .next (replyAll (mine.map (·.cmd)) stHeld (wants.foldl (fun s j => promoteReply j.cmd stOk o.val s) (fixDemoting o.val s)))
    else if demoteFree s o.val true then .next (demoteEnd o.val true s)
    else .next (modObj o.val (fun x => { x with jobs := x.jobs.map fun j => if j.promote then j else { j with started := false } }) s)

/-- DEMOTE_TIMEOUT (R437): the earliest timeout of a deferred DEMOTE passes before its conditions hold. -/
def execDemoteTimeout (o : Fin 4096) (s : State) : Host.Outcome State Fault Refusal :=
  let late := (objOf s o.val).jobs.filter fun j => !j.promote && !j.started && !demoteFree s o.val j.toA
  match late.find? fun j => late.all fun i => decide (j.deadline ≤ i.deadline) with
  | none => .next s
  | some j =>
    let s := advanceTo j.deadline s
    .next (reply j.cmd stHeld (fixDemoting o.val (modObj o.val (fun x => { x with jobs := x.jobs.erase j }) s)))

/-! ## Ranks (R444 to R446) -/

/-- Whether TB_RANK_PWR requests rank r ON. -/
def rankWanted (s : State) (r : Nat) : Bool := regBit s 0x60C0 r

/-- A rank that is ON or OFF follows its request. -/
def rankFollow (r : Nat) (s : State) : State :=
  match (rankOf s r).st, rankWanted s r with
  | .on, false => modRank r (fun x => { x with st := .fenced, since := s.now }) s
  | .off, true => modRank r (fun x => { x with st := .waking, since := s.now }) s
  | _, _ => s

/-- TB_RANK_PWR_WRITE (R444). -/
def execTbRankPwrWrite (v : Word) (s : State) : Host.Outcome State Fault Refusal :=
  .next ((List.range 16).foldl (fun s r => rankFollow r s) (setReg 0x60C0 (v &&& 0xFFFF#32) s))

/-- RANK_FENCE_EXPIRY (R444): a FENCED rank enters DRAINING after TB_FENCE_US. -/
def execRankFenceExpiry (r : Fin 16) (s : State) : Host.Outcome State Fault Refusal :=
  let x := rankOf s r.val
  if x.st ≠ .fenced then .next s
  else
    let s := advanceTo (x.since + unitsUs * regBits s 0x60CC 15 0) s
    .next (modRank r.val (fun x => { x with st := .draining, since := s.now }) s)

/-- Whether a rank is among those that `n` bytes of tier B touch. -/
def inRank (r addr n : Nat) : Bool := decide (rankAt addr ≤ r ∧ r ≤ rankAt (addr + n - 1))

/-- Whether a transfer to the rank is in flight: of a lode, an NVMe read, or the drain of a snapshot (R444). -/
def rankBusy (s : State) (r : Nat) : Bool :=
  (s.lodes.any fun l => l.2.inflight.any fun t =>
    decide (t.tier = some .b ∨ t.tier = some .bAsC) && t.rows.any fun x => decide (rankAt (t.origin + x.2) = r))
  || (s.flash.any fun q => q.2.out.any fun c =>
    inRank r ((objOf s c.obj).addrB.toNat + 4096 * c.page) (4096 * c.pages))
  || (s.snap.draining && inRank r s.snap.addr imgBytes)

/-- RANK_DRAIN_END (R444): the rank goes OFF with nothing in flight to it, or at the limit TB_DRAIN_US. -/
def execRankDrainEnd (r : Fin 16) (s : State) : Host.Outcome State Fault Refusal :=
  let x := rankOf s r.val
  if x.st ≠ .draining then .next s
  else
    let s := if rankBusy s r.val then advanceTo (x.since + unitsUs * regBits s 0x60D0 15 0) s else s
    .next (rankFollow r.val (modRank r.val (fun x => { x with st := .off, since := s.now }) s))

/-- RANK_WAKE_DONE (R446): the records are written in their mired form and the rank becomes ON. -/
def execRankWakeDone (r : Fin 16) (s : State) : Host.Outcome State Fault Refusal :=
  let x := rankOf s r.val
  if x.st ≠ .waking then .next s
  else
    let s := x.records.foldl (fun s w => w.1.foldl (fun s a => mireRow .b w.2.1 w.2.2 a s) s) s
    .next (rankFollow r.val (modRank r.val (fun x => { x with st := .on, since := s.now, records := [] }) s))

end Sys2Proof.Machine
end

