-- ==== Sys2Proof/Machine/Plan.lean ====
section
/-!
DEFINITION. A loaded plan's end: UNLOAD_PLAN and the unload of R19 (R402, R433, R501), the segment start of a plan's fens
(R331, R363, R370), and the power that plans declare.
-/

namespace Sys2Proof.Machine

/-- The pfens that hold the image of plan `k`. -/
def planPfens (s : State) (k : Nat) : List Nat := (s.fens.filter fun f => decide (f.2.img.plan = some k)).map (·.1)

/-- An image without its plan; what instruction memory holds stays. -/
def imageDropped (x : Image) : Image := { imem := x.imem, imemErr := x.imemErr, scrub := x.scrub }

/-- A fen loses its plan's image; a halted one stays halted (R373). -/
def dropImage (p : Nat) (s : State) : State :=
  modFen p (fun f => { f with
    img := imageDropped f.img
    seq := { f.seq with st := if f.seq.st = .halted then .halted else .idle, endIssued := false } }) s

/-- A plan's lode issues nothing further; it is freed at once when nothing is in flight (R402). -/
def dropLode (l : Nat) (s : State) : State :=
  let x := lodeOf s l
  if x.inflight = [] then lodeFree l s else modLode l (fun x => { x with st := .halted, stepWait := 0, baseStep := false, segRun := false }) s

/-- A plan goes: its fens start no further segment and its lodes end; its record stays until its lodes are free, when the
commands that wait are answered (R402, R433, R509). -/
def dropPlan (k : Nat) (s : State) : State :=
  let fens := planPfens s k
  let lodes := (s.lodes.filter fun l => decide (l.2.plan = some k)).map (·.1)
  let s := putPlan k ((planOf s k).map fun x => { x with unloading := true, gone := true }) s
  let s := fens.foldl (fun s p => dropImage p s) s
  let s := lodes.foldl (fun s l => dropLode l s) s
  unloadReplies k { s with decisions := s.decisions.filter fun d => decide (d.1 / 64 ≠ k) }

/-- Every loaded plan goes (R19). -/
def dropPlans (s : State) : State := ((plansOf s).map (·.1)).foldl (fun s k => dropPlan k s) s

/-- UNLOAD_PLAN: at the next boundary, or at acceptance while the tempo is stopped. The plan's lodes issue nothing further, and
those with nothing in flight are freed (R402). -/
def execUnloadPlan (q : Fin 16) (p : Packet) (s : State) : Host.Outcome State Fault Refusal :=
  .next (acceptCmd 0x09 q.val p (fun c _ s =>
    let k := par p 0 1
    match planOf s k with
    | none => reply c stRefusedConfig s
    | some x =>
      let s := { putPlan k (some { x with unloading := true }) s with jobs := s.jobs ++ [.unload c k] }
      let lodes := (s.lodes.filter fun l => decide (l.2.plan = some k)).map (·.1)
      if tempoStopped s then dropPlan k s else lodes.foldl (fun s l => lodeSettle l s) s) s)

/-! ## Segment start -/

/-- A fen with a loaded plan starts its segment in CK `ck` (R331, R363, R370), unless it is HALTED or stale (R546). -/
def startFen (ck p : Nat) (s : State) : State :=
  let f := fenOf s p
  if f.img.plan = none ∨ f.seq.st = .halted ∨ f.life.stale ∨ !fenIsOn f then s
  else
    let links := f.img.links.map fun l => (l.1, { l.2 with
      credit := l.2.nextK, creditPrev := l.2.nextK, creditAt := 0, cur := 0 : ChainLink })
    putFen p { f with seq := { st := .running, pc := f.img.entry.toNat, segStart := ck },
                      img := { f.img with routeRow := [], links := links } } s

end Sys2Proof.Machine
end

