-- ==== Sys2Proof/Machine/Survival.lean ====
section
/-!
DEFINITION. Spares, epochs and the heron (R523 to R528, R544 to R550), and the sensors it reads (R567).
-/

namespace Sys2Proof.Machine

/-! ## FEN_RETIRE and FEN_ADMIT -/

/-- The pfens that may take a logical number: none holds one, is retired, reserved, disabled or failed (R548). -/
def spareOk (s : State) (p : Nat) : Bool :=
  let x := (fenOf s p).life
  decide (p < 72) && (logicalOf s p).isNone && !x.retired && !x.reserved && !x.disabled && !x.bistFailed

/-- A change of the spare map: the generation steps and every plan is unloaded (R19). -/
def mapChanged (s : State) : State := dropPlans { s with mapGen := s.mapGen + 1 }

/-- FEN_RETIRE takes effect (R549, R550). -/
def retireNow (c : Cmd) (n : Nat) (spare : Option Nat) (s : State) : State :=
  let s := match pfenOf s n with
    | none => s
    | some p =>
      let s := modFen p (fun f => { f with life := { f.life with retired := true } }) { s with spareMap := mapPut none s.spareMap n none }
      pwrRequest p ⟨.off, none⟩ s
  match spare with
  | none => reply c stOk (mapChanged s)
  | some q =>
    let s := { s with spareMap := mapPut none s.spareMap n (some q), spareFens := s.spareFens - 1 }
    let s := modFen q (fun f => { f with life := { f.life with reserved := false } }) s
    pwrRequest q ⟨.on, some c⟩ (makeStale q staleRetire (fenReset q (mapChanged s)))

/-- FEN_RETIRE: refused, or it reserves its spare and takes effect at a boundary or, while no segment runs, at once. -/
def execFenRetire (q : Fin 16) (p : Packet) (s : State) : Host.Outcome State Fault Refusal :=
  .next (acceptCmd 0x38 q.val p (fun c t s =>
    match t with
    | .fen n =>
      let k := par p 0 1
      let spare := if k = 0xFF then none else some k
      if !(spare.all fun x => spareOk s x) || moveTouches s (some n) then reply c stRefusedConfig s
      else
        let s := match spare with
          | some x => modFen x (fun f => { f with life := { f.life with reserved := true } }) s
          | none => s
        if noSegment s then retireNow c n spare s else { s with jobs := s.jobs ++ [.retire c n spare] }
    | _ => reply c stRefusedConfig s) s)

/-- FEN_ADMIT takes effect (R547). -/
def admitNow (c : Cmd) (n : Nat) (epoch : Word) (s : State) : State :=
  match pfenOf s n with
  | none => reply c stRefusedConfig s
  | some p => reply c stOk (modFen p (fun f =>
      { f with life := { f.life with epoch := epoch, stale := false, restored := false, retentionFault := false } }) s)

/-- FEN_ADMIT. -/
def execFenAdmit (q : Fin 16) (p : Packet) (s : State) : Host.Outcome State Fault Refusal :=
  .next (acceptCmd 0x39 q.val p (fun c t s =>
    match t with
    | .fen n =>
      match pfenOf s n with
      | none => reply c stRefusedConfig s
      | some k =>
        let f := fenOf s k
        let epoch := BitVec.ofNat 32 (par p 0 4)
        if !f.life.stale || decide (epoch = 0) || decide (epoch = f.life.epoch) || decide (fenReg s k 0x310 ≠ 0)
            || (fenReg s k 0x718).getLsbD 0 then reply c stRefusedConfig s
        else if f.pwr.st ≠ .on then reply c stRefusedPower s
        else if noSegment s then admitNow c n epoch s
        else { s with jobs := s.jobs ++ [.admitFen c n epoch] }
    | _ => reply c stRefusedConfig s) s)

/-! ## The heron -/

/-- What the counters of an input hold in sum; for DROOP, the droop events of every fen. -/
def heronSum (s : State) (i : Nat) : Int :=
  if i = 0 then ((s.fens.map fun f => f.2.droops).sum : Nat) else (((heronCounters i).map fun o => (reg s o).toNat).sum : Nat)

/-- Events of a counting input since the last update. -/
def heronCount (s : State) (i : Nat) : Nat := (heronSum s i - s.heron.seen.getD i 0).toNat

/-- Excluded lanes in force, all links and directions. -/
def excludedLanes (s : State) : Nat :=
  ((List.range 3).map fun c => (if (cwOf s c).rxExcl = 0xF then 0 else 1) + if (cwOf s c).txExcl = 0xF then 0 else 1).sum

/-- Distance of the rail reading outside RAIL_LOW to RAIL_HIGH, in 0.1 V. -/
def railOut (s : State) : Nat :=
  let r := s.heron.rail.toNat
  max (10 * regBits s 0x5128 15 0 - r) (r - 10 * regBits s 0x5128 31 16) / 10

/-- The value e of input `i` for the interval since the last update (Table 14-1). -/
def heronInput (s : State) (i : Nat) : Nat :=
  let lowest := (s.fens.filter fun f => decide (f.2.volts ≠ [])).map fun f => f.2.vmin.toNat
  let e := match i with
    | 1 => (lowest.map fun v => regBits s 0x5124 15 0 - v).foldl max 0
    | 2 => s.heron.tMax - regBits s 0x5124 31 16
    | 3 => s.heron.lMax - regBits s 0x512C 15 0
    | 4 => railOut s
    | 7 => heronCount s 7 / 64
    | 9 => excludedLanes s
    | _ => heronCount s i
  min e 0xFFFF

/-- The weight of input `i`. -/
def heronWeight (s : State) (i : Nat) : Nat := regBits s (0x5118 + 4 * (i / 4)) (8 * (i % 4) + 7) (8 * (i % 4))

/-- round(2^16 × 2^(−1/H)): the largest d with (2d − 1)^H ≤ 2^(17H − 1), bit by bit from bit `b`. -/
def decayBits (h : Nat) : Nat → Nat → Nat
  | 0, d => if (2 * (d + 1) - 1) ^ h ≤ 2 ^ (17 * h - 1) then d + 1 else d
  | b + 1, d =>
    let t := d + 2 ^ (b + 1)
    decayBits h b (if (2 * t - 1) ^ h ≤ 2 ^ (17 * h - 1) then t else d)

/-- The decay of the score (R525). -/
def heronDecay (h : Nat) : Nat := decayBits h 15 0

/-- The score after an update (R525). -/
def heronScore (r d : Nat) (we : List (Nat × Nat)) : Nat :=
  min (r * d / 65536 + (we.map fun x => x.1 * x.2 * 16).sum) 0xFFFFFF

/-- Arm an automatic snapshot (R526, R527); in a ring, request a ring-wide hold (R319). -/
def armAuto (s : State) : State := ringRequest holdSnapshot (modSnap (fun x => { x with armedAuto := true }) s)

/-- The gap in tempos at a score while TRIGGERED (R527). -/
def heronGap (s : State) (score : Nat) : Nat :=
  let k := (score - regBits s 0x510C 15 0) / regBits s 0x5114 15 0
  max (regBits s 0x5110 31 16) (regBits s 0x5110 15 0 / 2 ^ k)

/-- The input of the largest contribution. -/
def heronTop (we : List (Nat × Nat)) : Nat :=
  (we.zipIdx.foldl (fun b x => if b.1 < x.1.1 * x.1.2 then (x.1.1 * x.1.2, x.2) else b) (0, 0)).2

/-- TRIGGERED after an update, with what follows (R526, R527). -/
def heronTrigger (we : List (Nat × Nat)) (s : State) : State :=
  let score := s.heron.score / 256
  let auto := regBit s 0x200 0
  if !s.heron.triggered then
    if regBits s 0x510C 15 0 ≤ score then
      let s := logAdd lkHeronTrigger 0x300 [score, heronTop we] (orReg 0x5130 1#32 (modHeron (fun h => { h with triggered := true }) s))
      if auto then armAuto s else s
    else s
  else if score < regBits s 0x510C 31 16 then orReg 0x5130 0x10#32 (modHeron (fun h => { h with triggered := false }) s)
  else if auto && decide (heronGap s score ≤ s.tempo.count.toNat - s.snap.snapTempo.toNat) then armAuto s
  else s

/-- HERON_UPDATE: once in each tempo while a segment runs, otherwise every 100 µs (R524). -/
def execHeronUpdate (s : State) : Host.Outcome State Fault Refusal :=
  if !regBit s 0x5100 0 || (!noSegment s && s.heron.upDone) then .next s
  else
    let s := if noSegment s then advanceTo (s.heron.upAt + 100 * unitsUs) s else s
    let es := (List.range 12).map (heronInput s)
    let we := es.zipIdx.map fun x => (heronWeight s x.2, x.1)
    let score := heronScore s.heron.score (heronDecay (regBits s 0x5108 15 0)) we
    let seen := (List.range 12).map (heronSum s)
    let s := modHeron (fun h => { h with score := score, inputs := es, seen := seen, upAt := s.now, upDone := true, tMax := 0, lMax := 0 }) s
    let s := { s with fens := mapVals {} (fun f =>
      if f.volts = [] then f else { f with vmin := f.volts.foldl (fun a v => if v < a then v else a) (f.volts.headD 0) }) s.fens }
    .next (heronTrigger we s)

/-! ## Sensors (R524, R567) -/

/-- A temperature as a magnitude; below 0 °C it is 0 for every comparison. -/
def tempNat (t : BitVec 16) : Nat := t.toInt.toNat

/-- One fen's sensors are sampled. -/
def sampleFen (x : FenSample) (s : State) : State :=
  modFen x.pfen.val (fun f =>
    let low := x.volts.foldl (fun a v => if v < a then v else a) (x.volts.headD 0)
    { f with volts := x.volts, temps := x.temps, load := x.load,
             vmin := if x.volts = [] then f.vmin else if f.volts = [] ∨ low < f.vmin then low else f.vmin }) s

/-- Every temperature with its sensor: 2 · pfen + k in a fen, 144 to 159 elsewhere (Table 14-10). -/
def sensorTemps (s : State) : List (Nat × BitVec 16) :=
  (s.fens.map fun f => f.2.temps.zipIdx.map fun t => (2 * f.1 + t.2, t.1)).flatten ++ s.heron.temps.zipIdx.map fun t => (144 + t.2, t.1)

/-- SENSOR_SAMPLE. -/
def execSensorSample (fens : List FenSample) (others : List (BitVec 16)) (s : State) : Host.Outcome State Fault Refusal :=
  let s := fens.foldl (fun s x => sampleFen x s) s
  let s := modHeron (fun h => { h with temps := if others = [] then h.temps else others }) s
  let l := sensorTemps s
  let top := l.foldl (fun b x => if b.2.toInt < x.2.toInt then x else b) (l.headD (0, 0))
  let past := (l.filter fun x => decide (regBits s 0x5010 15 0 ≤ tempNat x.2)).map (·.1)
  .next (modHeron (fun h => { h with
    tMax := (l.map fun x => tempNat x.2).foldl max h.tMax, lMax := (fens.map fun x => x.load.toNat).foldl max h.lMax,
    overTemp := past, tripped := past.filter fun k => h.overTemp.contains k,
    hottest := BitVec.ofNat 32 (top.2.toNat + top.1 * 2 ^ 16) }) s)

/-- RAIL_READING_UPDATE: the host renews the mirrored 36 V reading, in 0.01 V (R528, R567). -/
def execRailReadingUpdate (v : BitVec 16) (s : State) : Host.Outcome State Fault Refusal :=
  let s := modHeron (fun h => { h with rail := v, railAt := s.now, railStale := false }) s
  .next (if v.toNat < 3200 ∨ 4000 < v.toNat then logAdd lkRailRange 0x300 [v.toNat] (orReg 0x5130 8#32 s) else s)

/-- RAIL_STALE_TIMEOUT: 10 ms without a renewal. -/
def execRailStaleTimeout (s : State) : Host.Outcome State Fault Refusal :=
  if s.heron.railStale then .next s
  else
    let s := advanceTo (s.heron.railAt + 10 * unitsMs) s
    .next (logAdd lkRailStale 0x300 [s.heron.rail.toNat] (modHeron (fun h => { h with railStale := true }) s))

end Sys2Proof.Machine
end

