-- ==== Sys2Proof/Machine/Boundary.lean ====
section
/-!
DEFINITION. The actions at a tempo boundary (R31 to R34, R163, R217, R281, R314 to R321, R510, R571): steps 1 to 5 of Table 1-5,
the snapshot's drain and the state transfers of fens without a window (R148) between them, and the start of the next tempo.
-/

namespace Sys2Proof.Machine

/-- Whether the boundary ends a tempo: it is neither the first of a run nor the one at which a held boundary resumes. -/
def endsTempo (s : State) : Bool := s.tempo.ran

/-! ## Steps 1 to 3 -/

/-- POSITION of every OPEN stream advances by its binding's positions (R163). -/
def advanceStreams (s : State) : State :=
  (s.streams.map (·.1)).foldl (fun s k =>
    let x := streamOf s k
    if x.st ≠ .open then s
    else match streamBinding s x with
      | some b => modStream k (fun x => { x with position := x.position + BitVec.ofNat 48 b.positions }) s
      | none => s) s

/-- PWR_EST and PWR_OVER for the tempo that ended at `t` (R571): the events' energy in pJ over the tempo's time, and 38.99 W. -/
def powerEstimate (t : Nat) (s : State) : State :=
  let u := max 1 (t - s.tempo.startTime)
  let e := s.tempo.pj + (s.fens.map fun f => f.2.energyPj).sum
  let w := 77980 * u + 9 * e
  setReg 0x5014 (BitVec.ofNat 32 (min (w / (200 * u)) 0xFFFF)) (bump 0x501C (if regBits s 0x5000 11 0 * (200 * u) < w then 1 else 0) s)

/-- The energy counts of the next tempo begin at 0. -/
def energyClear (s : State) : State :=
  modTempo (fun t => { t with pj := 0 }) { s with fens := mapVals {} (fun f => { f with energyPj := 0 }) s.fens }

/-- A way whose count reached 4 gives way to the spare way (R599). -/
def waySwap (s : State) : State :=
  match s.wayPending with
  | some w => { s with cache := s.cache.filter (fun x => decide (x.way ≠ w)), retiredWay := BitVec.ofNat 5 w, spareWay := false,
                       wayPending := none }
  | none => s

/-- A power domain goes off (R559). -/
def domainOff (tier : Bool) (s : State) : State :=
  if tier then modPlant (fun x => { x with tierUp := false, tierOnAt := none }) s
  else modPlant (fun x => { x with cacheUp := false, cacheOnAt := none }) { s with cache := [] }

/-- Step 2 of Table 1-5, with the select slots (R281) and the domains to be turned off (R559). -/
def stepTwo (s : State) : State :=
  let s := waySwap { s with cache := s.cache.map fun x => { x with pinned := false } }
  let s := discardCarries s
  let s := { s with fens := mapVals {} (fun f => { f with selects := [] }) s.fens, decisions := [], selPending := [] }
  s.tempo.capJobs.foldl (fun s j => match j with
    | .domainOff tier => domainOff tier s
    | _ => s) s

/-- What stays in the list of jobs when a boundary takes them: the UNLOAD_PLANs, until their lodes are free. -/
def keepsJob : BoundaryJob → Bool
  | .unload _ _ => true
  | _ => false

/-- The boundary actions take what is pending now; what a command adds from here on waits for the next boundary (R34). -/
def capture (begin : Nat) (s : State) : State :=
  let s := modTempo (fun t => { t with
    actAt := some begin, capSet := s.pendSet, capJobs := s.jobs, capPlans := ((plansOf s).filter fun x => !x.2.unloading).map (·.1) }) s
  { s with pendSet := none, jobs := s.jobs.filter keepsJob }

/-- Heartbeats at a boundary (R487). -/
def beats (s : State) : State :=
  [0, 1, 2].foldl (fun s c => if (cwOf s c).st = .up
    then heartbeat c (modCw c (fun x => { x with hbBoundaries := x.hbBoundaries + 1 }) s) else s) s

/-- Whether pending snapshots and transfers are taken at this boundary: alone, or at a flagged one in a ring (R319, R320). -/
def holdsHere (s : State) : Bool := decide (tempoRole s = 0) || s.tempo.gMark.any (·.hold)

/-- Steps 1 to 3: from `begin` up to a snapshot's freeze. -/
def boundaryOpen (begin : Nat) (s : State) : State :=
  let s := advanceTo begin s
  let ends := endsTempo s
  let s := if ends then powerEstimate begin (advanceStreams s) else s
  let s := stepTwo (capture begin (beats (cableChanges (energyClear s))))
  if holdsHere s then
    let s := snapTake (s.tempo.gMark.any (·.hold)) (lastTempo s) s
    if s.snap.draining then markHold causeSnapshot s else s
  else s

/-! ## Steps 4 and 5 -/

/-- Whether transfers that this boundary executes are still to end. -/
def portsDue (s : State) : Bool := s.ports.any (·.due)

/-- Whether a pending transfer is for this boundary, `before` being those ahead of it: its fen is up and declares no window, its
image is there or is read at this boundary, and none of its fen waits ahead of it (R147, R148). -/
def portDue (s : State) (before : List PortXfer) (x : PortXfer) : Bool :=
  let f := fenOf s x.pfen
  let image := match x.kind with
    | .moveWrite sid i none => before.any fun y => y.due && decide (y.kind = .moveRead sid i)
    | _ => true
  !hasWindow f && decide (f.pwr.st ≠ .off) && image
    && before.all fun y => decide (y.pfen ≠ x.pfen) || y.due || y.start.isSome

/-- The pending state transfers of fens without a window are for this boundary, which holds the next tempo for them (R148). -/
def takePorts (s : State) : State :=
  if holdsHere s then
    let t := { s with ports := s.ports.foldl (fun l x => l ++ [{ x with due := portDue s l x }]) [] }
    if portsDue t then markHold causeMove t else t
  else s

/-- One job of a boundary, after the shadow set has taken effect: replies of COMMIT (R510), SET_MODE (R237), STREAM_CLOSE (R160),
UNLOAD_PLAN (R501), FEN_RETIRE (R549) and FEN_ADMIT (R547). -/
def runJob (s : State) : BoundaryJob → State
  | .commit c => reply c stOk s
  | .mode c service => reply c stOk (setMode service s)
  | .close _ sid => streamEnd sid stOk 0 (closeStream sid s)
  | .unload _ k => if (planOf s k).isSome then dropPlan k s else s
  | .retire c n spare => retireNow c n spare s
  | .admitFen c n epoch => admitNow c n epoch s
  | .domainOff _ => s

/-- Whether a job changes the spare map or the plans: those come in step 5. -/
def jobLate : BoundaryJob → Bool
  | .unload _ _ => true
  | .retire _ _ _ => true
  | .admitFen _ _ _ => true
  | _ => false

/-- Steps 4 and 5 of Table 1-5. -/
def stepsFourFive (s : State) : State :=
  let t := s.tempo
  let s := match t.capSet with
    | some m => applySet m s
    | none => s
  let s := (t.capJobs.filter fun j => !jobLate j).foldl runJob s
  (t.capJobs.filter jobLate).foldl runJob s

/-! ## Step 6 -/

/-- Every fen with a loaded plan and every lode starts its segment (R331, R399). -/
def startSegments (ck : Nat) (plans : List Nat) (s : State) : State :=
  let s := (s.fens.map (·.1)).foldl (fun s p => if (fenOf s p).img.plan.any plans.contains then startFen ck p s else s) s
  (s.lodes.map (·.1)).foldl (fun s l => if (lodeOf s l).plan.all plans.contains then lodeSegStart l s else s) s

/-- The number of the tempo that begins (R289, R292). -/
def nextCount (t : Tempo) : BitVec 48 :=
  if t.first then t.count else match t.gMark with
    | some m => m.number
    | none => t.count + 1

/-- Time from `g` + 96 CK to a start at `u`, in TK rounded up (R314). -/
def holdTk (g u : Nat) : Nat := (u - (g + actionUnits) + unitsTk - 1) / unitsTk

/-- Step 6: the next tempo starts at time `u`; its actions began at `begin`. -/
def tempoBegin (begin u : Nat) (s : State) : State :=
  let t := s.tempo
  let ck := ckAt s u
  let resume := t.holdG.isSome
  let s := bump 0x1024 (match t.holdG with
    | some g => holdTk g u
    | none => if t.held then holdTk t.gTime u else 0) s
  let lag := if resume then 0 else (u - (t.gTime + actionUnits)) / 2
  let plans := t.capPlans
  let s := modTempo (fun t => { t with
    count := nextCount t, first := false, startCmds := [], atG := false, gMark := none, waitF := false, actAt := none, capSet := none,
    capJobs := [], capPlans := [], startTime := u, startCk := ck, lagCk := lag, held := false, causes := [], ringHold := false,
    holdG := none, cmdHold := false, stretches := 0, clockStopped := false, ran := true,
    due := if tempoRole s = 0 then some (begin + periodUnits s) else t.due }) (advanceTo u s)
  let s := [0, 1, 2].foldl (fun s c => modCw c (fun x => { x with carryIdx := 0 }) s) s
  let s := startSegments ck plans (modHeron (fun h => { h with upDone := false }) s)
  let s := replyAll t.startCmds stOk (if t.first then startDone 9 s else s)
  let limit := regBits s 0x1030 15 0
  if limit ≠ 0 ∧ limit * unitsTk < lag * unitsCk then ringRequest holdLag s else s

/-! ## The end of the actions -/

/-- Whether the block stops at this boundary (R318, R324): a stop of its own, one that the marker carries, or a slip. -/
def stopsHere (s : State) : Bool :=
  let t := s.tempo
  t.slipped || t.gMark.any (·.stop) || (decide (t.stopCmds ≠ []) && decide (tempoRole s ≠ 1))

/-- The cause that a reason of a hold request gives (Table 12-11, R323). -/
def reasonCause (r : Nat) : Nat := if r = holdSnapshot then causeSnapshot else if r = holdMove then causeMove else causeLag

/-- What is pending for a boundary once the actions of a flagged one have ended is requested again (R319). -/
def askAgain (s : State) : State :=
  let moves := (s.ports.foldl (fun l x => l ++ [{ x with due := portDue s l x }]) []).any (·.due)
  let s := if s.snap.armedCmd.isSome || s.snap.armedAuto then ringRequest holdSnapshot s else s
  if moves then ringRequest holdMove s else s

/-- The boundary is held: nothing starts until TEMPO_START or the resume (R320, R324). A ring-wide hold counts with the cause of
each request taken at it, and with COMMAND (R323, Table 8-6). -/
def holdHere (s : State) : State :=
  let g := (s.tempo.holdG).getD s.tempo.gTime
  let cmds := s.tempo.holdCmds
  let ring := s.tempo.gMark.any (·.hold)
  let reasons := s.tempo.reqs ++ s.tempo.asked.filter fun r => decide (r = holdLag)
  let s := markHold causeCommand (reasons.foldl (fun s r => markHold (reasonCause r) s) s)
  let s := modTempo (fun t => { t with
    ran := false, holdG := some g, atG := false, gMark := none, waitF := false, actAt := none, capSet := none, capJobs := [], capPlans := [], cmdHold := t.cmdHold || decide (cmds ≠ []), holdCmds := [] }) s
  let s := replyAll cmds stOk s
  if ring then askAgain (ringRelease s) else s

/-- Steps 4 to 6, or the stop or the hold that takes the place of step 6; `base` is when the 96 CK count from. -/
def boundaryClose (base : Nat) (s : State) : State :=
  let begin := (s.tempo.actAt).getD base
  let s := stepsFourFive s
  if stopsHere s then
    let t := s.tempo
    let s := bump 0x1024 (if t.held && t.holdG.isNone then (begin - t.gTime + unitsTk - 1) / unitsTk else 0) s
    tempoStop (modTempo (fun t => { t with actAt := none, capSet := none, capJobs := [], capPlans := [] }) s)
  else if s.tempo.gMark.any (·.hold) ∨ (tempoRole s = 0 ∧ s.tempo.holdCmds ≠ []) then holdHere s
  else tempoBegin begin (base + actionUnits) s

/-- What follows a boundary's first steps: the state transfers for it, where there are any, or steps 4 to 6. -/
def boundaryGoOn (base : Nat) (s : State) : State :=
  let s := takePorts s
  if portsDue s then s else boundaryClose base s

/-- Whether a boundary waited for state transfers that have all gone. -/
def portsOver (s : State) : Bool := s.tempo.actAt.isSome && !s.snap.draining && !portsDue s

/-- Whether the driver stops the tempo at the boundary that has come (R218, R310, R324). -/
def stopAsked (s : State) : Bool :=
  s.tempo.gMark.any (·.stop) || (decide (s.tempo.stopCmds ≠ []) && (decide (tempoRole s ≠ 1) || s.tempo.slipped))

/-- Whether a fen stalls at a WAIT that does not hold, with everything it has issued complete. -/
def fenStuck (s : State) (p : Nat) : Bool :=
  let f := fenOf s p
  decide (f.seq.st = .waiting) && decide (fenDoneCk f ≤ s.ck) && !(waitOn (waitingDesc f)).any (waitHolds s p s.ck)

/-- A stop ends the WAITs that fens still stall at (R218, R310): their segments end there (log entry 120). -/
def cutWaits (s : State) : State :=
  { s with fens := mapVals {} (fun f => if f.seq.st = .waiting then { f with seq := { f.seq with st := .ended } } else f) s.fens }

/-- The state in which a boundary's actions may begin: every fen has ended, or a stop ends what still stalls. -/
def fensEnded (s : State) : Option State :=
  if allEnded s then some s
  else if stopAsked s && (notEnded s).all (fenStuck s) then some (cutWaits s)
  else none

/-- When a boundary's actions begin: at the later of G and the last fen's end, and not while CK is stopped (R30, R314). -/
def beginAt (s : State) : Nat :=
  let t := s.tempo
  if t.waitF then max s.now t.gTime
  else if s.plant.stopSince ≤ t.gTime ∧ t.gTime < s.plant.stopEnd then s.plant.stopEnd else t.gTime

/-- BOUNDARY_ACTIONS: at the later of G and the last fen's end (R314). A ring block whose next boundary has passed has slipped. -/
def execBoundaryActions (s : State) : Host.Outcome State Fault Refusal :=
  let t := s.tempo
  if !t.running || !t.atG || !ckRuns s then .next s
  else match fensEnded s with
    | none => .next s
    | some s =>
      if t.actAt.isSome then .next (if portsOver s then boundaryClose s.now s else s)
      else
        let begin := beginAt s
        let s := if !t.waitF && decide (t.gTime < begin) then markHold causeClock s else s
        let late := decide (tempoRole s ≠ 0) && (nextBoundary s).any fun x => decide (x.1 < begin)
        let s := boundaryOpen begin (if late then tempoSlip s else s)
        .next (if s.snap.draining then s else boundaryGoOn begin s)

/-- SNAPSHOT_DRAIN_COMPLETE (R533, R534): the drain of one row per FK has ended with its ranks ON; a boundary that waits for it
goes on. -/
def execSnapshotDrainComplete (s : State) : Host.Outcome State Fault Refusal :=
  if s.snap.draining && imgRanksOn s s.snap.addr then
    let s := snapDone (advanceTo (s.snap.began + drainUnits) s)
    .next (if s.tempo.actAt.isSome then boundaryGoOn s.now s else s)
  else .next s

/-- STATE_PORT_TRANSFER_DONE (R146, R148): a transfer ends; a boundary that waited for its last one goes on. -/
def execStatePortTransferDone (p : Fin 72) (badRows : List Nat) (s : State) : Host.Outcome State Fault Refusal :=
  match portRunning s p.val with
  | none => .next s
  | some x =>
    if !ckRuns s then .next s
    else
      let s := portEnd x badRows s
      .next (if x.due && portsOver s then boundaryClose s.now s else s)

end Sys2Proof.Machine
end

