-- ==== Sys2Proof/Machine/Command.lean ====
section
/-!
DEFINITION. The commands of the control core that belong to no other part: NOP, QUERY, SET_MODE, and a fetch that fails (R237,
R499, R501, R509).
-/

namespace Sys2Proof.Machine

/-- NOP. The row also stands for a packet whose opcode Table 13-4 does not assign, which is refused. -/
def execNop (q : Fin 16) (opcode : BitVec 8) (p : Packet) (s : State) : Host.Outcome State Fault Refusal :=
  if opcode = 0x01 then .next (acceptCmd 0x01 q.val p (fun c _ s => reply c stOk s) s)
  else if (opForm opcode.toNat).isSome then .next s
  else .next (acceptCmd opcode.toNat q.val p (fun c _ s => reply c stRefusedConfig s) s)

/-- CMD_FETCH_ERR: the command is not executed, and the queue stops with reason FETCH (R499). -/
def execCmdFetchErr (q : Fin 16) (s : State) : Host.Outcome State Fault Refusal :=
  let x := queueOf s q.val
  if x.enabled && !x.stopped && decide (x.head ≠ x.tail) && decide (s.mbox.fw = .running) && decide (1 ≤ replyRoom s q.val) then
    .next (logAdd lkCmdFetchErr (0x400 + q.val) [x.head] (stopQueue q.val 2 s))
  else .next s

/-! ## QUERY -/

/-- The plan record (R509). -/
def planBits (x : Option Plan) : BitVec 128 :=
  match x with
  | none => 0
  | some y => BitVec.ofNat 32 y.worst ++ (0 : BitVec 8) ++ (if y.unloading then 2#8 else 1#8) ++ y.mapGen ++ y.fens

/-- The record that a QUERY names, as its length in bytes and its bits; `none` where nothing has the number. -/
def queryRecord (s : State) (p : Packet) : Option (Nat × Nat) :=
  let k := par p 2 2
  match par p 0 1 with
  | 0 => if k < 1024 then some (16, (lodeStatus s k).toNat) else none
  | 1 =>
    let sid := BitVec.ofNat 16 (par p 4 2)
    let x : Stream := match streamBy s sid with
      | some j => streamOf s j
      | none => { sid := sid }
    some (32, (streamBits s x).toNat)
  | 2 => if k < 4096 then some (48, (objBits (objOf s k)).toNat) else none
  | 3 => if k < 16 then some (16, (planBits (planOf s k)).toNat) else none
  | _ => none

/-- QUERY: RESULT holds the record's first 12 B; the reply waits for the whole record's write where an address is given. -/
def execQuery (q : Fin 16) (p : Packet) (s : State) : Host.Outcome State Fault Refusal :=
  .next (acceptCmd 0x02 q.val p (fun c _ s =>
    let a := par p 8 8
    match queryRecord s p with
    | none => reply c stRefusedConfig s
    | some (n, v) =>
      if a % 64 ≠ 0 then reply c stRefusedConfig s
      else if a = 0 then replyWith c stOk true (BitVec.ofNat 96 v) s
      else emit (.fabricWrite a (leBytes n v)) { s with queries := s.queries ++ [(c, BitVec.ofNat 96 v)] }) s)

/-- QUERY_RECORD_WRITTEN: the oldest record of the queue that was being written has been. -/
def execQueryRecordWritten (q : Fin 16) (s : State) : Host.Outcome State Fault Refusal :=
  match s.queries.find? fun x => decide (x.1.q = q.val) with
  | none => .next s
  | some x => .next (replyWith x.1 stOk true x.2 { s with queries := s.queries.erase x })

/-- SET_MODE: at the next boundary, or at acceptance while the tempo is stopped (R237). -/
def execSetMode (q : Fin 16) (p : Packet) (s : State) : Host.Outcome State Fault Refusal :=
  .next (acceptCmd 0x50 q.val p (fun c _ s =>
    let m := par p 0 1
    if 2 ≤ m then reply c stRefusedConfig s
    else if tempoStopped s then reply c stOk (setMode (decide (m = 1)) s)
    else { s with jobs := s.jobs ++ [.mode c (decide (m = 1))] }) s)

end Sys2Proof.Machine
end

