-- ==== Sys2Proof/Machine/Flash.lean ====
section
/-!
DEFINITION. Reading flash (R439 to R443): the eight NVMe queues, the extents of copies to tier B, completions and retries.
-/

namespace Sys2Proof.Machine

/-- A flash queue. -/
def flashOf (s : State) (q : Nat) : FlashQueue := mapGet {} s.flash q

/-- The state with a flash queue changed. -/
def modFlash (q : Nat) (g : FlashQueue → FlashQueue) (s : State) : State :=
  { s with flash := mapPut {} s.flash q (g (flashOf s q)) }

/-- FLASH_QUEUE_BIND (R440). -/
def execFlashQueueBind (q : Fin 16) (p : Packet) (s : State) : Host.Outcome State Fault Refusal :=
  .next (acceptCmd 0x48 q.val p (fun c _ s =>
    let k := par p 0 1
    let x := flashOf s k
    let sq := par p 8 4
    let cq := par p 12 4
    let ls := par p 16 4
    if 8 ≤ k ∨ 2 ≤ par p 1 1 ∨ !tierWorks s then reply c stRefusedConfig s
    else if par p 1 1 = 1 then
      if x.bound ∨ 2 ^ 28 < sq + 4 ∨ 2 ^ 28 < cq + 1 ∨ 2 ^ 28 < ls + 16 then reply c stRefusedConfig s
      else
        let y : FlashQueue := { bound := true, phase := true, sqid := par p 2 2, cqid := par p 4 2, sqBase := sq, cqBase := cq,
                                listBase := ls, sqdb := par p 24 8, cqdb := par p 32 8, lastPoll := s.now }
        startDone 8 (reply c stOk (modFlash k (fun _ => y) s))
    else if !x.bound || x.unbinding then reply c stRefusedConfig s
    else if x.out = [] then reply c stOk (modFlash k (fun _ => {}) s)
    else replyWith c stDeferred false 0 (modFlash k (fun x => { x with unbinding := true, unbindCmd := some c }) s)) s)

/-- Outstanding commands in the block. -/
def flashOut (s : State) : Nat := (s.flash.map fun e => e.2.out.length).sum

/-- Whether a queue has a free entry for a command: one that a reported SQ head has freed and whose CID is not outstanding
(R441, R442). -/
def flashFree (x : FlashQueue) : Bool :=
  x.bound && !x.unbinding && decide (x.out.length < 256) && decide (x.sqUsed < 256) && x.out.all fun y => decide (y.cid ≠ x.tail)

/-- Whether the rings and lists that a queue keeps in tier B can be used: no rank of theirs is off or being powered down
(R444). -/
def flashRings (s : State) (x : FlashQueue) : Bool :=
  ranksOn s (4096 * x.sqBase) 16384 && ranksOn s (4096 * x.cqBase) 4096 && ranksOn s (4096 * x.listBase) 65536

/-- The submission entry of a Read command (R441), 64 B as NVM Express lays it out (log entry 25). -/
def nvmeRead (cid : Nat) (nsid : Word) (lba blocks prp1 prp2 : Nat) : List Byte :=
  leBytes 64 (0x02 + cid * 2 ^ 16 + nsid.toNat * 2 ^ 32 + prp1 * 2 ^ 192 + prp2 * 2 ^ 256 + lba * 2 ^ 320 + (blocks - 1) * 2 ^ 384)

/-- Form a Read command for `n` pages of an object from page `page` in queue `q` (R441). -/
def flashCommand (q o page n : Nat) (retried : Bool) (s : State) : State :=
  let x := flashOf s q
  let y := objOf s o
  let dst := y.addrB.toNat + 4096 * page
  let list := 4096 * x.listBase + 256 * x.tail
  let prp2 := if n = 2 then dst + 4096 else list
  let s := tierWrite .b list (((List.range (n - 1)).map fun k => leBytes 8 (dst + 4096 * (k + 1))).flatten) s
  let s := tierWrite .b (4096 * x.sqBase + 64 * x.tail) (nvmeRead x.tail y.nsid (y.homeAddr.toNat + page) n dst prp2) s
  bump 0x7208 1 (modFlash q (fun x => { x with
    tail := (x.tail + 1) % 256, sqUsed := x.sqUsed + 1, out := x.out ++ [⟨x.tail, o, page, n, retried, s.now, false⟩] }) s)

/-- The next bound queue in round-robin order that has a free entry. -/
def nextFlash (s : State) : Option Nat :=
  ((List.range 8).map fun k => (s.flashNext + k) % 8).find? fun q => flashFree (flashOf s q) && flashRings s (flashOf s q)

/-- The extent of an object's copy to tier B that gets the next Read command, as its first page and its pages, and whether it is
one that failed (R441, R442). -/
def nextExtent (y : Obj) : Nat × Nat × Bool :=
  match y.extRetry with
  | x :: _ => (x.1, x.2, true)
  | [] => (y.extNext, min 32 (y.size - y.extNext), false)

/-- FLASH_EXTENT_ISSUE (R441): the next extent of an object's copy to tier B gets a Read command. -/
def execFlashExtentIssue (o : Fin 4096) (s : State) : Host.Outcome State Fault Refusal :=
  let y := objOf s o.val
  let x := nextExtent y
  match nextFlash s with
  | none => .next s
  | some q =>
    if !tierWorks s || !y.pendB || decide (x.2.1 = 0) || decide (2048 ≤ flashOut s)
        || !ranksOn s (y.addrB.toNat + 4096 * x.1) (4096 * x.2.1) then .next s
    else
      let s := flashCommand q o.val x.1 x.2.1 x.2.2 { s with flashNext := (q + 1) % 8 }
      .next (modObj o.val (fun y => if x.2.2 then { y with extRetry := y.extRetry.drop 1 } else { y with extNext := y.extNext + x.2.1 }) s)

/-- A failed extent is read again, in its queue where that can take it now, otherwise as the next extent to issue (R440, R442). -/
def flashRetry (q : Nat) (c : FlashCmd) (s : State) : State :=
  let s := bump 0x720C 1 s
  if flashFree (flashOf s q) && flashRings s (flashOf s q)
      && ranksOn s ((objOf s c.obj).addrB.toNat + 4096 * c.page) (4096 * c.pages) then
    flashCommand q c.obj c.page c.pages true s
  else modObj c.obj (fun y => { y with extRetry := y.extRetry ++ [(c.page, c.pages)] }) s

/-- One completion entry (R442): a retry, an extent written mired, or an extent written by the device. -/
def flashComplete (q : Nat) (e : NvmeCqe) (s : State) : State :=
  let s := modFlash q (fun x => { x with
    head := (x.head + 1) % 256, phase := if x.head = 255 then !x.phase else x.phase
    sqUsed := (x.tail + 256 - e.sqHead.val) % 256 }) s
  match (flashOf s q).out.find? fun c => decide (c.cid = e.cid.val) with
  | none => s
  | some c =>
    let y := objOf s c.obj
    let s := modFlash q (fun x => { x with out := x.out.erase c }) s
    if e.failed ∧ e.dnr = false ∧ c.retried = false then flashRetry q c s
    else if !y.pendB then s
    else
      let dst := y.addrB.toNat + 4096 * c.page
      let s := if e.failed then bump 0x7210 1 (writeMirePages .b dst c.pages y.fmt.toNat y.sc s)
        else tierWrite .b dst ((List.range (4096 * c.pages)).map fun i => e.data.getD i 0#8) s
      modObj c.obj (fun y => { y with extDone := y.extDone ++ [c.page], miredB := y.miredB || e.failed }) s

/-- The entries at a queue's completion head are consumed while their phase tag is the expected one (R442): how many, and the
state after them. -/
def flashConsume (q : Nat) : List NvmeCqe → State → Nat × State
  | [], s => (0, s)
  | e :: l, s =>
    if e.phase = (flashOf s q).phase then
      let r := flashConsume q l (flashComplete q e s)
      (r.1 + 1, r.2)
    else (0, s)

/-- FLASH_POLL_TICK (R442): every FLASH_POLL MK a queue with outstanding commands is read, unless its completion ring lies
in a rank that is OFF or waking; the doorbells are written, and an unbind that waits is completed (R440). -/
def execFlashPollTick (q : Fin 8) (cqes : List NvmeCqe) (s : State) : Host.Outcome State Fault Refusal :=
  let x := flashOf s q.val
  if !tierWorks s || !x.bound || decide (x.out = []) then .next s
  else
    let s := advanceTo (x.lastPoll + unitsMk * regBits s 0x7200 15 0) s
    let s := modFlash q.val (fun x => { x with lastPoll := s.now }) s
    let off := anyRank s .off (some .b) [4096 * x.cqBase] || anyRank s .waking (some .b) [4096 * x.cqBase]
    let r := flashConsume q.val (if off then [] else cqes) s
    let s := r.2
    let y := flashOf s q.val
    let s := if r.1 = 0 then s else emit (.doorbell y.cqdb (BitVec.ofNat 32 y.head)) s
    let s := if y.tail = y.doorbell then s
      else modFlash q.val (fun y => { y with doorbell := y.tail }) (emit (.doorbell y.sqdb (BitVec.ofNat 32 y.tail)) s)
    match y.unbinding, y.out, y.unbindCmd with
    | true, [], some c => .next (reply c stOk (modFlash q.val (fun _ => {}) s))
    | _, _, _ => .next s

/-- FLASH_SLOW_TIMEOUT (R443): a command has been outstanding past FLASH_SLOW_MS. -/
def execFlashSlowTimeout (q : Fin 8) (cid : Fin 256) (s : State) : Host.Outcome State Fault Refusal :=
  match (flashOf s q.val).out.find? fun c => decide (c.cid = cid.val) && !c.slow with
  | none => .next s
  | some c =>
    let s := advanceTo (c.issued + unitsMs * regBits s 0x7204 15 0 + 1) s
    let s := modFlash q.val (fun x => { x with out := x.out.map fun y => if y = c then { y with slow := true } else y }) s
    .next (logAdd lkFlashSlow 0x200 [q.val, cid.val] (bump 0x7214 1 s))

end Sys2Proof.Machine
end

