-- ==== Sys2Proof/Machine/LodeCmd.lean ====
section
/-!
DEFINITION. The lode commands (Table 13-4, R394, R401, R402, R409): ARM_LODE with the fetch of its descriptor, REARM_LODE
and HALT_LODE.
-/

namespace Sys2Proof.Machine

/-- The lodes that have a descriptor. -/
def lodesUsed (s : State) : List (Nat × Lode) := s.lodes.filter fun l => decide (l.2.st ≠ .free)

/-- Transfers of a descriptor that can be in flight at once, as R409 counts them. -/
def inflightMax (d : BitVec 512) : Nat := min (if ldLight d then 4 else 8) (ldCount d + 1)

/-- The sum of those over descriptors, light or bulk. -/
def inflightSum (light : Bool) (l : List (BitVec 512)) : Nat :=
  ((l.filter fun d => decide (ldLight d = light)).map inflightMax).sum

/-- Whether a set of descriptors keeps the in-flight limits of Table 10-9. -/
def inflightOk (l : List (BitVec 512)) : Bool := decide (inflightSum false l ≤ 1024) && decide (inflightSum true l ≤ 192)

/-- Whether a lode may take a new descriptor: it has none, or the driver's is DONE, HALTED or ENDED with nothing in
flight (log entry 24). -/
def lodeIdle (x : Lode) : Bool :=
  decide (x.st = .free)
    || (decide (x.plan = none) && decide (x.inflight = []) && decide (x.st = .done ∨ x.st = .halted ∨ x.st = .ended))

/-- Put a descriptor into a lode under a new generation (R399), for the driver or a plan. -/
def armLode (l : Nat) (d : BitVec 512) (tiers : List Tier) (plan : Option Nat) (s : State) : State :=
  let old := lodeOf s l
  let s := dropRefs l s
  let g := old.gen + 1
  let s := refLode d true s
  let s := modLode l (fun _ => { desc := d, st := .armed, gen := g, gs := g, plan := plan, tiers := tiers, held := !ldFabric d,
                                 slot := firstSlot d }) s
  match pfenOf s (ldFen d) with
  | some p => counterStep p (ldGroup d) s.ck old.gen 0 s
  | none => s

/-- ARM_LODE (R394): the fetch of the 64-B descriptor begins. -/
def execArmLode (q : Fin 16) (p : Packet) (s : State) : Host.Outcome State Fault Refusal :=
  .next (acceptCmd 0x10 q.val p (fun c _ s =>
    if 1024 ≤ par p 0 2 ∨ !tierWorks s then reply c stRefusedConfig s
    else emit (.fabricFetch (par p 8 8) 64)
      { s with arms := s.arms ++ [⟨par p 0 2, BitVec.ofNat 64 (par p 8 8), c⟩] }) s)

/-- The checks of a fetched descriptor: R394, R409 and the resolution of its bases. -/
def armCheck (s : State) (l : Nat) (d : BitVec 512) : Status ⊕ List Tier :=
  let x := lodeOf s l
  if !ldOk d then .inl stRefusedConfig
  else if !lodeIdle x || !inflightOk (d :: ((lodesUsed s).filter fun y => decide (y.1 ≠ l)).map (·.2.desc)) then .inl stRefusedLodes
  else resolveLode (dropRefs l s) d

/-- LODE_DESCRIPTOR_FETCHED (R394): the descriptor of the oldest ARM_LODE of that lode is checked, and armed or refused. -/
def execLodeDescriptorFetched (l : Fin 1024) (desc : BitVec 512) (s : State) : Host.Outcome State Fault Refusal :=
  match s.arms.find? fun j => decide (j.l = l.val) with
  | none => .next s
  | some j =>
    let s := { s with arms := s.arms.erase j }
    match armCheck s l.val desc with
    | .inl st => .next (reply j.cmd st s)
    | .inr tiers => .next (reply j.cmd stOk (armLode l.val desc tiers none s))

/-- REARM_LODE (R401): new bases, from the next transfer on, or for a persistent lode from the next segment start. -/
def execRearmLode (q : Fin 16) (p : Packet) (bases : BitVec 384) (s : State) : Host.Outcome State Fault Refusal :=
  .next (acceptCmd 0x11 q.val p (fun c _ s =>
    let l := par p 0 2
    let x := lodeOf s l
    let d := withBases x.desc (par p 2 1) bases
    if 1024 ≤ l ∨ 3 < par p 2 1 ∨ x.st = .free ∨ !tierWorks s ∨ !ldOk d then reply c stRefusedConfig s
    else if ldPersist x.desc then
      let t := match x.newBases with
        | some (b, n, _) => modLode l (fun x => { x with newBases := none }) (refLode (withBases x.desc n b) false s)
        | none => s
      match resolveLode t d with
      | .inl st => reply c st s
      | .inr tiers => reply c stOk (modLode l (fun x => { x with newBases := some (bases, par p 2 1, tiers) }) (refLode d true t))
    else
      let t := if x.held then modLode l (fun x => { x with held := false }) (refLode x.desc false s) else s
      match resolveLode t d with
      | .inl st => reply c st s
      | .inr tiers =>
        let s := lodeRestart l t
        let s := modLode l (fun x => { x with desc := d, tiers := tiers, held := !ldFabric d }) (refLode d true s)
        reply c stOk (lodeStep l s)) s)

/-- HALT_LODE (R402): the lode issues nothing more; the reply comes when its transfers in flight have completed. -/
def execHaltLode (q : Fin 16) (p : Packet) (s : State) : Host.Outcome State Fault Refusal :=
  .next (acceptCmd 0x12 q.val p (fun c _ s =>
    let l := par p 0 2
    let x := lodeOf s l
    if 1024 ≤ l ∨ x.st = .free ∨ x.plan.isSome then reply c stRefusedConfig s
    else lodeSettle l (modLode l (fun x => { x with st := .halted, stepWait := if x.baseStep then 0 else x.stepWait, baseStep := false, haltCmd := x.haltCmd ++ [c] }) s)) s)

end Sys2Proof.Machine
end

