-- ==== Sys2Proof/Machine/Flags.lean ====
section
/-!
DEFINITION. The status bits and levels that the block computes from its state (R13, R514, R588 to R608): the interrupt lines,
every read-only register's value, and what a read of any offset of the window returns (R11, R513, R590).
-/

namespace Sys2Proof.Machine

/-- A bit as a number. -/
def flag (b : Bool) : Nat := if b then 1 else 0

/-! ## Interrupt lines (R514) -/

/-- The sources of INT_CMD, INT_ERR, INT_HERON and INT_TEMPO. -/
def intSources (s : State) : List Bool :=
  [decide (reg s 0x3008 &&& reg s 0x300C ≠ 0), regBit s 0x4000 0, decide (reg s 0x5130 &&& reg s 0x5134 ≠ 0),
   decide (reg s 0x1028 &&& reg s 0x102C ≠ 0)]

/-- INT_LINES: each line is asserted while its source is nonzero and its bit of INT_MASK is 0. -/
def intLines (s : State) : Word :=
  BitVec.ofNat 32 (((intSources s).zipIdx.map fun x => flag (x.1 && !regBit s 0x3004 x.2) * 2 ^ x.2).sum)

/-! ## Block registers -/

/-- ENG_SPARES (Table 1-12). -/
def engSpares (s : State) : Word :=
  let idlePll := if s.plant.pllActive then s.plant.pll0 else s.plant.pll1
  BitVec.ofNat 32 (s.spareFens + flag s.spareTree * 2 ^ 4 + flag s.spareCore * 2 ^ 5 + flag s.plant.genSpareOk * 2 ^ 6
    + flag (idlePll || !s.plant.mkLock) * 2 ^ 7 + flag s.spareWay * 2 ^ 8 + s.spareTa.toNat * 2 ^ 9)

/-- ENG_ACTIVE (Table 1-13). -/
def engActive (s : State) : Word :=
  BitVec.ofNat 32 (flag s.plant.treeActive + flag s.plant.core * 2 + flag s.plant.genActive * 4 + flag s.plant.pllActive * 8
    + s.retiredWay.toNat * 2 ^ 4 + s.mapGen.toNat * 2 ^ 16)

/-- A ring store entry is in use: it holds G until H arrives, or an H that came before G (R214, log entry 119). -/
def ringHeld (x : RingCell) : Bool := x.g.isSome != x.h.isSome

/-- CARRY_STATUS (Table 5-11). -/
def carryStatus (s : State) : Word :=
  BitVec.ofNat 32 (regBits s 0x104 1 0 + flag (s.ring.any fun x => x.h.isNone) * 4
    + min (s.ring.filter ringHeld).length 256 * 2 ^ 16)

/-- CW_ADDR (Table 12-15): VALID while some ring link is UP and every one that is UP has passed its checks (R469). -/
def cwAddr (s : State) : Word :=
  let up := [0, 1].filter fun c => decide ((cwOf s c).st = .up)
  BitVec.ofNat 32 (s.ringId.toNat + s.ringPos.toNat * 2 ^ 4 + s.ringSize.toNat * 2 ^ 10
    + flag (!up.isEmpty && up.all fun c => (cwOf s c).checked) * 2 ^ 16 + s.c2Role.toNat * 2 ^ 17)

/-- SNAP_STATUS (Table 14-9). -/
def snapStatus (s : State) : Word :=
  let x := s.snap
  BitVec.ofNat 32 (flag (x.armedCmd.isSome || x.armedAuto) + flag x.draining * 2 + flag x.busy0 * 4 + flag x.busy1 * 8
    + x.lastSource.toNat * 2 ^ 4 + flag x.lastMired * 2 ^ 6 + flag x.lastFailed * 2 ^ 7)

/-- TEMPO_STATUS (Table 8-11). -/
def tempoStatus (s : State) : Word :=
  let t := s.tempo
  BitVec.ofNat 32 (flag t.running + flag t.locked * 2
    + flag (t.waitF || t.holdG.isSome || t.ringHold || t.cmdHold || (t.actAt.isSome && t.held)) * 4
    + flag t.ringHold * 8 + flag t.slipped * 16 + t.lastCause * 2 ^ 8)

/-- CFG_STATUS: PENDING and DIFF (R513). -/
def cfgStatus (s : State) : Word :=
  BitVec.ofNat 32 (flag (s.pendSet.isSome || s.tempo.capSet.isSome)
    + flag (rwsAll.any fun o => decide (fileGet s.shadow o ≠ reg s o)) * 2)

/-- FW_STATUS (Table 13-15). -/
def fwStatus (s : State) : Word :=
  let st := match s.mbox.fw with
    | .boot => 0
    | .loading => 1
    | .checking => 2
    | .running => 3
  BitVec.ofNat 32 (st + s.mbox.reason.toNat * 2 ^ 4)

/-- PLAN_LOADED: a bit for each loaded plan. -/
def planLoaded (s : State) : Word := BitVec.ofNat 32 (((plansOf s).map fun x => 2 ^ x.1).sum)

/-- A word of the oldest error-log entry (Table 13-11). -/
def errData (s : State) (k : Nat) : Word :=
  match s.log with
  | [] => 0
  | e :: _ =>
    let v : BitVec 256 := e.detail ++ (0 : BitVec 16) ++ e.tempo ++ (0 : BitVec 16) ++ e.source ++ (0 : BitVec 15)
      ++ BitVec.ofBool e.error ++ e.kind
    BitVec.ofNat 32 (v.toNat / 2 ^ (32 * k))

/-- PWR_STATUS (Table 15-9). -/
def pwrStatus (s : State) : Word :=
  let x := s.plant
  BitVec.ofNat 32 (flag x.cacheUp + flag x.tierUp * 2 + flag x.stretching * 4 + flag (x.stretching && x.deep) * 8
    + flag s.heron.railStale * 16 + flag (decide (x.fatal ≠ 0)) * 32)

/-- A power state's value (Table 15-2). -/
def pwrCode : PwrSt → Nat
  | .on => 0
  | .idle => 1
  | .retain => 2
  | .off => 3

/-- PWR_FEN_STATE`k`. -/
def pwrFenState (s : State) (k : Nat) : Word :=
  BitVec.ofNat 32 (((List.range 16).map fun j => if 16 * k + j < 72 then pwrCode (fenOf s (16 * k + j)).pwr.st * 4 ^ j else 0).sum)

/-- PWR_PLAN_ENERGY in µJ; 0 while no plan is loaded. -/
def planEnergy (s : State) : Word :=
  if (plansOf s).isEmpty then 0 else BitVec.ofNat 32 ((plansPj (plansOf s) + 389900 * cfgPeriod s.regs) / 1000000)

/-- Transfers in flight of bulk or of light lodes. -/
def flightOf (s : State) (light : Bool) : Nat :=
  ((s.lodes.filter fun l => decide (ldLight l.2.desc = light)).map fun l => l.2.inflight.length).sum

/-- The fens whose own entry of the light path is in use: a summary of the fen, or a selection for it, is on its way (R406). -/
def lightFens (s : State) : Nat :=
  ((List.range 64).filter fun n => s.selPending.any (fun x => decide (x.2 = n))
    || ((pfenOf s n).map fun p => decide ((fenOf s p).flits ≠ [])).getD false).length

/-- LODE_USE (Table 10-14). -/
def lodeUse (s : State) : Word :=
  BitVec.ofNat 32 (min (flightOf s false) 1024 + min (flightOf s true + lightFens s) 256 * 2 ^ 11 + min (lodesUsed s).length 1024 * 2 ^ 20)

/-- A reserved sum in 4 KiB units, rounded up (R424). -/
def resUnits (n : Nat) : Word := BitVec.ofNat 32 ((n + 4095) / 4096)

/-- A rank's state (Table 11-7). -/
def rankCode : RankSt → Nat
  | .on => 0
  | .fenced => 1
  | .draining => 2
  | .off => 3
  | .waking => 4

/-- TB_RANK_STATE0 and 1. -/
def rankState (s : State) (k : Nat) : Word :=
  BitVec.ofNat 32 (((List.range 8).map fun j => rankCode (rankOf s (8 * k + j)).st * 16 ^ j).sum)

/-- A word of a flash queue (Table 11-9). -/
def flashView (s : State) (q o : Nat) : Word :=
  let x := flashOf s q
  match o with
  | 0x00 => BitVec.ofNat 32 (flag x.bound + flag x.unbinding * 2 + x.out.length * 4 + x.tail * 2 ^ 11 + x.head * 2 ^ 19
      + flag x.phase * 2 ^ 27)
  | 0x04 => BitVec.ofNat 32 (x.sqid + x.cqid * 2 ^ 16)
  | 0x08 => BitVec.ofNat 32 x.sqBase
  | 0x0C => BitVec.ofNat 32 x.cqBase
  | 0x10 => BitVec.ofNat 32 x.listBase
  | 0x14 => BitVec.ofNat 32 x.sqdb
  | 0x18 => BitVec.ofNat 32 (x.sqdb / 2 ^ 32)
  | 0x1C => BitVec.ofNat 32 x.cqdb
  | 0x20 => BitVec.ofNat 32 (x.cqdb / 2 ^ 32)
  | _ => 0

/-- A register of a command queue (Table 13-14). -/
def queueView (s : State) (q o : Nat) : Word :=
  let x := queueOf s q
  match o with
  | 0x10 => BitVec.ofNat 32 (flag x.enabled + regBits s (cqWin q 0x10) 4 1 * 2)
  | 0x14 => 0
  | 0x1C => BitVec.ofNat 32 (x.head + x.tail * 2 ^ 16)
  | 0x20 => BitVec.ofNat 32 (x.replies.tail + flag x.replies.phase * 2 ^ 12)
  | 0x24 => x.expSeq
  | 0x28 => BitVec.ofNat 32 (flag x.enabled + flag x.stopped * 2 + x.reason.toNat * 4 + x.inprog.length * 2 ^ 4)
  | _ => if o < 0x1C then reg s (cqWin q o) else 0

/-- FUSE_STATUS (Table 16-6). -/
def fuseStatus (s : State) : Word :=
  match s.plant.fuses with
  | none => 0
  | some f => BitVec.ofNat 32 (1 + flag f.keySet * 2 + flag (decide (f.remaps ≠ [])) * 4)

/-- SPARE_MAP byte of a logical fen (Table 16-8). -/
def spareByte (s : State) (n : Nat) : Nat := (pfenOf s n).getD 0x7F

/-- SPARE_MAP`k`. -/
def spareWord (s : State) (k : Nat) : Word :=
  BitVec.ofNat 32 (((List.range 4).map fun j => spareByte s (4 * k + j) * 256 ^ j).sum)

/-- MAP_STATUS (Table 16-7). -/
def mapStatus (s : State) : Word :=
  let retires := (s.jobs ++ s.tempo.capJobs).any fun j => match j with
    | .retire _ _ _ => true
    | _ => false
  BitVec.ofNat 32 (s.mapGen.toNat + flag retires * 2 ^ 16)

/-- A word of a fuse value. -/
def fuseWord (s : State) (g : Fuses → Nat) (k : Nat) : Word :=
  match s.plant.fuses with
  | none => 0
  | some f => BitVec.ofNat 32 (g f / 2 ^ (32 * k))

/-- BIST_FAIL`k`. -/
def bistWord (s : State) (k : Nat) : Word :=
  BitVec.ofNat 32 (((List.range 32).map fun j => flag (decide (32 * k + j < 72) && (fenOf s (32 * k + j)).life.bistFailed) * 2 ^ j).sum)

/-- CLK_STATUS (Table 15-11). -/
def clkStatus (s : State) : Word :=
  BitVec.ofNat 32 (flag s.plant.pll0 + flag s.plant.pll1 * 2 + flag s.plant.mkLock * 4 + flag s.plant.ckStopped * 8)

/-- MB_STATUS (Table 13-15): BUSY while the boot ROM checks an image. -/
def mbStatus (s : State) : Word :=
  BitVec.ofNat 32 (flag (decide (s.mbox.fw = .checking)) + flag s.mbox.err * 2 + flag s.plant.core * 4 + flag s.mbox.coreNext * 8)

/-- A CRC-32 of IEEE 802.3 continued over one byte, on the register before its final inversion. -/
def crc32Byte (c : Word) (b : Byte) : Word :=
  (List.range 8).foldl (fun c _ => if c.getLsbD 0 then (c >>> 1) ^^^ 0xEDB88320#32 else c >>> 1) (c ^^^ b.setWidth 32)

/-- MB_CRC: its preset before any word has moved, then the CRC-32 of the words moved (R519). -/
def mbCrc (s : State) : Word := if s.mbox.crcFresh then 0xFFFFFFFF#32 else ~~~s.mbox.crc

/-- Whether an offset of the block sections holds what the register file holds. -/
def blockPlain (o : Nat) : Bool :=
  o ∈ [0x0, 0x4, 0x20, 0x108, 0x10C, 0x110, 0x114, 0x118, 0x11C, 0x140, 0x144, 0x228, 0x22C, 0x250, 0x254, 0x1024, 0x1028, 0x102C,
       0x1034, 0x1048, 0x104C, 0x1050, 0x1054, 0x1058, 0x105C, 0x3004, 0x3008, 0x300C, 0x3010, 0x4000, 0x400C, 0x5004, 0x500C, 0x5010,
       0x5014, 0x501C, 0x5100, 0x5108, 0x510C, 0x5110, 0x5114, 0x5118, 0x511C, 0x5120, 0x5124, 0x5128, 0x512C, 0x5130, 0x5134, 0x5138,
       0x6000, 0x6018, 0x601C, 0x6020, 0x6024, 0x6028, 0x6048, 0x604C, 0x6050, 0x6054, 0x6060, 0x6068, 0x60C0, 0x60CC, 0x60D0, 0x60D4,
       0x60D8, 0x60DC, 0x7200, 0x7204, 0x7208, 0x720C, 0x7210, 0x7214, 0xB100, 0xB104, 0xB108, 0xB10C, 0xB110, 0xC010, 0xC014, 0xD008,
       0xD00C, 0xD010, 0xD018, 0xD020, 0xD02C, 0xD034, 0xD038, 0xD03C] || (decide (0x1080 ≤ o) && decide (o ≤ 0x10B8))

/-- A register of sections 0x0_0000 to 0x0_3FFF and 0x0_4000, RWS registers and queues aside. -/
def lowView (s : State) (o : Nat) : Word :=
  match o with
  | 0x008 => engSpares s
  | 0x00C => engActive s
  | 0x010 => BitVec.ofNat 32 (flag s.service)
  | 0x104 => carryStatus s
  | 0x180 => cwAddr s
  | 0x184 => (cwUid s).setWidth 32
  | 0x188 => (cwUid s >>> 32).setWidth 32
  | 0x204 => snapStatus s
  | 0x218 => s.snap.snapTempo.setWidth 32
  | 0x21C => mapGet 0#32 s.latch 1
  | 0x220 => s.snap.digest.setWidth 32
  | 0x224 => mapGet 0#32 s.latch 2
  | 0x244 => BitVec.ofNat 32 (s.twin.result.toNat + flag s.twin.missing * 4)
  | 0x248 => s.twin.tempo.setWidth 32
  | 0x24C => mapGet 0#32 s.latch 3
  | 0x1010 => s.tempo.count.setWidth 32
  | 0x1014 => mapGet 0#32 s.latch 0
  | 0x1018 => tempoStatus s
  | 0x101C => BitVec.ofNat 32 (min s.tempo.lagCk 0xFFFFFF)
  | 0x1020 => s.tempo.skew.setWidth 32
  | 0x1040 => (ringPending s).setWidth 32
  | 0x1044 => (ringPending s >>> 32).setWidth 32
  | 0x3000 => intLines s
  | 0x3014 => cfgStatus s
  | 0x3018 => fwStatus s
  | 0x301C => planLoaded s
  | 0x4004 => BitVec.ofNat 32 s.log.length
  | _ => if 0x4020 ≤ o ∧ o < 0x4040 then errData s ((o - 0x4020) / 4) else 0

/-- A register of sections 0x0_5000 to 0x0_7FFF and 0x0_B000 to 0x0_DFFF. -/
def highView (s : State) (o : Nat) : Word :=
  match o with
  | 0x5008 => pwrStatus s
  | 0x5018 => planEnergy s
  | 0x5104 => BitVec.ofNat 32 (s.heron.score / 256 + flag s.heron.triggered * 2 ^ 16)
  | 0x513C => BitVec.ofNat 32 (s.heron.inputs.getD (regBits s 0x5138 3 0) 0)
  | 0x5140 => s.heron.rail.setWidth 32
  | 0x5144 => s.heron.hottest
  | 0x6004 => if s.plant.tierUp then (lodeStatus s (regBits s 0x6000 9 0)).setWidth 32 else 0
  | 0x6008 => if s.plant.tierUp then s.lodeSample.getD 1 0 else 0
  | 0x600C => if s.plant.tierUp then s.lodeSample.getD 2 0 else 0
  | 0x6010 => if s.plant.tierUp then s.lodeSample.getD 3 0 else 0
  | 0x6014 => lodeUse s
  | 0x6040 => resUnits (tierReserved (plansOf s)).1
  | 0x6044 => resUnits (tierReserved (plansOf s)).2
  | 0x606C => BitVec.ofNat 32 (s.objs.filter fun x => x.2.valid).length
  | 0x6080 => (objBits (objOf s (objSel s))).setWidth 32
  | 0x60C4 => rankState s 0
  | 0x60C8 => rankState s 1
  | 0xB000 => fuseStatus s
  | 0xB004 => mapStatus s
  | 0xC000 => clkStatus s
  | 0xC00C => BitVec.ofNat 32 (s.plant.resetCause.toNat + s.plant.fatal.toNat * 2 ^ 4)
  | 0xC018 => BitVec.ofNat 32 s.plant.step
  | 0xD004 => mbStatus s
  | 0xD01C => mbCrc s
  | 0xD024 => s.mbox.version
  | 0xD028 => s.mbox.size
  | 0xD030 => s.mbox.fromCore
  | _ =>
    if 0x5020 ≤ o ∧ o < 0x5034 then pwrFenState s ((o - 0x5020) / 4)
    else if 0x6084 ≤ o ∧ o < 0x60B0 then s.objSample.getD ((o - 0x6080) / 4) 0
    else if 0x7000 ≤ o ∧ o < 0x7200 then flashView s ((o - 0x7000) / 0x40) (o % 0x40)
    else if 0xB040 ≤ o ∧ o < 0xB080 then spareWord s ((o - 0xB040) / 4)
    else if 0xB080 ≤ o ∧ o < 0xB0B0 then fuseWord s (fun f => f.keyHash.toNat) ((o - 0xB080) / 4)
    else if 0xB0C0 ≤ o ∧ o < 0xB0CC then fuseWord s (fun f => f.disable.toNat) ((o - 0xB0C0) / 4)
    else if 0xC01C ≤ o ∧ o < 0xC028 then bistWord s ((o - 0xC01C) / 4)
    else 0

/-! ## Causeways and fen windows -/

/-- A link state's value (Table 12-6). -/
def linkCode : LinkSt → Nat
  | .off => 0
  | .training => 1
  | .up => 2
  | .retraining => 3
  | .down => 4

/-- A register of a causeway's section (Tables 12-12 to 12-14). -/
def cwView (s : State) (c o : Nat) : Word :=
  let x := cwOf s c
  match o with
  | 0x004 => BitVec.ofNat 32 (linkCode x.st + x.reason.toNat * 2 ^ 3 + x.window * 2 ^ 7 + x.rxExcl.toNat * 2 ^ 14
      + x.txExcl.toNat * 2 ^ 18 + x.role.toNat * 2 ^ 22 + flag x.hbLost * 2 ^ 25)
  | 0x008 => x.partner.setWidth 32
  | 0x00C => x.partnerUid.setWidth 32
  | 0x010 => (x.partnerUid >>> 32).setWidth 32
  | 0x014 => x.rtt.setWidth 32
  | 0x018 => x.delay.setWidth 32
  | 0x01C => x.cable.setWidth 32
  | _ => if o = 0 ∨ o = 0x020 ∨ (0x040 ≤ o ∧ o < 0x070) ∨ (0x080 ≤ o ∧ o < 0x0A4) then reg s (cwWin c o) else 0

/-- FEN_LIFE (Table 14-11). -/
def fenLife (s : State) (p : Nat) : Word :=
  let x := (fenOf s p).life
  let n := logicalOf s p
  BitVec.ofNat 32 (flag x.stale + flag x.restored * 2 + flag x.retired * 4 + flag n.isNone * 8 + flag x.retentionFault * 16
    + n.getD 0x7F * 2 ^ 8)

/-- FEN_PWR (Table 15-10). -/
def fenPwrView (f : Fen) : Word :=
  let x := f.pwr
  let phase := match x.phase with
    | .none => 0
    | .fenced => 1
    | .draining => 2
    | .ramping => 3
  BitVec.ofNat 32 (pwrCode x.st + pwrCode ((x.job.map (·.target)).getD x.st) * 4 + flag x.job.isSome * 2 ^ 4 + phase * 2 ^ 5
    + flag x.lost * 2 ^ 7 + min x.records.length 64 * 2 ^ 8)

/-- STATE_TILE_STATUS of a tile (Table 4-14). -/
def tileStatus (t : Tile) : Nat := flag t.mire + flag t.invalid * 2 + flag t.frozen * 4

/-- STATE_STATUS_SUM (Table 4-15). -/
def tileSums (f : Fen) : Word :=
  let n (g : Tile → Bool) : Nat := (f.tiles.filter fun t => g t.2).length
  BitVec.ofNat 32 (n (·.mire) + (512 - n (fun t => !t.invalid)) * 2 ^ 10 + n (·.frozen) * 2 ^ 20)

/-- VEC_SELECT (Table 7-6). -/
def vecSelect (f : Fen) : Word :=
  BitVec.ofNat 32 (((List.range 8).map fun k => match (mapGet {} f.selects k).variant with
    | some v => 2 ^ k + v.toNat * 2 ^ (8 + 2 * k)
    | none => 0).sum)

/-- The buffer and slot that TAG_SEL names. -/
def tagSelected (s : State) (p : Nat) : Option (BufId × Nat) :=
  (bufOfCode (bitsOf (fenReg s p 0xB10) 10 9)).map fun b => (b, bitsOf (fenReg s p 0xB10) 8 0)

/-- BUF_MIRE_MAP of the selected slot. -/
def mireMap (x : Buffer) (slot : Nat) : Word :=
  BitVec.ofNat 32 (((List.range 32).map fun r => flag (rowMire x (32 * slot + r)) * 2 ^ r).sum)

/-- COUNT_CUR of the selected counter (Table 10-13). -/
def countCur (x : Counter) : Word := BitVec.ofNat 32 (min x.cnt 0xFFFF + x.gen.toNat * 2 ^ 16)

/-- COUNT_OLD of the selected counter. -/
def countOld (x : Counter) : Word := BitVec.ofNat 32 (min x.old 0xFFFF + min x.inflight 15 * 2 ^ 16)

/-- Whether an offset of a fen window holds what the register file holds. -/
def fenPlain (o : Nat) : Bool :=
  o ∈ [0x300, 0x304, 0x308, 0x30C, 0x310, 0x314, 0x318, 0x31C, 0x400, 0x404, 0x408, 0x40C, 0x410, 0x414, 0x418, 0x500, 0x504, 0x508,
       0x50C, 0x510, 0x514, 0x600, 0x604, 0x608, 0x60C, 0x614, 0x700, 0x704, 0x708, 0x70C, 0x710, 0x714, 0x718, 0x800, 0x804, 0x808,
       0x80C, 0x900, 0x904, 0x908, 0xA08, 0xA0C, 0xA10, 0xA14, 0xB00, 0xB04, 0xB08, 0xB0C, 0xB10, 0xB1C, 0xB28, 0xC10, 0xD08]

/-- The ready count of an array: the deliveries that have arrived (R204). -/
def readyCount (f : Fen) (ck a : Nat) : Nat := ((mapGet [] f.deliveries a).filter fun d => decide (d.since ≤ ck)).length

/-- A register of a fen window (Table 16-17), NUM_SR_SEED aside, as the powered fen gives it. -/
def fenView (s : State) (p o : Nat) : Word :=
  let f := fenOf s p
  match o with
  | 0x000 => BitVec.ofNat 32 (p + p / 9 * 2 ^ 7 + p % 9 * 2 ^ 11)
  | 0x518 => BitVec.ofNat 32 (tileStatus (tileOf f (bitsOf (fenReg s p 0x514) 9 8) (bitsOf (fenReg s p 0x514) 6 0)))
  | 0x51C => tileSums f
  | 0x520 => f.img.win
  | 0x610 => BitVec.ofNat 32 (((List.range 4).map fun a => min (readyCount f s.ck a) 8 * 16 ^ a).sum)
  | 0x810 => vecSelect f
  | 0xA00 => seqStatus f
  | 0xA04 => BitVec.ofNat 32 (f.img.entry.toNat + flag f.img.plan.isSome * 2 ^ 12)
  | 0xA18 => BitVec.ofNat 32 (((List.range 4).map fun l => (mapGet {} f.img.links l).credit % 32 * 256 ^ l).sum)
  | 0xB14 => match tagSelected s p with
    | some (b, k) => BitVec.ofNat 32 (flag (tagOf f b k).full)
    | none => 0
  | 0xB18 => match tagSelected s p with
    | some (b, k) => mireMap (bufOf f b) k
    | none => 0
  | 0xB20 => countCur (counterOf f (bitsOf (fenReg s p 0xB1C) 7 0))
  | 0xB24 => f.countOldSample
  | 0xC00 => f.life.epoch
  | 0xC04 => fenLife s p
  | 0xC08 => (f.temps.foldl (fun a t => if a.toInt < t.toInt then t else a) (f.temps.headD 0)).setWidth 32
  | 0xC0C => f.vmin.setWidth 32
  | 0xD00 => fenPwrView f
  | 0xD04 => f.load.setWidth 32
  | 0xD0C => BitVec.ofNat 32 (min f.lastNj 0xFFFFFF)
  | _ => if fenPlain o then reg s (fenWin p o) else 0

/-- The registers of a fen window that PD_CTRL holds (R590). -/
def fenAlways (o : Nat) : Bool := o ∈ [0x000, 0xC00, 0xC04, 0xD00]

/-- Whether the other registers of a fen window answer (R590). -/
def fenAnswers (f : Fen) : Bool := decide (f.pwr.st = .on ∨ f.pwr.st = .idle) && decide (f.pwr.phase ≠ .ramping)

/-- The pfen and the offset within its window, for an offset of the fen windows. -/
def fenAt (off : Nat) : Option (Nat × Nat) :=
  if 0x10000 ≤ off ∧ off < 0x58000 then some ((off - 0x10000) / 0x1000, off % 0x1000) else none

/-- A clear-on-read register of the window brought up to the present CK: SEQ_STALL counts through a stall. -/
def countedTo (off : Nat) (s : State) : State :=
  match fenAt off with
  | some (p, o) => if o = 0xA08 then countStall p s else s
  | none => s

/-- An RWS register as CFG_VIEW selects it (R513, R594). -/
def rwsView (s : State) (off : Nat) : Word := if regBit s 0x3010 0 then reg s off else fileGet s.shadow off

/-- What a read of an offset of the window returns: reserved offsets and write-only registers read 0 (R588, R13). -/
def readReg (s : State) (off : Nat) : Word :=
  match fenAt off with
  | some (p, o) =>
    if !fenAlways o && !fenAnswers (fenOf s p) then 0
    else if o = 0x41C then rwsView s off else fenView s p o
  | none =>
    if rwsBlock.contains off then rwsView s off
    else if 0x8000 ≤ off ∧ off < 0xB000 then cwView s ((off - 0x8000) / 0x1000) (off % 0x1000)
    else if 0x2000 ≤ off ∧ off < 0x2400 then queueView s ((off - 0x2000) / 0x40) (off % 0x40)
    else if blockPlain off then reg s off
    else if off < 0x5000 then lowView s off
    else if off < 0xE000 then highView s off
    else 0

end Sys2Proof.Machine
end

