-- ==== Sys2Proof/Machine/Registers.lean ====
section
/-!
DEFINITION. Register accesses from the host (R10 to R14, R493 to R495, R513, R589 to R604): reads that change state, and
writes.
-/

namespace Sys2Proof.Machine

/-! ## Accesses -/

/-- An access to a fen window: one that arrives during the fen's reset waits for its end (R589), and one to a register that
does not answer is counted and has no effect (R590). -/
def fenAccess (p o : Nat) (off_ use : State → State) (s : State) : State :=
  let s := match (fenOf s p).resetUntil with
    | some t => fenReset p (advanceCk t s)
    | none => s
  if fenAlways o || fenAnswers (fenOf s p) then use s else bump 0x20 1 (off_ s)

/-- An access to an offset of the window. -/
def access (off : Nat) (off_ use : State → State) (s : State) : State :=
  match fenAt off with
  | some (p, o) => fenAccess p o off_ use s
  | none => use s

/-! ## Reads that change state -/

/-- The clear-on-read registers of the block sections (Tables 16-9 to 16-16). -/
def rcBlock : List Nat :=
  [0x20, 0x108, 0x10C, 0x110, 0x118, 0x11C, 0x140, 0x144, 0x228, 0x22C, 0x254, 0x1024, 0x1048, 0x104C, 0x1050, 0x1054, 0x1058, 0x105C,
   0x1080, 0x1084, 0x1088, 0x108C, 0x1090, 0x1094, 0x1098, 0x109C, 0x10A0, 0x10A4, 0x10A8, 0x10AC, 0x10B0, 0x10B4, 0x10B8, 0x400C,
   0x501C, 0x6018, 0x6028, 0x6048, 0x604C, 0x6050, 0x6054, 0x60D4, 0x60D8, 0x7208, 0x720C, 0x7210, 0x7214, 0xB100, 0xB104, 0xC010,
   0xC014, 0xD018]

/-- The clear-on-read registers of a fen window (Table 16-17). -/
def rcFen : List Nat :=
  [0x318, 0x31C, 0x400, 0x404, 0x408, 0x40C, 0x410, 0x414, 0x418, 0x500, 0x504, 0x508, 0x50C, 0x600, 0x604, 0x608, 0x60C, 0x614, 0x708,
   0x70C, 0x710, 0x714, 0x800, 0x804, 0x808, 0x80C, 0x908, 0xA08, 0xA0C, 0xA10, 0xA14, 0xB00, 0xB04, 0xB0C, 0xB28, 0xC10, 0xD08]

/-- Whether an offset of the window is a clear-on-read register. -/
def isRc (off : Nat) : Bool :=
  match fenAt off with
  | some (_, o) => rcFen.contains o
  | none =>
    if 0x8000 ≤ off ∧ off < 0xB000 then
      let o := off % 0x1000
      decide (o % 4 = 0) && (decide (0x040 ≤ o ∧ o < 0x070) || decide (0x080 ≤ o ∧ o < 0x0A4))
    else rcBlock.contains off

/-- The heron's inputs that sum a counter count from its value after the read that cleared it (R524). -/
def heronCleared (off : Nat) (v : Word) (s : State) : State := heronForget (fun o => if o = off then v.toNat else 0) s

/-- RC_REGISTER_READ: the value is returned and cleared (R11), but for what events of the same MK cycle did (R12). -/
def execRcRegisterRead (off : BitVec 20) (s : State) : Host.Outcome State Fault Refusal :=
  let o := off.toNat
  if o % 4 ≠ 0 then .fault .fabricProtocolViolation
  else if !isRc o then .next s
  else .next (access o (emit (.readValue o 0#32)) (fun s =>
    let s := countedTo o s
    let v := beforeEvents s o
    heronCleared o v (clearRead o (emit (.readValue o v) s))) s)

/-- Low offset, place in the latch, low and high word of a latched pair (Table 16-3). -/
def pairOf (s : State) : LatchPair → Nat × Nat × Word × Word
  | .tempo => (0x1010, 0, s.tempo.count.setWidth 32, (s.tempo.count >>> 32).setWidth 32)
  | .snapTempo => (0x218, 1, s.snap.snapTempo.setWidth 32, (s.snap.snapTempo >>> 32).setWidth 32)
  | .snapDigest => (0x220, 2, s.snap.digest.setWidth 32, (s.snap.digest >>> 32).setWidth 32)
  | .twinTempo => (0x248, 3, s.twin.tempo.setWidth 32, (s.twin.tempo >>> 32).setWidth 32)

/-- LATCHED_PAIR_READ: a read of the low word latches the high word. -/
def execLatchedPairRead (pair : LatchPair) (s : State) : Host.Outcome State Fault Refusal :=
  let x := pairOf s pair
  .next (emit (.readValue x.1 x.2.2.1) { s with latch := mapPut 0#32 s.latch x.2.1 x.2.2.2 })

/-- COUNT_CUR_SAMPLE: COUNT_CUR and COUNT_OLD are sampled together (R415). -/
def execCountCurSample (p : Fin 72) (s : State) : Host.Outcome State Fault Refusal :=
  .next (fenAccess p.val 0xB20 (emit (.readValue (fenWin p.val 0xB20) 0#32)) (fun s =>
    let x := counterOf (fenOf s p.val) (bitsOf (fenReg s p.val 0xB1C) 7 0)
    emit (.readValue (fenWin p.val 0xB20) (countCur x)) (modFen p.val (fun f => { f with countOldSample := countOld x }) s)) s)

/-! ## Writes -/

/-- The RW and W1C registers of the block sections that a plain write reaches, with their write forms. -/
def blockForms : SMap RegForm :=
  [(0x104, ⟨.w1c, 3#32, []⟩), (0x114, ⟨.w1c, 1#32, []⟩), (0x1028, ⟨.w1c, 0x1FF#32, []⟩), (0x102C, ⟨.rw, 0x1FF#32, []⟩),
   (0x1034, ⟨.rw, 0xFFFF#32, []⟩), (0x3004, ⟨.rw, 0xF#32, []⟩), (0x3008, ⟨.w1c, 0xFFFF#32, []⟩), (0x300C, ⟨.rw, 0xFFFF#32, []⟩),
   (0x3010, ⟨.rw, 1#32, []⟩), (0x4000, ⟨.w1c, 1#32, []⟩), (0x500C, ⟨.rw, 0xFFFFFFFF#32, []⟩), (0x5010, ⟨.rw, 0xFFFF#32, []⟩),
   (0x5100, ⟨.rw, 1#32, []⟩), (0x5108, ⟨.rw, 0xFFFF#32, [(15, 0, 1, 0xFFFF)]⟩), (0x510C, ⟨.rw, 0xFFFFFFFF#32, []⟩),
   (0x5110, ⟨.rw, 0xFFFFFFFF#32, []⟩), (0x5114, ⟨.rw, 0xFFFF#32, [(15, 0, 1, 0xFFFF)]⟩), (0x5118, ⟨.rw, 0xFFFFFFFF#32, []⟩),
   (0x511C, ⟨.rw, 0xFFFFFFFF#32, []⟩), (0x5120, ⟨.rw, 0xFFFFFFFF#32, []⟩), (0x5124, ⟨.rw, 0xFFFFFFFF#32, []⟩),
   (0x5128, ⟨.rw, 0xFFFFFFFF#32, []⟩), (0x512C, ⟨.rw, 0xFFFF#32, []⟩), (0x5130, ⟨.w1c, 0x1F#32, []⟩),
   (0x5134, ⟨.rw, 0x1F#32, []⟩), (0x5138, ⟨.rw, 0xF#32, [(3, 0, 0, 11)]⟩), (0x6000, ⟨.rw, 0x3FF#32, []⟩),
   (0x6060, ⟨.rw, 0xFFF#32, []⟩), (0x60CC, ⟨.rw, 0xFFFF#32, []⟩), (0x60D0, ⟨.rw, 0xFFFF#32, []⟩), (0x60DC, ⟨.w1c, 0xFFFF#32, []⟩),
   (0x7200, ⟨.rw, 0xFFFF#32, [(15, 0, 16, 0xFFFF)]⟩), (0x7204, ⟨.rw, 0xFFFF#32, []⟩), (0xD008, ⟨.rw, 3#32, [(1, 0, 0, 2)]⟩),
   (0xD010, ⟨.rw, 0xFFFFFFFF#32, []⟩), (0xD020, ⟨.rw, 0xFFFFFFFF#32, []⟩), (0xD034, ⟨.w1c, 3#32, []⟩),
   (0xD038, ⟨.rw, 0xFFFFFFFF#32, []⟩), (0xD03C, ⟨.rw, 0xFFFFFFFF#32, []⟩)]

/-- The RWS registers of the block sections (R594) with their write forms. -/
def rwsForms : SMap RegForm :=
  [(0x100, ⟨.rws, 1#32, []⟩), (0x200, ⟨.rws, 0xFFFF0003#32, []⟩), (0x208, ⟨.rws, 0xFFFFFFFF#32, []⟩), (0x20C, ⟨.rws, 0xFFFFFFFF#32, []⟩),
   (0x210, ⟨.rws, 0xFFFFFFFF#32, []⟩), (0x214, ⟨.rws, 0xFFFFFFFF#32, []⟩),
   (0x240, ⟨.rws, 0xFFFF3F03#32, [(13, 8, 1, 40), (31, 16, 1, 0xFFFF)]⟩), (0x1000, ⟨.rws, 0x73F#32, [(1, 0, 0, 2), (10, 8, 0, 4)]⟩),
   (0x1004, ⟨.rws, 0xFFFF#32, []⟩), (0x1008, ⟨.rws, 0xFFF#32, []⟩), (0x100C, ⟨.rws, 0xFFFF#32, []⟩), (0x1030, ⟨.rws, 0xFFFF#32, []⟩),
   (0x1038, ⟨.rws, 0xFFFFFFFF#32, []⟩), (0x103C, ⟨.rws, 0xFFFFFFFF#32, []⟩), (0x5000, ⟨.rws, 0xFFF#32, [(11, 0, 500, 3000)]⟩)]

/-- The registers of a fen window that take a write. -/
def fenForms : SMap RegForm :=
  [(0x41C, ⟨.rws, 0xFFFFFFFF#32, []⟩), (0x510, ⟨.rw, 1#32, []⟩), (0x514, ⟨.rw, 0x37F#32, []⟩), (0x704, ⟨.w1c, 0xF#32, []⟩),
   (0xB08, ⟨.rw, 1#32, []⟩), (0xB10, ⟨.rw, 0x7FF#32, [(10, 9, 0, 2)]⟩), (0xB1C, ⟨.rw, 0xFF#32, []⟩)]

/-- The registers of a causeway's section that take a write (Tables 12-12, 12-13). -/
def cwForms : SMap RegForm :=
  [(0x000, ⟨.rw, 0xFF01#32, [(15, 8, 1, 255)]⟩), (0x020, ⟨.rw, 0xFFFF#32, [(15, 0, 1, 0xFFFF)]⟩)]

/-- How an offset of the window takes a plain write. -/
def formOf (off : Nat) : Option RegForm :=
  let find (m : SMap RegForm) (o : Nat) : Option RegForm := (m.find? fun x => decide (x.1 = o)).map (·.2)
  match fenAt off with
  | some (_, o) => find fenForms o
  | none =>
    if 0x8000 ≤ off ∧ off < 0xB000 then find cwForms (off % 0x1000)
    else match find rwsForms off with
      | some f => some f
      | none => find blockForms off

/-- A written value with each enumerated field that a reserved value names left as it was (R14), and whether there was one. -/
def fixEnums (old : Word) : List (Nat × Nat × Nat × Nat) → Word → Word × Bool
  | [], v => (v, false)
  | (hi, lo, a, b) :: l, v =>
    let r := fixEnums old l v
    let m := BitVec.ofNat 32 ((2 ^ (hi + 1 - lo) - 1) * 2 ^ lo)
    if a ≤ bitsOf v hi lo ∧ bitsOf v hi lo ≤ b then r else ((r.1 &&& ~~~m) ||| (old &&& m), true)

/-- The value that a write leaves in a register that holds `old`: reserved bits are ignored (R13), and a bit that an event of
the same MK cycle set, as `kept` holds, is not cleared (R12). -/
def writeForm (f : RegForm) (old kept v : Word) : Word × Bool :=
  match f.access with
  | .w1c => (old &&& ~~~(v &&& f.mask &&& ~~~kept), false)
  | _ =>
    let r := fixEnums old f.enums v
    ((old &&& ~~~f.mask) ||| (r.1 &&& f.mask), r.2)

/-- A plain write of a register by its form; an RWS register's shadow copy takes it (R510, R513). -/
def writeReg (off : Nat) (f : RegForm) (v : Word) (s : State) : State :=
  let old := if f.access = .rws then fileGet s.shadow off else reg s off
  let r := writeForm f old (survivors s off) v
  let s := if r.2 then logReserved off v s else s
  if f.access = .rws then { s with shadow := filePut s.shadow off r.1 } else setReg off r.1 s

/-- A write to the area-busy bits of SNAP_STATUS. -/
def writeSnapStatus (v : Word) (s : State) : State :=
  modSnap (fun x => { x with busy0 := x.busy0 && !v.getLsbD 2, busy1 := x.busy1 && !v.getLsbD 3 }) s

/-- A write to STALE_INFO: clearing VALID clears the fen and lode fields (Table 10-15), unless the report came in the same MK
cycle (R12). -/
def writeStaleInfo (v : Word) (s : State) : State :=
  if v.getLsbD 0 ∧ !(survivors s 0x601C).getLsbD 0 then setReg 0x601C 0#32 (setReg 0x6020 0#32 (setReg 0x6024 0#32 { s with staleSeen := [] })) else s

/-- A write to a queue's base registers, which take one only while EN is 0 (R493). -/
def writeQueue (q o : Nat) (v : Word) (s : State) : State :=
  if 0x10 ≤ o ∨ (queueOf s q).enabled then s
  else setReg (cqWin q o) (if o % 8 = 0 then v &&& 0xFFFFF000#32 else v) s

/-- A value of MB_CMD or OBJ_CMD that starts nothing: NONE is a valid MB_CMD (R520), the others are reserved. -/
def writeIdleCmd (off : Nat) (v : Word) (s : State) : State :=
  if off = 0xD000 then
    (if v.toNat % 16 = 0 then { s with mbox := { s.mbox with err := false } }
     else if 5 ≤ v.toNat % 16 then logReserved off v s else s)
  else if v.toNat % 4 = 0 then logReserved off v s else s

/-- REGISTER_WRITE: a register without a row of its own. -/
def execRegisterWrite (off : BitVec 20) (v : Word) (s : State) : Host.Outcome State Fault Refusal :=
  let o := off.toNat
  if o % 4 ≠ 0 then .fault .fabricProtocolViolation
  else .next (access o id (fun s =>
    match formOf o with
    | some f => writeReg o f v s
    | none =>
      if o = 0x204 then writeSnapStatus v s
      else if o = 0x601C then writeStaleInfo v s
      else if 0x6080 ≤ o ∧ o < 0x60B0 then { s with objStage := mapPut 0#32 s.objStage ((o - 0x6080) / 4) v }
      else if 0x2000 ≤ o ∧ o < 0x2400 then writeQueue ((o - 0x2000) / 0x40) (o % 0x40) v s
      else if o = 0xD000 ∨ o = 0x6064 then writeIdleCmd o v s
      else s) s)

/-! ## Queue registers and the error log -/

/-- A write of CQ_CTRL.LOG_E with `en` in EN: only while EN is 0, and not with a reserved value, which is logged with the value
written (R493, R14). -/
def writeLogE (q : Nat) (logE : BitVec 4) (en : Bool) (s : State) : State :=
  if (queueOf s q).enabled then s
  else if logE.toNat < 4 ∨ 12 < logE.toNat then
    logReserved (cqWin q 0x10) (logE.setWidth 32 <<< 1 ||| if en then 1#32 else 0#32) s
  else setReg (cqWin q 0x10) (logE.setWidth 32 <<< 1) s

/-- A queue that is enabled again: the pointers, the phase and the expected sequence start again, and the reply
ring is kept for the commands that are still in progress (R493). -/
def queueStarted (x : Queue) (base size : Nat) : Queue :=
  { enabled := true, replies := { base := base, size := size }, inprog := x.inprog, gen := x.gen + 1,
    old := mapPut {} x.old x.gen x.replies }

/-- CQ_ENABLE (R493). -/
def execCqEnable (q : Fin 16) (logE : BitVec 4) (s : State) : Host.Outcome State Fault Refusal :=
  let x := queueOf s q.val
  if x.enabled then .next s
  else
    let s := writeLogE q.val logE true s
    let base := (reg s (cqWin q.val 0x08)).toNat + (reg s (cqWin q.val 0x0C)).toNat * 2 ^ 32
    .next (setReg (cqWin q.val 0x18) 0#32 (putQueue q.val (queueStarted x base (ringSizeOf s q.val)) s))

/-- CQ_DISABLE: at once; commands not yet accepted are dropped (R493). -/
def execCqDisable (q : Fin 16) (logE : BitVec 4) (s : State) : Host.Outcome State Fault Refusal :=
  let x := queueOf s q.val
  .next (putQueue q.val { x with enabled := false, head := x.tail } (writeLogE q.val logE false s))

/-- CQ_DOORBELL_WRITE (R494). -/
def execCqDoorbellWrite (q : Fin 16) (v : Word) (s : State) : Host.Outcome State Fault Refusal :=
  let n := bitsOf v 11 0
  if ringSizeOf s q.val ≤ n then .next (logAdd lkCmdDoorbell (0x400 + q.val) [v.toNat] s)
  else .next (putQueue q.val { queueOf s q.val with tail := n } s)

/-- RQ_HEAD_WRITE (R495). -/
def execRqHeadWrite (q : Fin 16) (v : Word) (s : State) : Host.Outcome State Fault Refusal :=
  .next (setReg (cqWin q.val 0x18) (v &&& 0xFFF#32) s)

/-- ERR_POP_WRITE: the oldest entry goes; with none held the write is ignored (R604). -/
def execErrPopWrite (s : State) : Host.Outcome State Fault Refusal := .next { s with log := s.log.tail }

end Sys2Proof.Machine
end

