-- ==== Sys2Proof/Machine/Signature.lean ====
section
/-!
DEFINITION. The functions that the boot ROM checks a firmware image with (R517): SHA-384 (FIPS 180-4) and the verification of an
ECDSA signature over P-384 (FIPS 186-5).
-/

namespace Sys2Proof.Machine

/-! ## SHA-384 -/

/-- The round constants of SHA-512. -/
def shaK : List (BitVec 64) :=
  [0x428A2F98D728AE22#64, 0x7137449123EF65CD#64, 0xB5C0FBCFEC4D3B2F#64, 0xE9B5DBA58189DBBC#64, 0x3956C25BF348B538#64,
   0x59F111F1B605D019#64, 0x923F82A4AF194F9B#64, 0xAB1C5ED5DA6D8118#64, 0xD807AA98A3030242#64, 0x12835B0145706FBE#64,
   0x243185BE4EE4B28C#64, 0x550C7DC3D5FFB4E2#64, 0x72BE5D74F27B896F#64, 0x80DEB1FE3B1696B1#64, 0x9BDC06A725C71235#64,
   0xC19BF174CF692694#64, 0xE49B69C19EF14AD2#64, 0xEFBE4786384F25E3#64, 0x0FC19DC68B8CD5B5#64, 0x240CA1CC77AC9C65#64,
   0x2DE92C6F592B0275#64, 0x4A7484AA6EA6E483#64, 0x5CB0A9DCBD41FBD4#64, 0x76F988DA831153B5#64, 0x983E5152EE66DFAB#64,
   0xA831C66D2DB43210#64, 0xB00327C898FB213F#64, 0xBF597FC7BEEF0EE4#64, 0xC6E00BF33DA88FC2#64, 0xD5A79147930AA725#64,
   0x06CA6351E003826F#64, 0x142929670A0E6E70#64, 0x27B70A8546D22FFC#64, 0x2E1B21385C26C926#64, 0x4D2C6DFC5AC42AED#64,
   0x53380D139D95B3DF#64, 0x650A73548BAF63DE#64, 0x766A0ABB3C77B2A8#64, 0x81C2C92E47EDAEE6#64, 0x92722C851482353B#64,
   0xA2BFE8A14CF10364#64, 0xA81A664BBC423001#64, 0xC24B8B70D0F89791#64, 0xC76C51A30654BE30#64, 0xD192E819D6EF5218#64,
   0xD69906245565A910#64, 0xF40E35855771202A#64, 0x106AA07032BBD1B8#64, 0x19A4C116B8D2D0C8#64, 0x1E376C085141AB53#64,
   0x2748774CDF8EEB99#64, 0x34B0BCB5E19B48A8#64, 0x391C0CB3C5C95A63#64, 0x4ED8AA4AE3418ACB#64, 0x5B9CCA4F7763E373#64,
   0x682E6FF3D6B2B8A3#64, 0x748F82EE5DEFB2FC#64, 0x78A5636F43172F60#64, 0x84C87814A1F0AB72#64, 0x8CC702081A6439EC#64,
   0x90BEFFFA23631E28#64, 0xA4506CEBDE82BDE9#64, 0xBEF9A3F7B2C67915#64, 0xC67178F2E372532B#64, 0xCA273ECEEA26619C#64,
   0xD186B8C721C0C207#64, 0xEADA7DD6CDE0EB1E#64, 0xF57D4F7FEE6ED178#64, 0x06F067AA72176FBA#64, 0x0A637DC5A2C898A6#64,
   0x113F9804BEF90DAE#64, 0x1B710B35131C471B#64, 0x28DB77F523047D84#64, 0x32CAAB7B40C72493#64, 0x3C9EBE0A15C9BEBC#64,
   0x431D67C49C100D4C#64, 0x4CC5D4BECB3E42B6#64, 0x597F299CFC657E2A#64, 0x5FCB6FAB3AD6FAEC#64, 0x6C44198C4A475817#64]

/-- The initial hash value of SHA-384. -/
def shaInit : List (BitVec 64) :=
  [0xCBBB9D5DC1059ED8#64, 0x629A292A367CD507#64, 0x9159015A3070DD17#64, 0x152FECD8F70E5939#64,
   0x67332667FFC00B31#64, 0x8EB44A8768581511#64, 0xDB0C2E0D64F98FA7#64, 0x47B5481DBEFA4FA4#64]

/-- Rotate right. -/
def rotr (x : BitVec 64) (n : Nat) : BitVec 64 := (x >>> n) ||| (x <<< (64 - n))

/-- A message padded to whole blocks of 128 bytes. -/
def shaPad (l : List Byte) : List Byte :=
  let n := l.length
  let z := (239 - n % 128) % 128
  l ++ [0x80#8] ++ List.replicate z 0#8 ++ (List.range 16).map fun i => BitVec.ofNat 8 (8 * n / 2 ^ (8 * (15 - i)))

/-- Bytes as a big-endian number. -/
def beNat (l : List Byte) : Nat := l.foldl (fun n b => 256 * n + b.toNat) 0

/-- The 16 words of a block. -/
def shaWords (l : List Byte) : List (BitVec 64) := (List.range 16).map fun i => BitVec.ofNat 64 (beNat ((l.drop (8 * i)).take 8))

/-- One round: `w` holds the next 16 schedule words. -/
def shaRound (st : List (BitVec 64) × List (BitVec 64)) (k : BitVec 64) : List (BitVec 64) × List (BitVec 64) :=
  match st.1 with
  | [a, b, c, d, e, f, g, h] =>
    let w := st.2
    let x := w.getD 0 0
    let t1 := h + (rotr e 14 ^^^ rotr e 18 ^^^ rotr e 41) + ((e &&& f) ^^^ (~~~e &&& g)) + k + x
    let t2 := (rotr a 28 ^^^ rotr a 34 ^^^ rotr a 39) + ((a &&& b) ^^^ (a &&& c) ^^^ (b &&& c))
    let u := w.getD 1 0
    let v := w.getD 14 0
    let next := x + (rotr u 1 ^^^ rotr u 8 ^^^ (u >>> 7)) + w.getD 9 0 + (rotr v 19 ^^^ rotr v 61 ^^^ (v >>> 6))
    ([t1 + t2, a, b, c, d + t1, e, f, g], w.drop 1 ++ [next])
  | _ => st

/-- The hash value after one block. -/
def shaBlock (h : List (BitVec 64)) (l : List Byte) : List (BitVec 64) :=
  ((shaK.foldl shaRound (h, shaWords l)).1.zip h).map fun x => x.1 + x.2

/-- The hash value after `n` blocks. -/
def shaRun : Nat → List (BitVec 64) → List Byte → List (BitVec 64)
  | 0, h, _ => h
  | n + 1, h, l => shaRun n (shaBlock h (l.take 128)) (l.drop 128)

/-- SHA-384 as 48 bytes. -/
def sha384 (l : List Byte) : List Byte :=
  let m := shaPad l
  let h := shaRun (m.length / 128) shaInit m
  ((h.take 6).map fun x => (List.range 8).map fun i => BitVec.ofNat 8 (x.toNat / 2 ^ (8 * (7 - i)))).flatten

/-! ## P-384 -/

/-- The field's prime. -/
def p384 : Nat := 2 ^ 384 - 2 ^ 128 - 2 ^ 96 + 2 ^ 32 - 1

/-- The coefficient b of y² = x³ − 3x + b. -/
def p384B : Nat := 0xb3312fa7e23ee7e4988e056be3f82d19181d9c6efe8141120314088f5013875ac656398d8a2ed19d2a85c8edd3ec2aef

/-- The base point. -/
def p384G : Nat × Nat :=
  (0xaa87ca22be8b05378eb1c71ef320ad746e1d3b628ba79b9859f741e082542a385502f25dbf55296c3a545e3872760ab7,
   0x3617de4a96262c6f5d9e98bf9292dc29f8f41dbd289a147ce9da3113b5f0b8c00a60b1ce1d7e819d7a431d7c90ea0e5f)

/-- The order of the base point. -/
def p384N : Nat := 0xffffffffffffffffffffffffffffffffffffffffffffffffc7634d81f4372ddf581a0db248b0a77aecec196accc52973

/-- x^e mod m, by the low `k` bits of e. -/
def powMod (m : Nat) : Nat → Nat → Nat → Nat
  | 0, _, _ => 1 % m
  | k + 1, x, e => (if e % 2 = 1 then x else 1) * powMod m k (x * x % m) (e / 2) % m

/-- The inverse modulo a prime of at most 384 bits. -/
def invMod (m x : Nat) : Nat := powMod m 384 (x % m) (m - 2)

/-- Difference modulo the field's prime of two reduced numbers. -/
def subP (a b : Nat) : Nat := (a + p384 - b) % p384

/-- Double a point (X, Y, Z), x = X / Z² and y = Y / Z³; Z = 0 is the point at infinity. -/
def ecDouble (q : Nat × Nat × Nat) : Nat × Nat × Nat :=
  let (x, y, z) := q
  let d := z * z % p384
  let g := y * y % p384
  let b := x * g % p384
  let a := 3 * (subP x d * ((x + d) % p384) % p384) % p384
  let x3 := subP (a * a % p384) (8 * b % p384)
  let z3 := 2 * (y * z % p384) % p384
  (x3, subP (a * subP (4 * b % p384) x3 % p384) (8 * (g * g % p384) % p384), z3)

/-- Add two points. -/
def ecAdd (q r : Nat × Nat × Nat) : Nat × Nat × Nat :=
  let (x1, y1, z1) := q
  let (x2, y2, z2) := r
  if z1 = 0 then r
  else if z2 = 0 then q
  else
    let u1 := x1 * (z2 * z2 % p384) % p384
    let u2 := x2 * (z1 * z1 % p384) % p384
    let s1 := y1 * (z2 * z2 % p384 * z2 % p384) % p384
    let s2 := y2 * (z1 * z1 % p384 * z1 % p384) % p384
    if u1 = u2 then (if s1 = s2 then ecDouble q else (1, 1, 0))
    else
      let h := subP u2 u1
      let t := subP s2 s1
      let hh := h * h % p384
      let hc := h * hh % p384
      let v := u1 * hh % p384
      let x3 := subP (subP (t * t % p384) hc) (2 * v % p384)
      (x3, subP (t * subP v x3 % p384) (s1 * hc % p384), h * (z1 * z2 % p384) % p384)

/-- k times a point, by the low `n` bits of k. -/
def ecMul : Nat → Nat → Nat × Nat × Nat → Nat × Nat × Nat
  | 0, _, _ => (1, 1, 0)
  | n + 1, k, q =>
    let r := ecMul n (k / 2) (ecDouble q)
    if k % 2 = 1 then ecAdd q r else r

/-- Whether (r, s) is a signature of a message under the public key (x, y). -/
def ecdsaOk (x y r s : Nat) (message : List Byte) : Bool :=
  let onCurve := decide (x < p384 ∧ y < p384 ∧ y * y % p384 = (x * x * x + (p384 - 3) * x + p384B) % p384)
  let e := beNat (sha384 message)
  let w := invMod p384N s
  let (px, _, pz) := ecAdd (ecMul 384 (e * w % p384N) (p384G.1, p384G.2, 1)) (ecMul 384 (r * w % p384N) (x, y, 1))
  let zi := invMod p384 pz
  onCurve && decide (0 < r ∧ r < p384N ∧ 0 < s ∧ s < p384N ∧ pz ≠ 0 ∧ px * (zi * zi % p384) % p384 % p384N = r)

end Sys2Proof.Machine
end

