-- ==== Sys2Proof/Machine/Firmware.lean ====
section
/-!
DEFINITION. The service mailbox and the firmware slot (R516 to R520, R522, R593).
-/

namespace Sys2Proof.Machine

/-- Change the mailbox. -/
def modMbox (g : Mailbox → Mailbox) (s : State) : State := { s with mbox := g s.mbox }

/-- A mailbox command: where it is not allowed it sets ERR, which an allowed one clears (R520). -/
def mbCommand (ok : Bool) (use : State → State) (s : State) : Host.Outcome State Fault Refusal :=
  .next (if ok then use (modMbox (fun x => { x with err := false }) s) else modMbox (fun x => { x with err := true }) s)

/-! ## Firmware -/

/-- Bytes of the image RAM. -/
def imageRam (s : State) (i n : Nat) : List Byte := mapRun 0#8 s.mbox.image i n

/-- Values of FW_STATUS.REASON (Table 13-15). -/
def fwHeader : Nat := 1
def fwStepping : Nat := 2
def fwKey : Nat := 3
def fwSignature : Nat := 4
def fwAborted : Nat := 5

/-- Whether the fields of a header are valid (R516), STEPPING aside. -/
def fwHeaderOk (h : List Byte) : Bool :=
  let le (i n : Nat) : Nat := leNat ((h.drop i).take n)
  let zero (i n : Nat) : Bool := ((h.drop i).take n).all fun b => decide (b = 0)
  let size := le 8 4
  decide (le 0 4 = 0x4E46574D ∧ le 4 2 = 1 ∧ size % 4 = 0 ∧ size ≤ 2 ^ 20 - 512 ∧ le 12 4 < size ∧ le 128 1 = 4)
    && zero 7 1 && zero 20 108 && zero 225 31 && zero 352 160

/-- The first reason to reject the image in the slot, `none` for one that passes (R517). -/
def fwFault (s : State) : Option Nat :=
  let h := imageRam s 0 512
  let body := imageRam s 512 (leNat ((h.drop 8).take 4))
  let key := (h.drop 128).take 97
  let num (i : Nat) : Nat := beNat ((h.drop i).take 48)
  if !fwHeaderOk h then some fwHeader
  else if (h.getD 6 0).toNat ≠ bitsOf (reg s 0) 15 8 then some fwStepping
  else match s.plant.fuses with
    | none => some fwKey
    | some f =>
      if !f.keySet || decide (leNat (sha384 key) ≠ f.keyHash.toNat) then some fwKey
      else if ecdsaOk (num 129) (num 177) (num 256) (num 304) (h.take 256 ++ body) then none
      else some fwSignature

/-- FW_BEGIN. -/
def execFwBegin (s : State) : Host.Outcome State Fault Refusal :=
  mbCommand (decide (s.mbox.fw = .boot)) (fun s =>
    setReg 0xD008 0#32 (setReg 0xD00C 0#32 (setReg 0xD010 0#32
      (modMbox (fun x => { x with fw := .loading, reason := 0, image := [] }) s)))) s

/-- FW_END: the boot ROM's check begins. -/
def execFwEnd (s : State) : Host.Outcome State Fault Refusal :=
  mbCommand (decide (s.mbox.fw = .loading)) (fun s => modMbox (fun x => { x with fw := .checking, checkAt := s.now }) s) s

/-- FW_CHECK_DONE: a good image runs, and takes an OBJ_CMD that waits, and a bad one is logged and returns the block to BOOT (R517). -/
def execFwCheckDone (s : State) : Host.Outcome State Fault Refusal :=
  if s.mbox.fw ≠ .checking then .next s
  else match fwFault s with
    | none =>
      let h := imageRam s 0 512
      let s := modMbox (fun x => { x with fw := .running, reason := 0, version := BitVec.ofNat 32 (leNat ((h.drop 16).take 4)),
                                          size := BitVec.ofNat 32 (leNat ((h.drop 8).take 4)) }) s
      .next (objTake (if s.plant.step ≤ 5 ∧ s.spareMap ≠ [] then modPlant (fun x => { x with step := 6 }) s else s))
    | some r => .next (logAdd lkFwRejected 0x300 [r] (modMbox (fun x => { x with fw := .boot, reason := BitVec.ofNat 4 r }) s))

/-- CORE_SELECT: MB_ARG [0] names the control core that the next warm reset starts (R28). -/
def execCoreSelect (s : State) : Host.Outcome State Fault Refusal :=
  mbCommand true (fun s => modMbox (fun x => { x with coreNext := regBit s 0xD020 0 }) s) s

/-- ABORT. -/
def execAbort (s : State) : Host.Outcome State Fault Refusal :=
  mbCommand (decide (s.mbox.fw = .loading ∨ s.mbox.fw = .checking)) (fun s =>
    modMbox (fun x => { x with fw := .boot, reason := BitVec.ofNat 4 fwAborted }) s) s

/-! ## Data words (R519) -/

/-- MB_ADDR. -/
def mbAddr (s : State) : Nat := (reg s 0xD010).toNat * 2 ^ 32 + (reg s 0xD00C).toNat

/-- The space that MB_SPACE names. -/
def mbTier (s : State) : Option Tier :=
  match regBits s 0xD008 1 0 with
  | 1 => some .a
  | 2 => some .b
  | _ => none

/-- Bytes of the addressed space. -/
def mbSpaceSize (s : State) : Nat :=
  match mbTier s with
  | some t => tierSize t
  | none => 2 ^ 20

/-- Whether the addressed word lies in a tier B rank that is OFF. -/
def mbRankOff (s : State) (a : Nat) : Bool := anyRank s .off (mbTier s) [a]

/-- The word at an address of the space; outside the space, or in an OFF rank, no value is stated and it is free. -/
def mbRead (a : Nat) (s : State) : Word × State :=
  if mbSpaceSize s < a + 4 ∨ mbRankOff s a then (Config.freeWord s.free, freeUsed 1 s)
  else match mbTier s with
    | some t => (BitVec.ofNat 32 (leNat (tierRead s t a 4)), s)
    | none => (BitVec.ofNat 32 (leNat (imageRam s a 4)), s)

/-- Write a word; one to an OFF rank is dropped and recorded (R445), in no format that has a mired form. -/
def mbWrite (a : Nat) (v : Word) (s : State) : State :=
  if mbSpaceSize s < a + 4 then s
  else if mbRankOff s a then dropTierWrite [a / 128 * 128] 11 false s
  else match mbTier s with
    | some t => tierWrite t a (leBytes 4 v.toNat) s
    | none => modMbox (fun x => { x with image := mapPutRun 0#8 x.image a (leBytes 4 v.toNat) }) s

/-- The running CRC over one more word, taken as little-endian bytes. -/
def mbCrcWord (v : Word) (x : Mailbox) : Mailbox :=
  { x with crc := (leBytes 4 v.toNat).foldl crc32Byte x.crc, crcFresh := false }

/-- A word has moved: the address advances, and it is counted and taken into the CRC. -/
def mbMoved (a : Nat) (v : Word) (s : State) : State :=
  let n := a + 4
  let s := setReg 0xD00C (BitVec.ofNat 32 n) (setReg 0xD010 (BitVec.ofNat 32 (n / 2 ^ 32)) s)
  bump 0xD018 1 (modMbox (mbCrcWord v) s)

/-- MB_DATA_ACCESS: a write of the word given, or a read. -/
def execMbDataAccess (write : Option Word) (s : State) : Host.Outcome State Fault Refusal :=
  let a := mbAddr s
  match write with
  | some v => .next (mbMoved a v (mbWrite a v s))
  | none =>
    let r := mbRead a s
    .next (mbMoved a r.1 (emit (.readValue 0xD014 r.1) r.2))

/-- MB_ADDR_LO_WRITE: the CRC starts again. -/
def execMbAddrLoWrite (v : Word) (s : State) : Host.Outcome State Fault Refusal :=
  .next (setReg 0xD00C (v &&& 0xFFFFFFFC#32) (modMbox (fun x => { x with crc := 0xFFFFFFFF#32, crcFresh := true }) s))

/-! ## Messages (Table 13-15) -/

/-- MB_TO_CORE_WRITE. -/
def execMbToCoreWrite (v : Word) (s : State) : Host.Outcome State Fault Refusal :=
  .next (orReg 0xD034 1#32 (setReg 0xD02C v s))

/-- MB_FROM_CORE_WRITE: the running firmware posts a word, or clears TO_PENDING. -/
def execMbFromCoreWrite (msg : Option Word) (s : State) : Host.Outcome State Fault Refusal :=
  if s.mbox.fw ≠ .running then .next s
  else match msg with
    | some v => .next (orReg 0xD034 2#32 (modMbox (fun x => { x with fromCore := v }) s))
    | none => .next (setReg 0xD034 (reg s 0xD034 &&& 2#32) s)

end Sys2Proof.Machine
end

