-- ==== Sys2Proof/Machine/Sfu.lean ====
section
/-!
DEFINITION. The special-function unit's arithmetic (R230 to R244): the four primitives by table seed and fixed
iteration, the activations, SERVICE substitution and the rounding of a last result into its target.
-/

namespace Sys2Proof.Machine

/-- Latency of a primitive in CK (Table 6-1). -/
def primLatency : Prim → Nat
  | .rcp => 12
  | .rsqrt => 14
  | .exp2 => 14
  | .log2 => 30

/-- A value rounded to 34 significant bits, exponent unbounded (R232). -/
def r34 : Num → Num
  | .fin n m e => let r := rneTo 34 (-100000) m e; .fin n r.1 r.2
  | x => x

/-- A value passed on within a sequence: 34 bits in the W40 exponent range (R230, R242). DEDUCED (log entry 21): the
range's lower end is the smallest normal exponent −510. -/
def hold34 (x : Num) : Num :=
  match r34 x with
  | .fin n m e =>
    if m = 0 then .fin n 0 0
    else if floorLog2 m e > 511 then .fin n (2 ^ 34 - 1) (511 - 33)
    else if floorLog2 m e < -510 then .fin n 0 0
    else .fin n m e
  | y => y

/-- Product held to 34 bits in the W40 exponent range, as the procedures of R232 write it (R230). -/
def mul34 (a b : Num) : Num := hold34 (numMul a b)
/-- Sum held to 34 bits. -/
def add34 (a b : Num) : Num := hold34 (numAdd a b)
/-- Difference held to 34 bits. -/
def sub34 (a b : Num) : Num := hold34 (numSub a b)

/-- p / q rounded to 34 bits (q > 0): the quotient to 2^-80 with a sticky bit below it. -/
def ratio34 (p q : Nat) : Num :=
  let n := (p <<< 80) / q
  let sticky := if (p <<< 80) % q = 0 then 0 else 1
  r34 (.fin false (2 * n + sticky) (-81))

/-- ⌊√n⌋ by its bits from bit `k` down. -/
def isqrtBits : Nat → Nat → Nat → Nat
  | 0, n, r => if (r + 1) * (r + 1) ≤ n then r + 1 else r
  | k + 1, n, r => isqrtBits k n (if (r + 2 ^ (k + 1)) * (r + 2 ^ (k + 1)) ≤ n then r + 2 ^ (k + 1) else r)

/-- SEED_RCP[j] = 1 / (1 + (j + 0.5) / 256) (R232). -/
def seedRcp (j : Nat) : Num := ratio34 512 (513 + 2 * j)

/-- SEED_RSQ[j] = 1 / √(midpoint of segment j) (R232): the midpoint is c / 256. -/
def seedRsq (j : Nat) : Num :=
  let c := if j < 128 then 257 + 2 * j else 512 + 2 * (2 * (j - 128) + 1)
  let n := (2 ^ 8 <<< 160) / c
  r34 (.fin false (2 * isqrtBits 84 n 0 + 1) (-81))

/-- SEED_EXP[j] = 2^(j / 256) (R232). -/
def seedExp (j : Nat) : Num := r34 (.fin false (pow2Frac (j <<< 16)) (-128))

/-- The first `k` bits of log₂ of x / 2^256 in [1, 2), by repeated squaring. -/
def logBits : Nat → Nat → Nat → Nat
  | 0, _, acc => acc
  | k + 1, x, acc =>
    let y := (x * x) >>> 256
    if 2 ^ 257 ≤ y then logBits k (y >>> 1) (2 * acc + 1) else logBits k y (2 * acc)

/-- SEED_LOG[j] = log₂(1 + j / 256) (R232). -/
def seedLog (j : Nat) : Num :=
  if j = 0 then .fin false 0 0
  else r34 (.fin false (2 * logBits 80 ((256 + j) <<< 248) 0 + 1) (-81))

/-- LN2, LOG2E, 2·LOG2E·√(2/π) and 0.044715, each from 100 fraction bits rounded to 34 (R232). -/
def cLn2 : Num := r34 (.fin false 878668439483319573618263538048 (-100))
/-- LOG2E. -/
def cLog2e : Num := r34 (.fin false 1828833234529184422442202814989 (-100))
/-- 2 · LOG2E · √(2/π). -/
def cGeluK : Num := r34 (.fin false 2918395604228003931488797958538 (-100))
/-- 0.044715. -/
def cGelu1 : Num := r34 (.fin false 56682996589205277687925083828 (-100))

/-- The integer 1 and other small integers as values. -/
def numNat (n : Nat) : Num := .fin false n 0

/-- Whether a magnitude is a power of two. -/
def isPow2 (m : Nat) : Bool := decide (m = 2 ^ (bitLen m - 1))

/-- One Newton–Raphson iteration of rcp. -/
def rcpIter (s y : Num) : Num := mul34 y (sub34 (numNat 2) (mul34 s y))

/-- RCP (R232, R234, R239). -/
def primRcp : Num → Num
  | .nan => .nan
  | .inf n => .fin n 0 0
  | .fin n m e =>
    if m = 0 then .inf n
    else
      let g := floorLog2 m e
      if isPow2 m then .fin n 1 (-g)
      else
        let s := Num.fin false m (e - g)
        let j := (truncAt (-8) s).toNat - 256
        let y := rcpIter s (rcpIter s (seedRcp j))
        match y with
        | .fin _ ym ye => .fin n ym (ye - g)
        | z => z

/-- One iteration of rsqrt: y · (3 − (s·y)·y) / 2. -/
def rsqrtIter (s y : Num) : Num := numScale (-1) (mul34 y (sub34 (numNat 3) (mul34 (mul34 s y) y)))

/-- RSQRT (R232, R234, R239). -/
def primRsqrt : Num → Num
  | .nan => .nan
  | .inf n => if n then .nan else .fin false 0 0
  | .fin n m e =>
    if m = 0 then .inf n
    else if n then .nan
    else
      let g := floorLog2 m e
      let g := g - g % 2
      let s := Num.fin false m (e - g)
      if isPow2 m && decide (floorLog2 m e % 2 = 0) then .fin false 1 (-(g / 2))
      else
        let q := (truncAt (-7) s).toNat
        let j := if q < 256 then q - 128 else 128 + (q - 256) / 2
        numScale (-(g / 2)) (rsqrtIter s (rsqrtIter s (seedRsq j)))

/-- ⌊x⌋ of a finite value. -/
def numFloor (n : Bool) (m : Nat) (e : Int) : Int := scaledInt n m e (min e 0) / 2 ^ (-(min e 0)).toNat

/-- exp2_internal (R232): EXP2 before its final rounding. An argument of magnitude 4,096 or more lies beyond every
target, and is taken at that bound (R230, R239). -/
def primExp2 : Num → Num
  | .nan => .nan
  | .inf n => if n then .fin false 0 0 else .inf false
  | .fin n m e =>
    if m = 0 then .fin false 1 0
    else if floorLog2 m e ≥ 12 then .fin false 1 (if n then -4096 else 4096)
    else
      let k := numFloor n m e
      let f := numSub (.fin n m e) (.fin (decide (k < 0)) k.natAbs 0)
      let j := (truncAt (-8) f).toNat
      let r := numSub f (.fin false j (-8))
      let rho := mul34 r cLn2
      let a := match rho with
        | .fin _ rm re => add34 (numScale re (ratio34 rm 6)) (.fin false 1 (-1))
        | z => z
      let a := add34 (mul34 rho a) (numNat 1)
      let a := add34 (mul34 rho a) (numNat 1)
      numScale k (mul34 (seedExp j) a)

/-- One Newton step of log2 against exp2, whose result is an intermediate here (R230, R232). -/
def log2Iter (x y : Num) : Num := add34 y (mul34 (sub34 (mul34 x (hold34 (primExp2 (numNeg y)))) (numNat 1)) cLog2e)

/-- LOG2 (R232, R234, R239). -/
def primLog2 : Num → Num
  | .nan => .nan
  | .inf n => if n then .nan else .inf false
  | .fin n m e =>
    if m = 0 then .inf true
    else if n then .nan
    else
      let g := floorLog2 m e
      let gv := Num.fin (decide (g < 0)) g.natAbs 0
      if isPow2 m then gv
      else
        let x := Num.fin false m e
        let j := (truncAt (-8) (.fin false m (e - g))).toNat - 256
        let y := add34 gv (seedLog j)
        log2Iter x (log2Iter x y)

/-- A primitive before its rounding into a target. -/
def primEval : Prim → Num → Num
  | .rcp => primRcp
  | .rsqrt => primRsqrt
  | .exp2 => primExp2
  | .log2 => primLog2

/-- sigmoid(x) (R242). -/
def actSigmoid (x : Num) : Num :=
  primRcp (hold34 (numAdd (numNat 1) (hold34 (primExp2 (hold34 (numMul (numNeg x) cLog2e))))))

/-- gelu_tanh(x) (R242). -/
def actGelu (x : Num) : Num :=
  let inner := hold34 (numAdd x (hold34 (numMul cGelu1 (hold34 (numMul x (hold34 (numMul x x)))))))
  let r := hold34 (primRcp (hold34 (numAdd (numNat 1) (hold34 (primExp2 (hold34 (numMul cGeluK inner)))))))
  numSub x (hold34 (numMul x r))

/-- softplus2(x) (R242). The spec's own steps at 34 bits leave more than Table 6-7's 3 ulp for x between −16 and about −2
(log entry 114). -/
def actSoftplus2 (x : Num) : Num :=
  match x with
  | .nan => .nan
  | x =>
    if !numLt x (numNat 16) then hold34 (numMul x cLog2e)
    else if numLt x (.fin true 16 0) then hold34 (numMul (hold34 (primExp2 (hold34 (numMul x cLog2e)))) cLog2e)
    else hold34 (primLog2 (hold34 (numAdd (numNat 1) (hold34 (primExp2 (hold34 (numMul x cLog2e)))))))

/-- An activation of one argument before its rounding into the target (R241, R242). DECAY_MAP takes two arguments and
is `actDecayMap`; here it answers as softplus2 does. -/
def actEval (a : Act) (x : Num) : Num :=
  match a with
  | .identity => x
  | .relu => match x with
    | .nan => .nan
    | x => if numLt (numNat 0) x then x else .fin false 0 0
  | .silu => numMul x (hold34 (actSigmoid x))
  | .geluTanh => actGelu x
  | .softplus => hold34 (numMul (actSoftplus2 x) cLn2)
  | .sigmoid => actSigmoid x
  | .exp => primExp2 (hold34 (numMul x cLog2e))
  | .decayMap => actSoftplus2 x

/-- DECAY_MAP (R242, R244): the L32 code of −softplus2(u)·Δ. -/
def actDecayMap (u delta : Num) : Nat × NumEv :=
  match u, delta with
  | .nan, _ => (0x80000000, { nanLoss := 1 })
  | _, .nan => (0x80000000, { nanLoss := 1 })
  | u, d => if numIsZero d then (0, evNone) else convL32 (numMul (numNeg (actSoftplus2 u)) d)

/-- The mathematical limit of an activation at an infinite argument (R240, Table 6-5). -/
def actLimit (a : Act) (x : Num) : Num :=
  match x with
  | .inf neg =>
    match a with
    | .identity => x
    | .relu => if neg then .fin false 0 0 else .inf false
    | .silu => if neg then .fin false 0 0 else .inf false
    | .geluTanh => if neg then .fin false 0 0 else .inf false
    | .softplus => if neg then .fin false 0 0 else .inf false
    | .sigmoid => if neg then .fin false 0 0 else numNat 1
    | .exp => if neg then .fin false 0 0 else .inf false
    | .decayMap => actEval a x
  | x => actEval a x

/-- Whether an activation is built on the unit's primitives. -/
def actUsesUnit : Act → Bool
  | .identity => false
  | .relu => false
  | .silu => true
  | .geluTanh => true
  | .softplus => true
  | .sigmoid => true
  | .exp => true
  | .decayMap => true

/-- Primitives of an activation's sequence, in order (R242, Table 6-7). -/
def actPrims : Act → List Prim
  | .identity => []
  | .relu => []
  | .silu => [.exp2, .rcp]
  | .geluTanh => [.exp2, .rcp]
  | .softplus => [.exp2, .log2]
  | .sigmoid => [.exp2, .rcp]
  | .exp => [.exp2]
  | .decayMap => [.exp2, .log2]

/-- The largest finite code of a target of a sign, the extreme codes of an integer or L32 target. -/
def topCode (t : Fmt) (neg : Bool) : Nat :=
  match floatOf t with
  | some f => maxCode f neg
  | none => match t with
    | .i8 => if neg then 128 else 127
    | .i16 => if neg then 32768 else 32767
    | .i32 => if neg then 2 ^ 31 else 2 ^ 31 - 1
    | .l32 => if neg then 0x80000001 else 0x7FFFFFFF
    | _ => 255

/-- The result of one element under SERVICE (R240, Table 6-5): `v` is the NORMAL value, `lim` the mathematical limit. -/
def serviceResult (t : Fmt) (r : Option Nat) (lim : Num) : Nat :=
  match lim with
  | .nan => (convert t none false (.fin false 0 0)).1
  | .inf n => topCode t n
  | x => (convert t r false x).1

/-- A result of the unit rounded into its target: the code, its counts and whether SERVICE substituted it (R230,
R239, R240). -/
def unitResult (service : Bool) (t : Fmt) (r : Option Nat) (ovf : Bool) (v lim : Num) : Nat × NumEv × Bool :=
  let normal := convert t r ovf v
  if service then
    let s := serviceResult t r lim
    if s = normal.1 then (normal.1, normal.2, false) else (s, evNone, true)
  else (normal.1, normal.2, false)

end Sys2Proof.Machine
end

