-- ==== Sys2Proof/Machine/Special.lean ====
section
/-!
DEFINITION. The vector slot's special-function operations (chapter 06, R355 to R358): ACT, SFN, the fused epilogue, RMS
normalisation and softmax, and the event by which they write their results.
-/

namespace Sys2Proof.Machine

/-! ## The unit -/

/-- Occupy the unit for `occ` CK (Table 9-12); an operation that issues before the unit accepts it is not executed and
counts in VEC_HAZARD (R276, R358). -/
def unitAccept (p occ : Nat) (body : State → State) (s : State) : State :=
  let f := fenOf s p
  if s.ck < f.sfuFree then fenBump p 0x800 1 s else body (putFen p { f with sfuFree := s.ck + occ } s)

/-- Count elements that SERVICE substituted (R240). -/
def countSubs (p n : Nat) (s : State) : State :=
  if n = 0 then s else orReg (fenWin p 0x704) 1#32 (fenBump p 0x708 n s)

/-- Energy of `g` groups of 64 through the unit for each of `k` primitives, and of the vector operation (Table 15-5). -/
def spendUnit (p g k : Nat) (s : State) : State := spend p (110 + 120 * (g * k)) s

/-- L of R275: the summed latencies of a sequence of primitives. -/
def seqLatency (l : List Prim) : Nat := (l.map primLatency).sum

/-- Results of one operation of the unit on the active elements of a register. -/
def unitEmit (p : Nat) (h : VHead) (cls : WrCls) (lat : Nat) (res : Nat → Word × NumEv × Bool) (srcs : List Nat)
    (s : State) : State :=
  let f := fenOf s p
  let active := predOf f h.pred.val
  let act := activeElems active
  let w := vregWr s p (decide (cls = .sfu)) h.vd.val active (fun e => (res e).1) (srcMire f srcs)
  let s := countSubs p (act.filter fun e => (res e).2.2).length (countEv p (evSum (act.map fun e => (res e).2.1)) s)
  addPend p ⟨s.ck + lat, issueSeq s slotVector, cls, w⟩ s

/-! ## ACT and SFN -/

/-- One element under a descriptor: the register code of a result rounded into the target (R230, R240, R354). -/
def unitElem (service : Bool) (d : Cvt) (draw : Nat) (v lim : Num) : Word × NumEv × Bool :=
  let r := unitResult service d.target (if d.stoch then some draw else none) d.ovf v lim
  (regCode d.target r.1, r.2)

/-- One element of an activation (R241, R242, R244). -/
def actElem (service : Bool) (a : Act) (d : Cvt) (draw : Nat) (x delta : Word) : Word × NumEv × Bool :=
  match a with
  | .decayMap => let r := actDecayMap (f32v x) (f32v delta); (BitVec.ofNat 32 r.1, r.2, false)
  | a => unitElem (service && actUsesUnit a) d draw (actEval a (f32v x)) (actLimit a (f32v x))

/-- ACT (R274, R275). -/
def actOp (p : Nat) (h : VHead) (a : Act) (d : Cvt) (s : State) : State :=
  let n := (actPrims a).length
  let run (cls : WrCls) (lat : Nat) (s : State) : State :=
    let f := fenOf s p
    let srcs := if a = .decayMap then [h.va.val, h.vb.val] else [h.va.val]
    let s := unitEmit p h cls lat (fun e => actElem s.service a d (genDraw f e) (elemAt (tileReg f h.va.val) e)
      (elemAt (tileReg f h.vb.val) e)) srcs (spendUnit p 4 n s)
    if a = .decayMap then s else advanceGens p d s
  if actUsesUnit a then unitAccept p (16 * n) (run .sfu (16 * n + seqLatency (actPrims a) + 2)) s else run .vector 2 s

/-- ACT. -/
def execAct (p : Fin 72) (h : VHead) (a : Act) (d : Cvt) (s : State) : Host.Outcome State Fault Refusal :=
  vIssue p (actOp p h a d) s

/-- SFN (R230, R231, R358). -/
def sfnOp (p : Nat) (h : VHead) (pr : Prim) (d : Cvt) (s : State) : State :=
  unitAccept p 16 (fun s =>
    let f := fenOf s p
    advanceGens p d (unitEmit p h .sfu (16 + primLatency pr + 2) (fun e =>
      let v := primEval pr (f32v (elemAt (tileReg f h.va.val) e))
      unitElem s.service d (genDraw f e) v v) [h.va.val] (spendUnit p 4 1 s))) s

/-- SFN. -/
def execSfn (p : Fin 72) (h : VHead) (pr : Prim) (d : Cvt) (s : State) : Host.Outcome State Fault Refusal :=
  vIssue p (sfnOp p h pr d) s

/-! ## The fused epilogue (R246, R247, R355) -/

/-- Steps 1 to 3 of Table 6-8 and the product of step 4, exact: the value to convert, its counts and substitution. -/
def epiValue (service : Bool) (d : Epi) (x : W40) (bias cs : Word) : Num × NumEv × Bool :=
  let b := if d.bias then roundW40 (numAdd (w40v x) (f32v bias)) else (x, false)
  let a : Num × NumEv × Bool :=
    if actUsesUnit d.act then
      let c := convert .f32 none false (w40v b.1)
      let v := decodeFmt .f32 c.1
      let r := unitResult service .f32 none false (actEval d.act v) (actLimit d.act v)
      (decodeFmt .f32 r.1, if r.2.2 then evNone else evAdd c.2 r.2.1, r.2.2)
    else (actEval d.act (w40v b.1), evNone, false)
  let m : Num × Bool := if d.cscale then let r := roundW40 (numMul a.1 (f32v cs)); (w40v r.1, r.2) else (a.1, false)
  (numMul m.1 (f32v d.tscale), evAdd a.2.1 (evAdd (evAcc b.2) (evAcc m.2)), a.2.2)

/-- Step 4 on one block of 32 values, each with whether SERVICE substituted it (R63, R65): the codes, the scale byte and the
counts, to which a substituted element adds none (R240). -/
def epiBlock (c : Cvt) (draw : Nat → Nat) (first : Nat) (y : List (Num × Bool)) : List Nat × Nat × NumEv :=
  let e := if c.scale then blockScale c.target (y.map (·.1)) else (127, evNone)
  let r := y.zipIdx.map fun v =>
    let x := convert c.target (if c.stoch then some (draw (first + v.2)) else none) c.ovf (numScale (127 - (e.1 : Int)) v.1.1)
    (x.1, if v.1.2 then evNone else x.2)
  (r.map (·.1), e.1, evAdd e.2 (evSum (r.map (·.2))))

/-- The writes of one output row: `first` is its first element, `codes` its elements' codes, `scales` the scale bytes of
its blocks. -/
def epiRow (b : BufId) (c : Cvt) (sfu : Bool) (row first : Nat) (codes scales : List Nat) (bad : Nat → Bool) : List FenWr :=
  let n := codes.length
  let any (lo k : Nat) : Bool := (List.range k).any fun i => bad (lo + i)
  .rowPart b row c.target 0 codes (any first n) (some (first, n, sfu)) ::
    (if c.scale then scales.zipIdx.map fun x =>
      let blk := fmtPerRow c.target / 32 * (row % 32) + x.2
      .rowPart b (32 * (row / 32) + 30 + blk / 128) .e8 (blk % 128) [x.1] (any (first + 32 * x.2) 32)
        (some (first + 32 * x.2, 32, sfu))
     else [])

/-- EPI at its issue. -/
def epiRun (p : Nat) (h : VHead) (d : Epi) (s : State) : State :=
  let f := fenOf s p
  let src := mapGet {} f.pts d.src
  let dst := mapGet {} f.pts d.dst
  let rows := rowsFrom false src.buf 16 (ptrRow src)
  let data := rows.1.map (rowRead (bufOf f src.buf))
  let sfu := actUsesUnit d.act
  let val := (List.range 256).map fun e =>
    epiValue s.service d (BitVec.ofNat 40 (rowElem .w40 (data.getD (e / 16) (0, false)).1 (e % 16)))
      (elemAt (tileReg f h.va.val) e) (elemAt (tileReg f h.vb.val) e)
  let bad (e : Nat) : Bool := (data.getD (e / 16) (0, false)).2 || (d.bias && vecMire f h.va.val (e / 32))
    || (d.cscale && vecMire f h.vb.val (e / 32)) || laneBad s p sfu e
  let blocks := (List.range 8).map fun b => epiBlock d.conv (genDraw f) (32 * b) (((val.drop (32 * b)).take 32).map fun v => (v.1, v.2.2))
  let codes := blocks.flatMap (·.1)
  let per := fmtPerRow d.conv.target
  let out := rowsFrom d.conv.scale dst.buf ((256 + per - 1) / per) (ptrRow dst)
  let wr := out.1.zipIdx.flatMap fun r => epiRow dst.buf d.conv sfu r.1 (per * r.2) ((codes.drop (per * r.2)).take per)
    (((blocks.map (·.2.1)).drop (per / 32 * r.2)).take (per / 32)) bad
  let lat := if sfu then 16 * (actPrims d.act).length + seqLatency (actPrims d.act) + 10 else 12
  let s := touchRows p src.buf rows.1 (noteUse p src.buf rows.1 s)
  let s := countSubs p (val.filter (·.2.2)).length (countEv p (evAdd (evSum (val.map (·.2.1))) (evSum (blocks.map (·.2.2)))) s)
  let s := spendRows p (16 + out.1.length) (spendUnit p 4 (actPrims d.act).length (advanceGens p d.conv s))
  addPends p (s.ck + lat) (issueSeq s slotVector) .sfu wr
    (addPends p (s.ck + 1) (issueSeq s slotVector) .move
      [.ptr d.src (ptrAt src.buf rows.2), .ptr d.dst (ptrAt dst.buf out.2)] s)

/-- EPI: the descriptor is read through ECC (R329, R373); its occupancy is that of Table 9-12. -/
def epiOp (p : Nat) (h : VHead) (desc : Nat) (s : State) : State :=
  let img := (fenOf s p).img
  useImage p (mapGet .ok img.epiErr desc) (fun s =>
    match epiOfBits (mapGet 0#64 img.epis desc) with
    | none => s
    | some d => unitAccept p (if actUsesUnit d.act then 16 * (actPrims d.act).length else 16) (epiRun p h d) s) s

/-- EPI. -/
def execEpi (p : Fin 72) (h : VHead) (desc : Fin 64) (s : State) : Host.Outcome State Fault Refusal :=
  vIssue p (epiOp p h desc.val) s

/-! ## RMS normalisation (R248 to R250, R356) -/

/-- A row in progress. -/
def normOf (f : Fen) (i : Nat) : NormRow := mapGet {} f.norms i

/-- The 256 source elements of a phase: value, mire, and for scaled rows the block's exponent e_block − 127 + emax. -/
abbrev NormSrc := List (Num × Bool × Option Int)

/-- Scale byte `n` of the slot that holds a row, and its mire. -/
def scaleByte (x : Buffer) (row n : Nat) : Nat × Bool :=
  let r := rowRead x (32 * (row / 32) + 30 + n / 128)
  (rowElem .e8 r.1 (n % 128), r.2)

/-- Rows that SRC = 1 or 2 reads from a pointer (R356, Table 2-7). -/
def normRows (src : NrmSrc) (fmt : Fmt) (x : Ptr) : List Nat :=
  match src with
  | .reg => []
  | .w40 => (rowsFrom false x.buf 16 (ptrRow x)).1
  | .scaled => (rowsFrom true x.buf ((256 + fmtPerRow fmt - 1) / fmtPerRow fmt) (ptrRow x)).1

/-- Scale rows that those rows use. -/
def normScaleRows (src : NrmSrc) (fmt : Fmt) (rows : List Nat) : List Nat :=
  match src with
  | .scaled => (rows.flatMap fun r => (List.range (fmtPerRow fmt / 32)).map fun k =>
      32 * (r / 32) + 30 + (fmtPerRow fmt / 32 * (r % 32) + k) / 128).eraseDups
  | _ => []

/-- The source elements (R356). An E8 scale of 0xFF makes its block invalid (R61): its elements are NaN and it enters no
exponent maximum. -/
def normElems (f : Fen) (src : NrmSrc) (fmt : Fmt) (va : Nat) : NormSrc :=
  let x := mapGet {} f.pts (va % 16)
  let rows := normRows src fmt x
  let b := bufOf f x.buf
  (List.range 256).map fun e =>
    match src with
    | .reg => (f32v (elemAt (tileReg f va) e), vecMire f va (e / 32), none)
    | .w40 =>
      let r := rowRead b (rows.getD (e / 16) 0)
      (w40v (BitVec.ofNat 40 (rowElem .w40 r.1 (e % 16))), r.2, none)
    | .scaled =>
      let row := rows.getD (e / fmtPerRow fmt) 0
      let i := e % fmtPerRow fmt
      let r := rowRead b row
      let sc := scaleByte b row (fmtPerRow fmt / 32 * (row % 32) + i / 32)
      if sc.1 = 255 then (.nan, r.2 || sc.2, none)
      else (numScale ((sc.1 : Int) - 127) (decodeFmt fmt (rowElem fmt r.1 i)), r.2 || sc.2,
            some ((sc.1 : Int) - 127 + emaxOf fmt))

/-- The exponent an element brings to k (R248). -/
def elemExp (x : Num × Bool × Option Int) : Option Int :=
  match x.1 with
  | .fin _ m e => if m = 0 then none else some (x.2.2.getD (floorLog2 m e))
  | _ => none

/-- An operation reads rows of a buffer (R380, R381). -/
def useSource (p : Nat) (b : BufId) (rows : List Nat) (s : State) : State := touchRows p b rows (noteUse p b rows s)

/-- A phase that reads 256 source elements and changes the row in progress at its result (R358). -/
def normPhase (p : Nat) (h : VHead) (src : NrmSrc) (fmt : Fmt) (row lat : Nat) (upd : NormRow → NormSrc → NormUpd)
    (s : State) : State :=
  let f := fenOf s p
  let l := normElems f src fmt h.va.val
  let rows := normRows src fmt (mapGet {} f.pts (h.va.val % 16))
  let mire := l.any (·.2.1) || !decide (f.sfuBad = [])
  let w := FenWr.norm row (upd (normOf f row) l) (l.any fun x => !numIsZero x.1) mire
  let s := useSource p (mapGet {} f.pts (h.va.val % 16)).buf (rows ++ normScaleRows src fmt rows) s
  let s := spendRows p rows.length (spendUnit p 4 1 s)
  addPend p ⟨s.ck + (if src = .reg then lat else lat + 3), issueSeq s slotVector, .sfu, w⟩ s

/-- NRM KMAX. -/
def execNrmKmax (p : Fin 72) (h : VHead) (src : NrmSrc) (fmt : Fmt) (row : Fin 32) (clr : Bool) (s : State) :
    Host.Outcome State Fault Refusal :=
  vIssue p (unitAccept p 4 (normPhase p h src fmt row.val 6 fun _ l =>
    .kmax clr (l.foldl (fun k x => expMax k (elemExp x)) none))) s

/-- NRM SQ. -/
def execNrmSq (p : Fin 72) (h : VHead) (src : NrmSrc) (fmt : Fmt) (row : Fin 32) (s : State) :
    Host.Outcome State Fault Refusal :=
  vIssue p (unitAccept p 4 (normPhase p h src fmt row.val 8 fun n l => .sq (n.k.getD 0) (l.map (·.1)))) s

/-- q / n rounded once to W40 (R248): the quotient to 60 bits with a sticky bit. -/
def meanOf (q : W40) (n : Int) : W40 × Bool :=
  if n = 0 then (Config.freeMean q, false)
  else match w40v q with
    | .fin s m e =>
      let d := n.natAbs
      let z := (m <<< 120) / d
      let sticky := if (m <<< 120) % d = 0 then 0 else 1
      roundW40 (.fin (xor s (decide (n < 0))) (2 * z + sticky) (e - 121))
    | .inf s => roundW40 (.inf (xor s (decide (n < 0))))
    | .nan => roundW40 .nan

/-- The pairs (q, k) of a merge (R249, R356): container 2f of the two rows holds q, container 2f + 1 k. -/
def mergePairs (rows : List Row) : List (W40 × W40) :=
  (List.range 16).map fun f =>
    let r := rows.getD (f / 8) 0
    (BitVec.ofNat 40 (rowElem .w40 r (2 * (f % 8))), BitVec.ofNat 40 (rowElem .w40 r (2 * (f % 8) + 1)))

/-- The integer that a value is, if it is one. -/
def numInt? : Num → Option Int
  | .fin n m e => if truncAt 0 (.fin n m e) * 2 ^ (-(min e 0)).toNat = scaledInt n m e (min e 0)
      then some (truncAt 0 (.fin n m e)) else none
  | _ => none

/-- Whether a pair is absent: its k container holds −∞ (R356). -/
def absentPair (x : W40 × W40) : Bool := decide (w40v x.2 = .inf true)

/-- combine (R249): K, Q and the saturations. -/
def combinePairs (pairs : List (W40 × W40)) : Option Int × W40 × Nat :=
  let live := pairs.filter fun x => !absentPair x
  let ks := live.map fun x => numInt? (w40v x.2)
  if live = [] then (none, 0, 0)
  else if ks.any Option.isNone then
    let l := pairs.flatMap fun x => [x.1, x.2]
    (some (Config.freeCombineK l), Config.freeCombineQ l, 0)
  else
    let k := ks.foldl expMax none
    let r := (live.zip ks).foldl (fun a x =>
      let y := roundW40 (numAdd (w40v a.1) (numScale (2 * (x.2.getD 0 - k.getD 0)) (w40v x.1.1)))
      (y.1, if y.2 then a.2 + 1 else a.2)) ((0 : W40), 0)
    (k, r.1, r.2)

/-- Whether a row's every element is zero (R250). -/
def zeroRow (n : NormRow) : Bool := !n.live && numIsZero (w40v n.q)

/-- The row's change at a FIN's result: the pair that it merged, if any, and r. -/
def finWr (row : Nat) (merge : Bool) (n : NormRow) (r : Option Word) : FenWr :=
  .norm row (.fin (if merge then some (n.k, n.q) else none) r) n.live n.mire

/-- FIN without PART (R248, R356): m, d and r, and k and r to elements 0 and 1 of VD; what forms r counts where
element 1 is written (R263). -/
def normFin (p : Nat) (h : VHead) (row lat : Nat) (merge : Bool) (n : NormRow) (s : State) : State :=
  let f := fenOf s p
  let eps := f32v (elemAt (tileReg f h.vb.val) 1)
  let m := meanOf n.q (elemAt (tileReg f h.vb.val) 0).toInt
  let d := roundW40 (numAdd (w40v m.1) (numScale (-2 * n.k.getD 0) eps))
  let c := convert .f32 none false (w40v d.1)
  let v := primRsqrt (decodeFmt .f32 c.1)
  let r := unitResult s.service .f32 none false v v
  let zero := zeroRow n && numIsZero eps
  let n := { n with r := BitVec.ofNat 32 r.1, mire := n.mire || vecMire f h.vb.val 0 }
  let active := predOf f h.pred.val &&& 3#256
  let w := vregWr s p true h.vd.val active (fun e => if e = 0 then BitVec.ofInt 32 (n.k.getD 0) else n.r) (fun _ => n.mire)
  let on := active.getLsbD 1
  let s := if on then
      countEv p (evAdd (evAdd (evAcc m.2) (evAcc d.2)) (evAdd c.2 r.2.1)) (countSubs p (if r.2.2 then 1 else 0) s)
    else s
  let s := if zero && on then orReg (fenWin p 0x704) 4#32 (fenBump p 0x714 1 s) else s
  let w := match w with
    | .vreg x vals t => .vreg x vals (t.zipIdx.map fun y => if y.2 = 0 ∧ active ≠ 0 then y.1 else none)
    | w => w
  addPends p (s.ck + lat) (issueSeq s slotVector) .sfu [w, finWr row merge n (some n.r)] s

/-- FIN with PART (R356): the pair (q, k) to containers 0 and 1 of the row at the pointer; a part with no finite nonzero
element has k = 0 (R248). -/
def normPart (p : Nat) (va row lat : Nat) (merge : Bool) (n : NormRow) (s : State) : State :=
  let x := mapGet {} (fenOf s p).pts (va % 16)
  let k := (roundW40 (numOfInt (n.k.getD 0))).1
  addPends p (s.ck + lat) (issueSeq s slotVector) .sfu
    [.rowPart x.buf (ptrRow x) .w40 0 [n.q.toNat, k.toNat] n.mire (some (0, 64, true)), finWr row merge n none] s

/-- NRM FIN at its issue. -/
def normFinOp (p : Nat) (h : VHead) (row : Nat) (part merge : Bool) (s : State) : State :=
  let f := fenOf s p
  let lat := if merge then 40 else 24
  let s := spendUnit p 1 1 s
  let n := normOf f row
  let fin (n : NormRow) (s : State) : State :=
    if part then normPart p h.va.val row lat merge n s else normFin p h row lat merge n s
  if merge then
    let x := mapGet {} f.pts (h.va.val % 16)
    let rows := (rowsFrom false x.buf 2 (ptrRow x)).1
    let data := rows.map (rowRead (bufOf f x.buf))
    let c := combinePairs (mergePairs (data.map (·.1)))
    fin { n with k := c.1, q := c.2.1, mire := data.any (·.2) || !decide (f.sfuBad = []),
                 live := (mergePairs (data.map (·.1))).any fun x => !absentPair x && !numIsZero (w40v x.1) }
      (countEv p { accSat := c.2.2 } (spendRows p 2 (useSource p x.buf rows s)))
  else fin n s

/-- NRM FIN. -/
def execNrmFin (p : Fin 72) (h : VHead) (row : Fin 32) (part merge : Bool) (s : State) : Host.Outcome State Fault Refusal :=
  vIssue p (unitAccept p 4 (normFinOp p h row.val part merge)) s

/-- NRM APPLY at its issue (R248, R250): x·2⁻ᵏ·r·g rounded once to F32; a row of zeros gives +0. -/
def normApply (p : Nat) (h : VHead) (src : NrmSrc) (fmt : Fmt) (row : Nat) (s : State) : State :=
  let f := fenOf s p
  let n := normOf f row
  let l := normElems f src fmt h.va.val
  let x := mapGet {} f.pts (h.va.val % 16)
  let rows := normRows src fmt x
  let res (e : Nat) : Nat × NumEv :=
    if zeroRow n then (0, evNone)
    else convert .f32 none false (numMul (numMul (numScale (-(n.k.getD 0)) (l.getD e (.nan, false, none)).1) (f32v n.r))
      (f32v (elemAt (tileReg f h.vb.val) e)))
  let active := predOf f h.pred.val
  let w := vregWr s p true h.vd.val active (fun e => BitVec.ofNat 32 (res e).1)
    (fun e => n.mire || (l.getD e (.nan, false, none)).2.1 || vecMire f h.vb.val (e / 32))
  let s := useSource p x.buf (rows ++ normScaleRows src fmt rows) s
  let s := spendRows p rows.length (spendUnit p 4 1 (countEv p (evSum ((activeElems active).map fun e => (res e).2)) s))
  addPend p ⟨s.ck + (if src = .reg then 8 else 11), issueSeq s slotVector, .sfu, w⟩ s

/-- NRM APPLY. -/
def execNrmApply (p : Fin 72) (h : VHead) (src : NrmSrc) (fmt : Fmt) (row : Fin 32) (s : State) :
    Host.Outcome State Fault Refusal := vIssue p (unitAccept p 4 (normApply p h src fmt row.val)) s

/-! ## Softmax (R251 to R255, R357) -/

/-- What one query row of an ONLINE step gives: m, l, the correction, the weights, and the events that belong to l, to the
correction and to each weight. -/
structure OnlineRow where
  m : Word
  l : Word
  corr : Word
  p : List Word
  lEv : NumEv := {}
  lSat : Nat := 0
  lSub : Bool := false
  corrEv : NumEv := {}
  corrSat : Nat := 0
  pEv : List (NumEv × Nat × Bool) := []

/-- EXP2 of an F32 argument into F32: code, counts, substitution. -/
def exp2F32 (service : Bool) (x : Word) : Word × NumEv × Bool :=
  let v := primExp2 (f32v x)
  let r := unitResult service .f32 none false v v
  (BitVec.ofNat 32 r.1, r.2)

/-- One row of ONLINE over one key tile (R252; log entry 23 for the precision of c and of the sum). -/
def onlineRow (service : Bool) (z : List Word) (m l : Word) : OnlineRow :=
  let mNew := fMax m ((foldTy fMax 0xFF800000#32 z).val)
  if f32v mNew = .nan then { m := mNew, l := l, corr := l32Cut, p := z.map fun _ => f32NaN }
  else if f32v mNew = .inf true then { m := mNew, l := l, corr := l32One, p := z.map fun _ => 0#32 }
  else
    let d := fSub m mNew
    let cut := decide (f32v d.val = .inf true) || numLt (f32v d.val) (.fin true 128 0)
    let corr := if cut then (l32Cut.toNat, evNone) else convL32 (f32v d.val)
    let sub := service && decide (f32v d.val = .nan)
    let c := if cut || sub then Num.fin false 0 0 else hold34 (primExp2 (f32v d.val))
    let ps := z.map fun x => let y := fSub x mNew; (y.f32Sat, exp2F32 service y.val)
    let sum := treeSum (ps.map (·.2.1))
    let ln := f32Elt (numAdd (numMul (f32v l) c) (f32v sum.val))
    { m := mNew, l := ln.val, corr := BitVec.ofNat 32 corr.1, p := ps.map (·.2.1),
      lEv := sum.ev, lSat := sum.f32Sat + ln.f32Sat, lSub := sub, corrEv := corr.2, corrSat := d.f32Sat,
      pEv := ps.map fun x => (x.2.2.1, x.1, x.2.2.2) }

/-- Predicated writes to a register given by listed elements. -/
def listWr (s : State) (p : Nat) (reg : Nat) (active : BitVec 256) (l : List (Nat × Word)) (bad : Nat → Bool) : FenWr :=
  let look (e : Nat) : Option Word := (l.find? fun x => decide (x.1 = e)).map (·.2)
  .vreg reg ((List.range 256).map fun e => if active.getLsbD e then look e else none)
    ((List.range 8).map fun m =>
      let on := (List.range 32).filter fun k => active.getLsbD (32 * m + k) && (look (32 * m + k)).isSome
      if on = [] then none else some (on.any fun k => bad (32 * m + k) || laneBad s p true (32 * m + k)))

/-- The events of one row of an ONLINE step that count: those of the elements of active lanes (R263). `row` is the row's number
in the register `active` governs, `i` its number in the quarter. -/
def onlineEvents (active : BitVec 256) (row i : Nat) (r : OnlineRow) : List (NumEv × Nat × Bool) :=
  (if active.getLsbD (32 + row) then [(r.lEv, r.lSat, r.lSub)] else [])
    ++ (if active.getLsbD (64 + row) then [(r.corrEv, r.corrSat, false)] else [])
    ++ r.pEv.zipIdx.filterMap fun x => if active.getLsbD (32 * i + x.2) then some x.1 else none

/-- SMX ONLINE at its issue (R357). -/
def smxOnlineOp (p : Nat) (h : VHead) (q : Nat) (s : State) : State :=
  let f := fenOf s p
  let active := predOf f h.pred.val
  let st (v i : Nat) : Word := elemAt (tileReg f h.vd.val) (32 * v + 8 * q + i)
  let rows := (List.range 8).map fun i => (i, onlineRow s.service (vecOf f h.va.val i) (st 0 i) (st 1 i))
  let stats := rows.flatMap fun r => [(8 * q + r.1, r.2.m), (32 + 8 * q + r.1, r.2.l), (64 + 8 * q + r.1, r.2.corr)]
  let weights := rows.flatMap fun r => r.2.p.zipIdx.map fun w => (32 * r.1 + w.2, w.1)
  let old := vecMire f h.vd.val 0 || vecMire f h.vd.val 1
  let ev := rows.flatMap fun r => onlineEvents active (8 * q + r.1) r.1 r.2
  let s := countEv p (evSum (ev.map (·.1))) (countSubs p (ev.filter (·.2.2)).length s)
  let s := fenBump p 0x808 (ev.map (·.2.1)).sum (spendUnit p 5 1 s)
  addPends p (s.ck + 52) (issueSeq s slotVector) .sfu
    [listWr s p h.vd.val active stats (fun e => old || vecMire f h.va.val (e % 32 - 8 * q)),
     listWr s p h.vb.val active weights (fun e => vecMire f h.va.val (e / 32) || vecMire f h.vd.val 0)] s

/-- SMX ONLINE. -/
def execSmxOnline (p : Fin 72) (h : VHead) (quarter : Fin 4) (s : State) : Host.Outcome State Fault Refusal :=
  vIssue p (unitAccept p 20 (smxOnlineOp p h quarter.val)) s

/-- SMX ONLINE with FIN (R357), on every one of the 32 query rows: elements 64 + i and 96 + i. A row with l = 0 counts where one
of the two is written (R263). -/
def smxFinOp (p : Nat) (h : VHead) (s : State) : State :=
  let f := fenOf s p
  let active := predOf f h.pred.val
  let rows := (List.range 32).map fun i =>
    let l := f32v (elemAt (tileReg f h.vd.val) (32 + i))
    let r := unitResult s.service .f32 none false (primRcp l) (primRcp l)
    if numIsZero l then (i, l32Cut, 0x3F800000#32, evNone, false, true)
    else (i, l32One, BitVec.ofNat 32 r.1, r.2.1, r.2.2, false)
  let empty := (rows.filter fun r => r.2.2.2.2.2 && (active.getLsbD (64 + r.1) || active.getLsbD (96 + r.1))).length
  let on := rows.filter fun r => active.getLsbD (96 + r.1)
  let w := listWr s p h.vd.val active
    (rows.flatMap fun r => [(64 + r.1, r.2.1), (96 + r.1, r.2.2.1)]) (fun _ => vecMire f h.vd.val 1)
  let s := countSubs p (on.filter fun r => r.2.2.2.2.1).length (countEv p (evSum (on.map fun r => r.2.2.2.1)) s)
  let s := if empty = 0 then s else orReg (fenWin p 0x704) 8#32 (fenBump p 0x710 empty s)
  addPend p ⟨s.ck + 20, issueSeq s slotVector, .sfu, w⟩ (spendUnit p 1 1 s)

/-- SMX ONLINE, FIN = 1. It works on every row of VD, so the quarter names none (R357). -/
def execSmxOnlineFin (p : Fin 72) (h : VHead) (_quarter : Fin 4) (s : State) : Host.Outcome State Fault Refusal :=
  vIssue p (unitAccept p 4 (smxFinOp p h)) s

/-- 354 in units of log₂: 354 · log₂ e (R255). -/
def rangeBound : Num := .fin false (354 * 1828833234529184422442202814989) (-100)

/-- exp2_w40 of a score (R254, R255): the value, whether the score breaks the bound, and whether SERVICE substitutes +0 for a
NaN (R240). -/
def exp2W40 (service : Bool) (z : Num) : Num × Bool × Bool :=
  if !decide (z = .nan) && !numLt z rangeBound then (w40v (BitVec.ofNat 40 (maxCode fmtW40 false)), true, false)
  else match primExp2 z with
    | .fin n m e => let r := rneTo 24 (ulpMin fmtW40) m e; (.fin n r.1 r.2, false, false)
    | x => if service && decide (x = .nan) then (.fin false 0 0, false, true) else (x, false, false)

/-- SMX RANGE pass 0 at its issue; the rows take the exponentials at the result (R358). -/
def smxPass0 (p : Nat) (h : VHead) (q : Nat) (clr : Bool) (s : State) : State :=
  let f := fenOf s p
  let rows := (List.range 8).map fun i =>
    ((vecOf f h.va.val i).map fun x => exp2W40 s.service (f32v x), vecMire f h.va.val i || !decide (f.sfuBad = []))
  let subs := (rows.map fun r => (r.1.filter (·.2.2)).length).sum
  addPend p ⟨s.ck + 34, issueSeq s slotVector, .sfu,
    .range (8 * q) clr (rows.map fun r => (r.1.map fun e => (e.1, e.2.1), r.2))⟩ (spendUnit p 4 1 (countSubs p subs s))

/-- SMX RANGE pass 0. -/
def execSmxRangePass0 (p : Fin 72) (h : VHead) (quarter : Fin 4) (clr : Bool) (s : State) :
    Host.Outcome State Fault Refusal := vIssue p (unitAccept p 16 (smxPass0 p h quarter.val clr)) s

/-- The weight of a score in pass 1, at most 1 (R254, R255). -/
def rangeWeight (service : Bool) (lg : Num) (z : Word) : Word × NumEv × Bool :=
  let v := primExp2 (hold34 (numSub (f32v z) lg))
  let v := if numLt (numNat 1) v then numNat 1 else v
  let r := unitResult service .f32 none false v v
  (BitVec.ofNat 32 r.1, r.2)

/-- SMX RANGE pass 1 at its issue: a row with l = 0 gives +0 weights and counts once (R255). -/
def smxPass1 (p : Nat) (h : VHead) (q : Nat) (s : State) : State :=
  let f := fenOf s p
  let rows := (List.range 8).map fun i =>
    let r := mapGet {} f.ranges (8 * q + i)
    let zero := numIsZero (w40v r.l)
    let lg := hold34 (primLog2 (w40v r.l))
    (i, r, zero, (vecOf f h.va.val i).map fun z => if zero then (0#32, evNone, false) else rangeWeight s.service lg z)
  let fresh := rows.filter fun r => r.2.2.1 && !r.2.1.past
  let active := predOf f h.pred.val
  let on := rows.flatMap fun r => r.2.2.2.zipIdx.filterMap fun w => if active.getLsbD (32 * r.1 + w.2) then some w.1 else none
  let w := listWr s p h.vb.val active (rows.flatMap fun r => r.2.2.2.zipIdx.map fun w => (32 * r.1 + w.2, w.1.1))
    (fun e => vecMire f h.va.val (e / 32) || (mapGet {} f.ranges (8 * q + e / 32)).mire)
  let marked := fresh.foldl (fun m r => mapPut {} m (8 * q + r.1) { r.2.1 with past := true }) f.ranges
  let s := modFen p (fun f => { f with ranges := marked }) s
  let s := countRange p fresh.length (countSubs p (on.filter (·.2.2)).length (countEv p (evSum (on.map (·.2.1))) s))
  addPend p ⟨s.ck + 70, issueSeq s slotVector, .sfu, w⟩ (spendUnit p 5 1 s)

/-- SMX RANGE pass 1. -/
def execSmxRangePass1 (p : Fin 72) (h : VHead) (quarter : Fin 4) (s : State) : Host.Outcome State Fault Refusal :=
  vIssue p (unitAccept p 20 (smxPass1 p h quarter.val)) s

/-! ## Results and faults -/

/-- Code of a primitive (Table 6-1). -/
def primCode : Prim → Nat
  | .rcp => 0
  | .rsqrt => 1
  | .exp2 => 2
  | .log2 => 3

/-- A pending result of the unit with what a logical lane, `none` for a lane out of use, supplies mired (R256). -/
def sfuTaint (lane : Option Nat) (w : PendWr) : PendWr :=
  if w.cls ≠ .sfu then w
  else match w.wr with
    | .vreg r vals t => { w with wr := .vreg r vals (t.zipIdx.map fun x =>
        if (List.range 32).any (fun k => decide (some ((32 * x.2 + k) % 64) = lane) && (vals.getD (32 * x.2 + k) none).isSome)
        then x.1.map (fun _ => true) else x.1) }
    | .norm row u live _ => { w with wr := .norm row u live true }
    | .range first clr rows => { w with wr := .range first clr (rows.map fun r => (r.1, true)) }
    | .rowPart b row fmt first codes mire (some (e, n, true)) =>
      let hit := (List.range n).any fun k => decide (some ((e + k) % 64) = lane)
      { w with wr := .rowPart b row fmt first codes (mire || hit) (some (e, n, true)) }
    | _ => w

/-- A fault of the special-function unit (R256). -/
def sfuFaultAt (p : Nat) (x : SfuFault) (s : State) : State :=
  let lane := sfuLogical (fenReg s p 0x700) x.lane.val
  let info := 1 + 2 * x.lane.val + 256 * (if x.residue then 2 else 1) + 1024 * primCode x.prim
  let s := modFen p (fun f => { f with
    sfuBad := if f.sfuBad.contains x.lane.val then f.sfuBad else f.sfuBad ++ [x.lane.val]
    pend := f.pend.map (sfuTaint lane)
    norms := f.norms.map fun n => (n.1, { n.2 with mire := true })
    ranges := f.ranges.map fun n => (n.1, { n.2 with mire := true }) }) s
  let s := if regBit s (fenWin p 0x718) 0 then s else setFenReg p 0x718 (BitVec.ofNat 32 info) s
  logAdd lkSfuFault p [(fenReg s p 0x718).toNat] s

/-- SFU_RESULT_WRITE (R246, R247, R256, R275). -/
def execSfuResultWrite (p : Fin 72) (fault : Option SfuFault) (s : State) : Host.Outcome State Fault Refusal :=
  .next (resultWrite p .sfu (fun _ s => match fault with
    | none => s
    | some x => sfuFaultAt p x s) s)

end Sys2Proof.Machine
end

