-- ==== Sys2Proof/Machine/PlanImage.lean ====
section
/-!
DEFINITION. The plan image (R503, R504, Tables 13-6 and 13-7): its header, directory and sections, read from the bytes
that the fabric returned, and the legality of every bundle and descriptor (R329) for check 5.
-/

namespace Sys2Proof.Machine

/-! ## What the image declares -/

/-- What a refused LOAD_PLAN reports (Tables 13-8 and 13-9). -/
structure PlanErr where
  st : Status
  check : Nat
  fen : Nat := 0xFF
  sect : Nat := 0xFFFF
  entry : Nat := 0
  variant : Nat := 0
  value : Nat := 0
  deriving DecidableEq, Repr

/-- An entry of FEN_IMAGE; `bad` says that a reserved byte of it is not 0. -/
structure FenSrc where
  fen : Nat
  bad : Bool
  entry : Nat
  window : Nat
  code : Array Nat
  variants : Nat
  waits : List Nat
  routes : List Nat
  epis : List Nat
  deriving DecidableEq, Repr

/-- An entry of LODES. -/
structure LodeSrc where
  ix : Nat
  bad : Bool
  desc : BitVec 512
  deriving DecidableEq, Repr

/-- An entry of COUNTERS. -/
structure CounterSrc where
  fen : Nat
  counter : Nat
  feed : Nat
  carried : Nat
  bad : Bool
  deriving DecidableEq, Repr

/-- An entry of BINDINGS with its raw family, flags and tile count. -/
structure BindSrc where
  index : Nat
  family : Nat
  flags : Nat
  less1 : Nat
  count : Nat
  tiles : List Nat
  initTiles : List Nat
  bad : Bool
  deriving DecidableEq, Repr

/-- A stage of a chain declaration. -/
structure StageSrc where
  fen : Nat
  link : Nat
  first : Nat
  k : Nat
  counter : Nat
  bad : Bool
  deriving DecidableEq, Repr

/-- An entry of CHAINS. -/
structure ChainSrc where
  bad : Bool
  stages : List StageSrc
  last : Nat
  deriving DecidableEq, Repr

/-- A plan image; `dir` holds the type and the directory index of each section. -/
structure PlanSrc where
  fens : BitVec 64
  mapGen : BitVec 16
  bad : Bool
  epochs : List (Nat × Nat)
  dir : List (Nat × Nat)
  badDir : List Nat
  imgs : List FenSrc
  lodes : List LodeSrc
  counters : List CounterSrc
  binds : List BindSrc
  scans : List Nat
  decisions : List (BitVec 256)
  chains : List ChainSrc
  deriving DecidableEq, Repr

/-! ## Reading the bytes -/

/-- Bits [hi:lo] of a number. -/
def bitsAt (w hi lo : Nat) : Nat := w / 2 ^ lo % 2 ^ (hi + 1 - lo)

/-- Bit `i` of a number. -/
def bitAt (w i : Nat) : Bool := decide (bitsAt w i i = 1)

/-- `n` bytes from `off`, as a little-endian number (R15). -/
def leAt (a : Array Byte) : Nat → Nat → Nat
  | _, 0 => 0
  | off, n + 1 => (a.getD off 0).toNat + 256 * leAt a (off + 1) n

/-- `k` numbers of `n` bytes each. -/
def lesAt (a : Array Byte) (off n k : Nat) : List Nat := (List.range k).map fun i => leAt a (off + n * i) n

/-- The CRC of the image with its field taken as 0 (Table 13-6). -/
def imageCrc (l : List Byte) : Word :=
  ~~~((l.take 12 ++ List.replicate 4 0#8 ++ l.drop 16).foldl crc32Byte 0xFFFFFFFF#32)

/-- A section in the directory: index, type, count, offset, length. -/
structure SectSrc where
  ix : Nat
  typ : Nat
  count : Nat
  off : Nat
  len : Nat
  rest : Nat
  deriving DecidableEq, Repr

/-- The directory (R503). -/
def dirOf (a : Array Byte) (at_ n : Nat) : List SectSrc :=
  (List.range n).map fun i =>
    let e := leAt a (at_ + 16 * i) 16
    ⟨i, bitsAt e 15 0, bitsAt e 31 16, bitsAt e 63 32, bitsAt e 95 64, bitsAt e 127 96⟩

/-- Entries of one length: those of a section, or the number of the first that passes its end. -/
def fixedEntries {β : Type} (n : Nat) (read : Nat → β) (x : SectSrc) : Nat ⊕ List β :=
  if n * x.count ≤ x.len then .inr ((List.range x.count).map fun i => read (x.off + n * i)) else .inl (x.len / n)

/-- Entries of differing lengths from `off`: `size` gives the head's length and the whole length of the entry at an offset. -/
def varEntries {β : Type} (head : Nat) (size : Nat → Nat) (read : Nat → β) (fin : Nat) : Nat → Nat → Nat → Nat ⊕ List β
  | 0, _, _ => .inr []
  | n + 1, k, off =>
    if fin < off + head ∨ fin < off + size off then .inl k
    else match varEntries head size read fin n (k + 1) (off + size off) with
      | .inl e => .inl e
      | .inr l => .inr (read off :: l)

/-- Length of a FEN_IMAGE entry. -/
def fenSize (a : Array Byte) (o : Nat) : Nat :=
  16 + 16 * leAt a (o + 8) 2 + 48 + 16 * leAt a (o + 10) 2 + 8 * leAt a (o + 12) 1 + 8 * leAt a (o + 13) 1

/-- A FEN_IMAGE entry. -/
def fenRead (a : Array Byte) (o : Nat) : FenSrc :=
  let nb := leAt a (o + 8) 2
  let nw := leAt a (o + 10) 2
  let nr := leAt a (o + 12) 1
  let ow := o + 64 + 16 * nb
  { fen := leAt a o 1, bad := decide (leAt a (o + 1) 1 ≠ 0 ∨ leAt a (o + 14) 2 ≠ 0), entry := leAt a (o + 2) 2,
    window := leAt a (o + 4) 4, code := (lesAt a (o + 16) 16 nb).toArray, variants := leAt a (o + 16 + 16 * nb) 48,
    waits := lesAt a ow 16 nw, routes := lesAt a (ow + 16 * nw) 8 nr,
    epis := lesAt a (ow + 16 * nw + 8 * nr) 8 (leAt a (o + 13) 1) }

/-- A LODES entry. -/
def lodeRead (a : Array Byte) (o : Nat) : LodeSrc :=
  ⟨leAt a o 2, decide (leAt a (o + 2) 6 ≠ 0), BitVec.ofNat 512 (leAt a (o + 8) 64)⟩

/-- A COUNTERS entry. -/
def counterRead (a : Array Byte) (o : Nat) : CounterSrc :=
  ⟨leAt a o 1, leAt a (o + 1) 1, leAt a (o + 2) 1, leAt a (o + 4) 2, decide (leAt a (o + 3) 1 ≠ 0 ∨ leAt a (o + 6) 2 ≠ 0)⟩

/-- Tiles that follow the head of a BINDINGS entry. -/
def bindTiles (a : Array Byte) (o : Nat) : Nat := leAt a (o + 6) 2 * if bitAt (leAt a (o + 3) 1) 1 then 2 else 1

/-- A BINDINGS entry. -/
def bindRead (a : Array Byte) (o : Nat) : BindSrc :=
  let n := leAt a (o + 6) 2
  let l := lesAt a (o + 16) 2 (bindTiles a o)
  ⟨leAt a o 2, leAt a (o + 2) 1, leAt a (o + 3) 1, leAt a (o + 4) 1, n, l.take n, l.drop n,
   decide (leAt a (o + 5) 1 ≠ 0 ∨ leAt a (o + 8) 8 ≠ 0)⟩

/-- A CHAINS entry. -/
def chainRead (a : Array Byte) (o : Nat) : ChainSrc :=
  let n := leAt a o 1
  ⟨decide (leAt a (o + 1) 7 ≠ 0),
   (List.range n).map fun i => let e := o + 8 + 8 * i
     ⟨leAt a e 1, leAt a (e + 1) 1, leAt a (e + 2) 1, leAt a (e + 3) 1, leAt a (e + 4) 1, decide (leAt a (e + 5) 3 ≠ 0)⟩,
   leAt a (o + 8 + 8 * n) 8⟩

/-- A failure of check 1 in a section. -/
def sectErr (x : SectSrc) (entry : Nat) : PlanErr := { st := stRefusedConfig, check := 1, sect := x.ix, entry := entry }

/-- The entries of the section of a type: none where the image has no such section. -/
def readSect {β : Type} (l : List SectSrc) (typ : Nat) (read : SectSrc → Nat ⊕ List β) : PlanErr ⊕ List β :=
  match l.find? fun x => decide (x.typ = typ) with
  | none => .inr []
  | some x => match read x with
    | .inl k => .inl (sectErr x k)
    | .inr r => .inr r

/-- The first section whose directory entry check 1 refuses: reserved or repeated type, or not within the image. -/
def badSect (size : Nat) : List SectSrc → List Nat → Option PlanErr
  | [], _ => none
  | x :: l, seen =>
    if x.typ = 0 ∨ 7 < x.typ ∨ x.typ ∈ seen ∨ x.off % 8 ≠ 0 ∨ size < x.off + x.len then some (sectErr x 0)
    else badSect size l (x.typ :: seen)

/-- The sections of an image whose directory is sound. -/
def planSects (a : Array Byte) (l : List SectSrc) (src : PlanSrc) : PlanErr ⊕ PlanSrc :=
  let fin (x : SectSrc) : Nat := x.off + x.len
  match readSect l 1 (fun x => varEntries 16 (fenSize a) (fenRead a) (fin x) x.count 0 x.off),
        readSect l 2 (fixedEntries 72 (lodeRead a)), readSect l 3 (fixedEntries 8 (counterRead a)),
        readSect l 4 (fun x => varEntries 16 (fun o => 16 + 2 * bindTiles a o) (bindRead a) (fin x) x.count 0 x.off),
        readSect l 5 (fixedEntries 16 (fun o => leAt a o 16)), readSect l 6 (fixedEntries 32 (fun o => BitVec.ofNat 256 (leAt a o 32))),
        readSect l 7 (fun x => varEntries 8 (fun o => 16 + 8 * leAt a o 1) (chainRead a) (fin x) x.count 0 x.off) with
  | .inr f, .inr lo, .inr c, .inr b, .inr sc, .inr d, .inr ch =>
    .inr { src with imgs := f, lodes := lo, counters := c, binds := b, scans := sc, decisions := d, chains := ch }
  | .inl e, _, _, _, _, _, _ => .inl e
  | _, .inl e, _, _, _, _, _ => .inl e
  | _, _, .inl e, _, _, _, _ => .inl e
  | _, _, _, .inl e, _, _, _ => .inl e
  | _, _, _, _, .inl e, _, _ => .inl e
  | _, _, _, _, _, .inl e, _ => .inl e
  | _, _, _, _, _, _, .inl e => .inl e

/-- The numbers of the bits set in a 64-bit mask, ascending. -/
def fensOfMask (m : BitVec 64) : List Nat := (List.range 64).filter fun n => m.getLsbD n

/-- An image read under check 1 of Table 13-8: its parts, or what the check reports. -/
def readImage (l : List Byte) (size : Nat) : PlanErr ⊕ PlanSrc :=
  let e : PlanErr := { st := stRefusedConfig, check := 1 }
  if size < 64 ∨ l.length < size then .inl { e with value := l.length }
  else
    let l := l.take size
    let a := l.toArray
    let nsect := leAt a 5 1
    let mask := BitVec.ofNat 64 (leAt a 16 8)
    let fens := fensOfMask mask
    let at_ := (64 + 4 * fens.length + 15) / 16 * 16
    if leAt a 0 4 ≠ 0x4E504C31 ∨ leAt a 4 1 ≠ 1 ∨ leAt a 8 4 ≠ size ∨ leAt a 12 4 ≠ (imageCrc l).toNat ∨ nsect = 0 ∨ 64 < nsect
        ∨ size < at_ + 16 * nsect then .inl e
    else
      let dir := dirOf a at_ nsect
      match badSect size dir [] with
      | some e => .inl e
      | none =>
        if dir.all fun x => decide (x.typ ≠ 1) then .inl e
        else planSects a dir
          { fens := mask, mapGen := BitVec.ofNat 16 (leAt a 6 2), bad := decide (leAt a 24 40 ≠ 0),
            epochs := fens.zipIdx.map fun x => (x.1, leAt a (64 + 4 * x.2) 4), dir := dir.map fun x => (x.typ, x.ix),
            badDir := (dir.filter fun x => decide (x.rest ≠ 0)).map (·.ix),
            imgs := [], lodes := [], counters := [], binds := [], scans := [], decisions := [], chains := [] }

/-- The directory index of a section type. -/
def sectIx (p : PlanSrc) (typ : Nat) : Nat := ((p.dir.find? fun x => decide (x.1 = typ)).map (·.2)).getD 0xFFFF

/-! ## The slots of a bundle (Table 9-2) -/

/-- The array slot's 48 bits. -/
def arrWord (b : Nat) : Nat := bitsAt b 127 80
/-- The vector slot's 40 bits. -/
def vecWord (b : Nat) : Nat := bitsAt b 79 40
/-- The move slot's 24 bits. -/
def movWord (b : Nat) : Nat := bitsAt b 39 16
/-- The control slot's 16 bits. -/
def ctlWord (b : Nat) : Nat := bitsAt b 15 0

/-- A number below a bound as an operand of that range. -/
def finOf (n v : Nat) : Fin (n + 1) := Fin.ofNat (n + 1) v

/-- A weight format of Table 9-6. -/
def wfmtOfCode (k : Nat) : Option WFmt :=
  ([.f4x2, .f4, .f6, .f8e4, .f8e5, .f16b, .f16h, .f32, .cf8e4, .cf8e5] : List WFmt)[k]?

/-- An activation format of Table 9-7. -/
def afmtOfCode (k : Nat) : Option AFmt := ([.f4, .f6, .f8e4, .f8e5, .f16b, .f16h, .f32] : List AFmt)[k]?

/-- The TLOAD of an array slot. -/
def tloadOf (w : Nat) : Option TLoadOp :=
  (wfmtOfCode (bitsAt w 40 37)).map fun f =>
    { amask := BitVec.ofNat 4 (bitsAt w 44 41), wfmt := f, wslot := finOf 511 (bitsAt w 36 28), wrow := finOf 31 (bitsAt w 27 23),
      srow := finOf 31 (bitsAt w 22 18), sc := bitAt w 17 }

/-- The TMUL of an array slot. -/
def tmulOf (w : Nat) : Option TMulOp :=
  (afmtOfCode (bitsAt w 32 30)).map fun f =>
    { amask := BitVec.ofNat 4 (bitsAt w 44 41), axis := bitAt w 40, acc := bitAt w 39, swap := bitAt w 38, qm := bitAt w 37,
      pass := finOf 15 (bitsAt w 36 33), afmt := f, asc := bitAt w 29, mp := finOf 7 (bitsAt w 28 26),
      aslot := finOf 255 (bitsAt w 25 18), v0 := finOf 255 (bitsAt w 17 10), pslot := finOf 127 (bitsAt w 9 3),
      d0 := finOf 3 (bitsAt w 2 1) }

/-- R349 and the reserved bits of Table 9-5. -/
def tloadOk (w : Nat) : Bool :=
  match tloadOf w with
  | none => false
  | some op =>
    decide (w % 2 ^ 17 = 0) && decide (op.sc = tileScaled op) && decide (op.wslot.val < 384)
      && decide (op.wrow.val + tileRows op.wfmt ≤ 32)
      && !(op.sc && decide (op.wrow.val ≤ op.srow.val ∧ op.srow.val < op.wrow.val + tileRows op.wfmt))

/-- The reserved values of Table 9-7 and ASC of R350; the plane's rules are those of the path. -/
def tmulOk (w : Nat) : Bool :=
  match tmulOf w with
  | none => false
  | some op => decide (w % 2 = 0) && !(op.asc && !fmtScaled (afmtFmt op.afmt)) && decide (op.pass.val < 10)

/-- R351 for the state operations, by AOP. -/
def stateOk (aop w : Nat) : Bool :=
  let dax := decide (aop = 4 ∨ aop = 5 ∨ aop = 7)
  let rd := decide (aop = 6 ∨ aop = 7)
  decide (bitsAt w 30 26 ≤ 28) && (dax || !bitAt w 22) && (rd || decide (bitsAt w 20 0 = 0))
    && (if bitAt w 19 then decide (bitsAt w 10 0 = 0) else decide (bitsAt w 9 0 = 0))

/-- The array slot (R348 to R351). -/
def arrOk (w : Nat) : Bool :=
  match bitsAt w 47 45 with
  | 0 => decide (w = 0)
  | 1 => decide (bitsAt w 44 41 ≠ 0) && tloadOk w
  | 2 => decide (bitsAt w 44 41 ≠ 0) && tmulOk w
  | k => decide (bitsAt w 44 41 ≠ 0) && stateOk k w

/-- A conversion descriptor that CVT, SFN and ACT take (R67, R354). -/
def regCvtOk (d : Nat) : Bool :=
  match cvtOfBits d with
  | some c => cvtLegal c && !c.scale && !decide (c.target = .w40)
  | none => false

/-- EXT of RED and PFX (Table 9-10). -/
def redOk (ext : Nat) : Bool :=
  let op := bitsAt ext 1 0
  let ty := bitsAt ext 5 4
  decide (bitsAt ext 3 2 ≠ 3 ∧ ty ≠ 3) && !decide (op = 0 ∧ ty ≠ 1) && !decide (op = 3 ∧ ty ≠ 2)

/-- Whether a format code names a scaled format. -/
def scaledCode (k : Nat) : Bool := match fmtOfCode k with | some f => fmtScaled f | none => false

/-- The vector slot (R352 to R357, Tables 9-9 and 9-10). An NRM uses its format field only with SRC = 2 (log entry 77). -/
def vecOk (w : Nat) : Bool :=
  let vop := bitsAt w 39 34
  let vd := bitsAt w 33 29
  let va := bitsAt w 28 24
  let vb := bitsAt w 23 19
  let ext := bitsAt w 15 0
  let ix := bitsAt ext 9 2
  if vop = 0 then decide (w = 0)
  else if vop ≤ 5 then decide (ext = 0)
  else if 8 ≤ vop ∧ vop ≤ 0xA then decide (ext < 64)
  else if 0x10 ≤ vop ∧ vop ≤ 0x14 then
    decide (ext < 8 ∧ ext % 4 ≠ 3) && (!bitAt ext 2 || decide (vop ≤ 0x11 ∧ ext % 4 = 2))
  else if vop = 0x15 then decide (ext < 3)
  else if vop = 0x18 ∨ vop = 0x19 then decide (ext = 0 ∨ ext = 32)
  else if 0x1A ≤ vop ∧ vop ≤ 0x1E then decide (ext = 0)
  else if vop = 0x1F then decide (ext < 64)
  else if 0x20 ≤ vop ∧ vop ≤ 0x22 then decide (ext = 0)
  else if vop = 0x24 then decide (ext < 32 ∧ ext % 8 < 6 ∧ ext / 8 ≠ 3 ∧ vd < 8)
  else if 0x25 ≤ vop ∧ vop ≤ 0x27 then decide (ext = 0 ∧ vd < 8 ∧ va < 8 ∧ vb < 8)
  else if vop = 0x28 then decide (ext = 0 ∧ vd < 8 ∧ va < 8)
  else if vop = 0x29 then decide (ext < 8)
  else if vop = 0x2A then
    decide (ext < 1024 ∧ ix < (match ext % 4 with | 0 => 256 | 1 => 16 | 2 => 16 | _ => 8))
  else if vop = 0x2B ∨ vop = 0x2C then decide (ext = 0)
  else if vop = 0x30 then decide (ext < 64) && redOk ext
  else if vop = 0x31 then decide (ext < 1024) && redOk ext && decide (ext % 4 ≠ 1)
  else if vop = 0x34 then decide (ext < 0x300) && regCvtOk (bitsAt ext 7 0)
  else if vop = 0x35 then decide (ext < 4096) && (actOfCode (ext % 16)).isSome && regCvtOk (bitsAt ext 11 4)
  else if vop = 0x36 then decide (ext < 256 ∧ vd = 0)
  else if vop = 0x37 then decide (ext < 1024) && regCvtOk ix
  else if vop = 0x38 then decide (ext < 64)
  else if vop = 0x39 then decide (bitsAt ext 3 2 ≠ 3) && !(decide (bitsAt ext 3 2 = 2) && !scaledCode (bitsAt ext 13 10))
  else if vop = 0x3A then decide (ext < 64)
  else false

/-- Whether a buffer code and slot exist. -/
def slotOk (buf slot : Nat) : Bool := match bufOfCode buf with | some b => decide (slot < bufSlots b) | none => false

/-- The move slot (R359 to R361, R365, Table 9-13). -/
def movOk (w : Nat) : Bool :=
  let vecForm : Bool := match fmtOfCode (bitsAt w 6 3) with | some f => vecFmtOk f (bitsAt w 2 0) | none => false
  match bitsAt w 23 20 with
  | 0 => decide (w = 0)
  | 1 => vecForm
  | 2 => vecForm
  | 3 => slotOk (bitsAt w 15 14) (bitsAt w 13 5)
  | 4 => decide (bitsAt w 19 18 ≠ 3 ∧ bitsAt w 4 0 = 0) && slotOk (bitsAt w 17 16) (bitsAt w 15 7)
          && decide (bitsAt w 19 18 = 2 ∨ bitsAt w 6 5 = 0)
  | 5 => decide (bitsAt w 6 0 = 0)
  | 6 => decide (bitsAt w 19 17 ≠ 0 ∧ bitsAt w 10 0 = 0)
  | 7 => true
  | 8 => decide (bitsAt w 1 0 = 0)
  | 9 => decide (bitsAt w 7 0 = 0)
  | 10 => decide (bitsAt w 17 16 = 0)
  | _ => false

/-- The control slot (Table 9-3). -/
def ctlOk (w : Nat) : Bool :=
  match bitsAt w 15 12 with
  | 0 => decide (w = 0)
  | 1 => decide (bitsAt w 11 10 = 0)
  | 2 => true
  | 3 => decide (bitsAt w 11 3 = 0)
  | 4 => true
  | 5 => decide (bitsAt w 11 0 = 0)
  | _ => false

/-- A bundle holds no reserved opcode, value or bit (R329). -/
def bundleOk (b : Nat) : Bool := arrOk (arrWord b) && vecOk (vecWord b) && movOk (movWord b) && ctlOk (ctlWord b)

/-! ## Descriptors -/

/-- A wait descriptor (R338, R341). -/
def waitOk (d : Nat) : Bool :=
  let kind := bitsAt d 2 0
  let ix := bitsAt d 14 6
  decide (bitsAt d 31 18 = 0 ∧ bitsAt d 127 85 = 0)
    && (match kind with
      | 0 => slotOk (bitsAt d 5 4) ix
      | 1 => decide (ix < 256)
      | 2 => decide (ix < 8)
      | 3 => decide (ix < 4)
      | 4 => decide (ix < 4)
      | _ => false)
    && (decide (kind = 0) || decide (bitsAt d 5 3 = 0)) && (decide (kind ≤ 1) || !bitAt d 15)
    && (decide (kind = 1) || decide (bitsAt d 17 16 = 0)) && (!decide (kind = 0 ∨ kind = 2) || decide (bitsAt d 47 32 = 1))

/-- A route (Table 9-14) to a slot that exists and a counter of R388. -/
def routeOk (d : Nat) : Bool :=
  match routeOf (BitVec.ofNat 64 d) with
  | some r => decide (r.row / 32 < bufSlots r.buf) && decide (r.group < 256)
  | none => false

/-- An epilogue descriptor (R67, R245). -/
def epiOk (d : Nat) : Bool := (epiOfBits (BitVec.ofNat 64 d)).isSome

/-- Fields of a scan declaration (Table 5-8a). -/
def scanOk (d : Nat) : Bool :=
  decide (bitsAt d 5 4 ≠ 3 ∧ bitsAt d 63 29 = 0 ∧ bitsAt d 22 17 ≤ bitsAt d 28 23)

/-- Whether thresholds descend nowhere, in a type's order (R279). -/
def ascending (t : ETy) : List Word → Bool
  | a :: b :: l => !cmpElt t .lt b a && ascending t (b :: l)
  | _ => true

/-- A decision declaration (R279). -/
def decOk (d : BitVec 256) : Bool :=
  decide (bitsAt d.toNat 227 226 ≠ 3 ∧ bitsAt d.toNat 255 239 = 0)
    && ascending (decType d) ((List.range (decCount d)).map (decThreshold d))

/-- A binding's fields (Table 13-7, R172). -/
def bindOk (b : BindSrc) : Bool :=
  !b.bad && decide (1 ≤ b.family ∧ b.family ≤ 5 ∧ b.flags < 4 ∧ 1 ≤ b.count ∧ b.count ≤ 512)
    && (b.tiles ++ b.initTiles).all (fun t => decide (t < 2 ^ 15)) && (decide (b.family ≠ 5) || decide (b.less1 = 0))

/-- A tile of a binding as (logical fen, array, depth). -/
def tileOfBits (t : Nat) : Nat × Nat × Nat := (bitsAt t 5 0, bitsAt t 7 6, bitsAt t 14 8)

/-- A chain declaration's own fields (R367). -/
def chainOk (fens : BitVec 64) (c : ChainSrc) : Bool :=
  !c.bad && decide (2 ≤ c.stages.length ∧ c.stages.length ≤ 64)
    && c.stages.all (fun x => !x.bad && decide (x.fen < 64) && fens.getLsbD x.fen
      && decide (x.link < 4 ∧ 1 ≤ x.k ∧ x.k ≤ 16 ∧ x.first + x.k ≤ 256))
    && decide ((c.stages.map (·.fen)).eraseDups.length = c.stages.length)
    && routeOk c.last && decide (bitsAt c.last 1 0 ≠ 1)

end Sys2Proof.Machine
end

