-- ==== Sys2Proof/Machine/PlanWalk.lean ====
section
/-!
DEFINITION. A plan's program followed bundle by bundle under one choice of variants, as LOAD_PLAN counts it (R342 to
R347): the rules of paths (R344, R346, R350), lengths by Tables 3-10, 7-1, 9-12 and 9-15, pushes (R613), rows written,
frames, energy (R570) and the events of R410.
-/

namespace Sys2Proof.Machine

/-- An event of a program that orders work (R410): `dst` of a SEND into the block is its fen, buffer, first row, rows and
counter, `link` the chain link whose credit it takes. -/
inductive PlanEv
  | wait (w : WaitOn)
  | tag (buf : BufId) (slot : Nat) (full : Bool)
  | release (buf : BufId) (slot link : Nat)
  | send (dst : Option (Nat × BufId × Nat × Nat × Nat)) (link : Option Nat)
  | fin
  deriving DecidableEq, Repr

/-- What a walk shows of carries (R204, R217): a CPUSH on an array with its CK, scan, tile and deliveries, the scan `none` where
no CSET of the segment precedes it; a WAIT that passes at a ready count of `n`; a CPULL on an array with its CK. -/
inductive CarryEv
  | push (ck array : Nat) (scan : Option Nat) (tile dels : Nat)
  | wait (array n : Nat)
  | pull (ck array : Nat)
  deriving DecidableEq, Repr

/-- What moves a pointer register (R360, R383): PSET, or a number of rows over whole or scaled slots, by the bundle at `a`. -/
inductive PtrOp
  | set (x : Ptr)
  | move (scaled : Bool) (n a : Nat)
  deriving DecidableEq, Repr

/-- What a walk follows: the fen's entry of the image, the variant that each select slot holds, the scans, those whose
deliveries the ring corrects in this block, the fen's chain links; `clip` walks loops at most three times, and `most`
gives the largest count that reaches each LOOP. -/
structure WalkEnv where
  src : FenSrc
  choice : List Nat
  scans : List ScanDecl
  inner : List Nat
  links : SMap ChainLink
  clip : Bool := false
  most : List (Nat × Nat) := []
  deriving DecidableEq, Repr

/-- A walk's progress. `err` is the address of a bundle that breaks a rule of paths, `over` a walk beyond every budget. -/
structure Walk where
  pc : Nat
  ck : Nat := 0
  fin : Nat := 0
  bus : Nat := 0
  port : Nat := 0
  loops : List LoopFrame := []
  lcs : SMap (Option Nat) := []
  waited : List Nat := []
  posted : List Nat := []
  planes : SMap (Option Nat × Option Nat) := []
  fills : List (Nat × Nat × Nat) := []
  reach : List (Nat × Nat) := []
  ctx : Option (Nat × Nat) := none
  ptrs : SMap (Option Ptr) := []
  routeRow : SMap (Option Nat) := []
  curs : SMap Nat := []
  pushes : SMap Nat := []
  kept : Nat := 0
  cevs : List CarryEv := []
  pops : List (Nat × PtrOp) := []
  writes : SMap (Option Nat) := []
  clash : Option Nat := none
  frames : SMap Nat := []
  chainEnd : Nat := 0
  pj : Nat := 0
  evs : List PlanEv := []
  err : Option Nat := none
  past : Bool := false
  ended : Bool := false
  deriving DecidableEq, Repr

/-- The bundle at an address. -/
def codeAt (e : WalkEnv) (a : Nat) : Nat := e.src.code.getD a 0

/-- A rule of paths is broken at an address. -/
def walkErr (a : Nat) (w : Walk) : Walk := { w with err := some (w.err.getD a) }

/-- An operation completes at a CK (R332). -/
def walkDone (ck : Nat) (w : Walk) : Walk := { w with fin := max w.fin ck }

/-- Energy of an operation (Table 15-5). -/
def walkPj (n : Nat) (w : Walk) : Walk := { w with pj := w.pj + n }

/-! ## Array slot -/

/-- The TLOAD at an address. -/
def tloadAt (e : WalkEnv) (a : Nat) : Option TLoadOp := tloadOf (arrWord (codeAt e a))

/-- TLOAD (R104, R105). -/
def walkTload (a : Nat) (op : TLoadOp) (w : Walk) : Walk :=
  let start := max w.ck w.bus
  let planes := (arraysOf op.amask).foldl (fun m k => mapPut (none, none) m k ((mapGet (none, none) m k).1, some a)) w.planes
  walkPj (14 * loadRows op) (walkDone (start + loadCk op) { w with bus := start + loadCk op, planes := planes })

/-- The rules of R350 for one array, on the TLOAD that filled the plane. -/
def tmulFits (t : TLoadOp) (op : TMulOp) (a : Nat) : Bool :=
  match passKind t.wfmt op.afmt op.pass.val op.qm with
  | none => false
  | some k =>
    let vs := if op.qm then [op.v0.val + 2 * a, op.v0.val + 2 * a + 1] else [op.v0.val + a]
    let per := if (decide (k = .double) && op.axis) || op.qm then 4 else 2
    vs.all (fun v => decide ((vecRows k op v).1 < 32 * op.aslot.val + (if op.asc then 30 else 32)))
      && decide (8 * op.d0.val + per * a + per ≤ 32)

/-- A-buffer rows that a TMUL reads and P-buffer rows that it writes, over its arrays. -/
def tmulRowCount (t : TLoadOp) (op : TMulOp) : Nat :=
  let x : Plane := { fmt := some t.wfmt, sc := tileScaled t }
  let reads := ((arraysOf op.amask).flatMap fun a => tmulReads op a x).eraseDups.length
  let per := if (decide (t.wfmt = .f4x2) && op.axis) || op.qm then 4 else 2
  reads + (if op.acc then 2 else 1) * per * (arraysOf op.amask).length

/-- TMUL (R106, R350). -/
def walkTmul (e : WalkEnv) (a : Nat) (op : TMulOp) (w : Walk) : Walk :=
  let arrays := arraysOf op.amask
  let planes := if op.swap then
      arrays.foldl (fun m k => mapPut (none, none) m k ((mapGet (none, none) m k).2, none)) w.planes
    else w.planes
  let front (k : Nat) : Option Nat := (mapGet (none, none) planes k).1
  let ok := arrays.all fun k => match (front k).bind (tloadAt e) with
    | some t => tmulFits t op k
    | none => false
  let fills := arrays.filterMap fun k => (front k).map fun t => (a, k, t)
  let other := fills.any fun x => w.fills.any fun y => decide (y.1 = x.1 ∧ y.2.1 = x.2.1 ∧ y.2.2 ≠ x.2.2)
  let rows := match (front (arrays.headD 0)).bind (tloadAt e) with
    | some t => tmulRowCount t op
    | none => 0
  let w := { w with planes := planes, fills := w.fills ++ fills.filter fun x => !w.fills.contains x }
  let w := if ok && !other then w else walkErr a w
  walkPj (260 * arrays.length + 14 * rows) (walkDone (w.ck + 8) w)

/-- A state operation (Table 3-10). -/
def walkState (aop word : Nat) (w : Walk) : Walk :=
  let n := (arraysOf (BitVec.ofNat 4 (bitsAt word 44 41))).length
  let late := if bitAt word 21 ∧ aop ≠ 6 then 1 else 0
  let lat := if aop = 6 ∨ aop = 7 then 7 + late else 4 + late
  let rows := if (aop = 6 ∨ aop = 7) ∧ !bitAt word 19 then 2 else 0
  walkPj (n * (260 * (1 + late) + (if bitAt word 21 then 56 else 38) + 14 * rows)) (walkDone (w.ck + lat) w)

/-- The array slot. -/
def walkArr (e : WalkEnv) (a word : Nat) (w : Walk) : Walk :=
  match bitsAt word 47 45 with
  | 0 => w
  | 1 => match tloadOf word with
    | some op => walkTload a op w
    | none => w
  | 2 => match tmulOf word with
    | some op => walkTmul e a op w
    | none => w
  | k => walkState k word w

/-! ## Vector slot -/

/-- CK to the result of an activation, a primitive or an epilogue: base with the unit, and without it (R275, Table 9-12). -/
def unitTime (l : List Prim) (more without : Nat) : Nat :=
  if l = [] then without else 16 * l.length + seqLatency l + more

/-- Rows from which NRM reads 256 elements. -/
def normRowCount (ext : Nat) : Nat :=
  match bitsAt ext 3 2 with
  | 0 => 0
  | 1 => 16
  | _ => let per := ((fmtOfCode (bitsAt ext 13 10)).map fmtPerRow).getD 32; (256 + per - 1) / per

/-- CK to completion and energy of a vector-slot operation other than EPI (Tables 7-1, 7-3, 9-12, 15-5). -/
def vecCost (vop ext : Nat) : Nat × Nat :=
  let prims (k : Nat) : List Prim := ((actOfCode k).map actPrims).getD []
  let prim (k : Nat) : Prim := ([.rcp, .rsqrt, .exp2, .log2] : List Prim).getD k .rcp
  if vop ≤ 0x14 then (2, 110)
  else if vop = 0x15 then (3, 110)
  else if vop ≤ 0x1F then (4, 110)
  else if vop ≤ 0x24 then (2, 110)
  else if vop ≤ 0x28 then (1, 110)
  else if vop ≤ 0x2B then (2, 110)
  else if vop = 0x2C then (3, 110)
  else if vop = 0x30 then (if bitsAt ext 3 2 = 2 then 7 else 5, 110)
  else if vop = 0x31 then (if bitsAt ext 3 2 = 2 then 9 else 5, 110)
  else if vop = 0x34 then (4, 110)
  else if vop = 0x35 then (unitTime (prims (ext % 16)) 2 2, 110 + 480 * (prims (ext % 16)).length)
  else if vop = 0x36 then (8, 110)
  else if vop = 0x37 then (unitTime [prim (ext % 4)] 2 2, 590)
  else if vop = 0x39 then
    let more := if bitsAt ext 3 2 = 0 then 0 else 3
    let rows := 14 * normRowCount ext
    match ext % 4 with
    | 0 => (6 + more, 590 + rows)
    | 1 => (8 + more, 590 + rows)
    | 2 => (if bitAt ext 15 then 40 else 24, 230 + (if bitAt ext 15 then 28 else if bitAt ext 14 then 14 else 0))
    | _ => (8 + more, 590 + rows)
  else if bitAt ext 0 then (if bitAt ext 1 then (70, 710) else (34, 590))
  else if bitAt ext 2 then (20, 230)
  else (52, 710)

/-- A pointer moved on (R360, R383); where it stands is known where the segment set it. -/
def walkPtr (scaled : Bool) (i n : Nat) (w : Walk) : Walk :=
  let w := { w with pops := (i, .move scaled n w.pc) :: w.pops }
  match mapGet none w.ptrs i with
  | none => w
  | some x => { w with ptrs := mapPut none w.ptrs i (some (ptrAt x.buf (rowsFrom scaled x.buf n (ptrRow x)).2)) }

/-- EPI (R355, R383). -/
def walkEpi (e : WalkEnv) (a ext : Nat) (w : Walk) : Walk :=
  match (e.src.epis[ext % 64]?).bind fun d => epiOfBits (BitVec.ofNat 64 d) with
  | none => walkErr a w
  | some d =>
    let rows := (256 + fmtPerRow d.conv.target - 1) / fmtPerRow d.conv.target
    let n := (actPrims d.act).length
    walkPj (110 + 480 * n + 14 * (16 + rows)) (walkDone (w.ck + unitTime (actPrims d.act) 10 12)
      (walkPtr d.conv.scale d.dst rows (walkPtr false d.src 16 w)))

/-- The vector slot. -/
def walkVec (e : WalkEnv) (a word : Nat) (w : Walk) : Walk :=
  let vop := bitsAt word 39 34
  let ext := bitsAt word 15 0
  if vop = 0 then w
  else if vop = 0x38 then walkEpi e a ext w
  else
    let c := vecCost vop ext
    let w := if vop = 0x36 then { w with posted := if w.posted.contains (ext % 64) then w.posted else w.posted ++ [ext % 64] }
      else w
    walkPj c.2 (walkDone (w.ck + c.1) w)

/-! ## Move slot -/

/-- The key of a buffer row of the block. -/
def rowKey (fen : Nat) (b : BufId) (row : Nat) : Nat := (3 * fen + bufCode b) * 12288 + row

/-- Rows that a SEND of counter `g` writes (R409). -/
def walkWrites (fen : Nat) (b : BufId) (row n g : Nat) (w : Walk) : Walk :=
  (List.range n).foldl (fun w k =>
    let key := rowKey fen b (bufWrap b (row + k))
    match mapGet none w.writes key with
    | none => { w with writes := mapPut none w.writes key (some g) }
    | some h => if h = g then w else { w with clash := some (w.clash.getD key) }) w

/-- SEND (R363, R364, R368, R482). -/
def walkSend (e : WalkEnv) (a word : Nat) (w : Walk) : Walk :=
  let n := bitsAt word 15 11 + 1
  let i := bitsAt word 10 7
  let start := max w.ck w.port
  let w := walkPtr false (bitsAt word 19 16) n
    (walkPj (14 * n) (walkDone (start + 4 + n) { w with port := start + n }))
  match (e.src.routes[i]?).bind fun d => routeOf (BitVec.ofNat 64 d) with
  | none => walkErr a w
  | some r0 =>
    let link := mapGet {} e.links r0.link
    let r := if r0.kind = 1 ∧ !link.hasNext then (routeOf link.last).getD r0 else r0
    let row := (mapGet none w.routeRow i).getD r.row
    let w := if r.auto then { w with routeRow := mapPut none w.routeRow i (some (bufWrap r.buf (row + n))) } else w
    match r.kind with
    | 0 => walkPj (14 * n) (walkWrites r.fen r.buf row n r.group { w with evs := .send (some (r.fen, r.buf, row, n, r.group)) none :: w.evs })
    | 1 =>
      let cur := mapGet 0 w.curs r.link
      let row := 32 * (link.nextFirst + cur)
      walkPj (14 * n) (walkWrites link.nextFen .a row n link.nextCounter
        { w with curs := mapPut 0 w.curs r.link (if cur + 1 < link.nextK then cur + 1 else 0)
                 chainEnd := max w.chainEnd (start + 52 + n)
                 evs := .send (some (link.nextFen, .a, row, n, link.nextCounter)) (some r.link) :: w.evs })
    | _ => { w with frames := mapPut 0 w.frames r.cw (mapGet 0 w.frames r.cw + (n + 1) / 2)
                    evs := .send none none :: w.evs }

/-- CPUSH on one array (R223, R613). -/
def walkPush (e : WalkEnv) (a base scan ret : Nat) (w : Walk) (k : Nat) : Walk :=
  let key := 512 * scan + base + k
  let bad : Bool := match e.scans.find? fun d => decide (d.scan = scan) with
    | none => true
    | some d => !d.leaves.getLsbD e.src.fen || decide (d.tiles ≤ base + k)
  let del := ret % 2 + ret / 2
  let more := if e.inner.contains scan then 2 * del else del
  let kept := w.kept + (if e.inner.contains scan then del else 0)
  let n := mapGet 0 w.pushes key + 1
  let w := { w with pushes := mapPut 0 w.pushes key n, kept := kept
                    cevs := .push w.ck k (some scan) (base + k) more :: w.cevs }
  if bad || decide (8 < n ∨ 128 < kept) then walkErr a w else w

/-- CPUSH on one array under a carry context of an earlier tempo: at most BOTH, of a scan that the ring corrects where there is
one (R204, R613). -/
def walkPushOld (e : WalkEnv) (base : Nat) (w : Walk) (k : Nat) : Walk :=
  { w with cevs := .push w.ck k none (base + k) (if e.inner = [] then 2 else 4) :: w.cevs }

/-- The arrays of a CPUSH or CPULL. -/
def movArrays (word : Nat) : List Nat := arraysOf (BitVec.ofNat 4 (bitsAt word 19 16))

/-- The move slot. -/
def walkMov (e : WalkEnv) (a word : Nat) (w : Walk) : Walk :=
  let buf (k : Nat) : BufId := (bufOfCode k).getD .w
  match bitsAt word 23 20 with
  | 1 => walkPj 14 (walkDone (w.ck + 4) (if bitAt word 7 then walkPtr false (bitsAt word 11 8) 1 w else w))
  | 2 => walkPj 14 (walkDone (w.ck + 3) (if bitAt word 7 then walkPtr false (bitsAt word 11 8) 1 w else w))
  | 3 =>
    let x : Ptr := ⟨buf (bitsAt word 15 14), bitsAt word 13 5, bitsAt word 4 0⟩
    walkDone (w.ck + 1) { w with ptrs := mapPut none w.ptrs (bitsAt word 19 16) (some x)
                                 pops := (bitsAt word 19 16, .set x) :: w.pops }
  | 4 =>
    let b := buf (bitsAt word 17 16)
    let slot := bitsAt word 15 7
    if bitsAt word 19 18 = 2 then
      let credit := if (mapGet {} e.links (bitsAt word 6 5)).hasPrev then w.ck + 53 else 0
      walkDone (w.ck + 4) { w with evs := .release b slot (bitsAt word 6 5) :: w.evs, chainEnd := max w.chainEnd credit }
    else walkDone (w.ck + 1) { w with evs := .tag b slot (decide (bitsAt word 19 18 = 0)) :: w.evs }
  | 5 => walkSend e a word w
  | 6 => walkDone (w.ck + 2) w
  | 7 =>
    let w := walkPj (1216 * (movArrays word).length) (walkDone (w.ck + 40) w)
    match w.ctx with
    | none => (movArrays word).foldl (walkPushOld e (bitsAt word 8 0)) w
    | some c => (movArrays word).foldl (walkPush e a (bitsAt word 8 0) c.1 c.2) w
  | 8 => (movArrays word).foldl (fun w k => { w with cevs := .pull w.ck k :: w.cevs })
          (walkPj (1216 * (movArrays word).length) (walkDone (w.ck + 40) w))
  | 9 => walkDone (w.ck + 1) { w with ctx := some (bitsAt word 19 16, bitsAt word 9 8) }
  | 10 => walkDone (w.ck + 1) { w with lcs := mapPut none w.lcs (bitsAt word 19 18) (some (bitsAt word 15 0)) }
  | _ => w

/-! ## Control slot -/

/-- A WAIT passes (R342). -/
def walkWait (e : WalkEnv) (a word : Nat) (w : Walk) : Walk :=
  if bitsAt word 15 12 ≠ 1 then w
  else match e.src.waits[bitsAt word 9 0]? with
    | none => walkErr a w
    | some d =>
      let time := bitsAt d 84 64
      let w := { w with ck := if bitAt d 15 then w.ck + time else max w.ck time }
      match waitOn (BitVec.ofNat 128 d) with
      | some (.select k) => { w with waited := k :: w.waited, evs := .wait (.select k) :: w.evs }
      | some (.carry k n) => { w with cevs := .wait k n :: w.cevs, evs := .wait (.carry k n) :: w.evs }
      | some x => { w with evs := .wait x :: w.evs }
      | none => w

/-- The variant table's entry for a slot and variant (Table 13-7). -/
def variantAt (src : FenSrc) (slot v : Nat) : Nat := src.variants / 2 ^ (12 * (4 * slot + v)) % 4096

/-- The control slot at address `a`. -/
def walkCtl (e : WalkEnv) (a word : Nat) (w : Walk) : Walk :=
  match bitsAt word 15 12 with
  | 2 =>
    match mapGet none w.lcs (bitsAt word 11 10) with
    | none => walkErr a w
    | some n =>
      let most := ((e.most.find? fun x => decide (x.1 = a)).map (·.2)).getD n
      let left := if e.clip then min n 2 else most
      let reach := if w.reach.contains (a, n) then w.reach else (a, n) :: w.reach
      { w with pc := a + 1, loops := ⟨bitsAt word 11 10, a + 1, a + 1 + bitsAt word 9 0, left⟩ :: w.loops, reach := reach }
  | 3 =>
    let k := bitsAt word 2 0
    let w := { w with pc := variantAt e.src k (e.choice.getD k 0) }
    if w.waited.contains k then w else walkErr a w
  | 4 => { w with pc := bitsAt word 11 0 }
  | 5 => { w with ended := true, fin := max w.fin w.ck, evs := .fin :: w.evs }
  | _ =>
    let r := loopNext a w.loops
    let w := { w with pc := r.1, loops := r.2 }
    if a = 4095 ∧ r.1 = 0 then walkErr a w else w

/-! ## The walk -/

/-- A CK beyond the longest segment budget that any PERIOD allows (R300). -/
def walkCap : Nat := 1125000

/-- One bundle. -/
def walkStep (e : WalkEnv) (w : Walk) : Walk :=
  let a := w.pc
  if e.src.code.size ≤ a then walkErr a w
  else
    let b := codeAt e a
    let w := walkWait e a (ctlWord b) w
    let w := walkCtl e a (ctlWord b) w
    let w := walkMov e a (movWord b) (walkVec e a (vecWord b) (walkArr e a (arrWord b) w))
    if !e.clip ∧ walkCap < w.ck then { w with past := true } else { w with ck := w.ck + 1 }

/-- Bundles up to the END, a broken rule or the cap. -/
def walkRun (e : WalkEnv) : Nat → Walk → Walk
  | 0, w => { w with past := !w.ended }
  | n + 1, w => if w.ended ∨ w.past ∨ w.err.isSome then w else walkRun e n (walkStep e w)

/-- A segment from its entry. -/
def walkSeg (e : WalkEnv) : Walk := walkRun e (walkCap + 1) { pc := e.src.entry }

end Sys2Proof.Machine
end

