-- ==== Sys2Proof/Machine/PlanOrder.lean ====
section
/-!
DEFINITION. The dependency order of events (R409, R410, check 9): the events of one tempo under one choice of variants, of the
plan, of the plans already loaded and of the armed lodes, run greedily, each as soon as what it depends on has happened. What no
remaining event can supply comes from outside the block and depends on nothing; events that then remain form a cycle.
-/

namespace Sys2Proof.Machine

/-- A run of the events: what remains of each fen's program, the lodes (DONE once all transfers are made), tags by
(fen, buffer, slot), arrivals by counter and by counter and base, what WAITs have consumed of them, chain credits by (fen,
link), and the fens' chain links. -/
structure OrdRun where
  fens : List (Nat × List PlanEv)
  lodes : List Lode
  tags : SMap Bool := []
  sent : SMap Nat := []
  sentG : SMap Nat := []
  used : SMap Nat := []
  usedG : SMap Nat := []
  credits : SMap Nat := []
  links : List (Nat × SMap ChainLink)
  deriving DecidableEq, Repr

/-- The key of a slot's tag. -/
def tagKey (fen : Nat) (b : BufId) (slot : Nat) : Nat := (3 * fen + bufCode b) * 512 + slot

/-- The key of a counter. -/
def ctrKey (fen g : Nat) : Nat := 256 * fen + g

/-- The slots that `n` rows from `row` touch. -/
def slotsTouched (b : BufId) (row n : Nat) : List Nat := slotsOf ((List.range n).map fun k => bufWrap b (row + k))

/-- A chain link of a fen. -/
def ordLink (r : OrdRun) (fen link : Nat) : ChainLink :=
  mapGet {} (((r.links.find? fun x => decide (x.1 = fen)).map (·.2)).getD []) link

/-- The base that a lode's counter counts now. -/
def ordBase (r : OrdRun) (fen g : Nat) : Nat :=
  ((r.lodes.find? fun x => decide (ldFen x.desc = fen ∧ ldGroup x.desc = g)).map fun x =>
    if x.st = .done then ldNbase x.desc else x.base).getD 0

/-- Whether a WAIT passes (R391). -/
def ordWaits (r : OrdRun) (fen : Nat) : WaitOn → Bool
  | .tag b slot empty => decide (mapGet false r.tags (tagKey fen b slot) = !empty)
  | .counter g n _ none => decide (n + mapGet 0 r.used (ctrKey fen g) ≤ mapGet 0 r.sent (ctrKey fen g))
  | .counter g n _ (some h) =>
    let k := 4 * ctrKey fen g + h.toNat % 4
    decide (0x8000 ≤ h.toNat ∨ h.toNat + 2 ≤ ordBase r fen g)
      || (decide (h.toNat < 4) && decide (n + mapGet 0 r.usedG k ≤ mapGet 0 r.sentG k))
  | .select _ => true
  | .carry _ _ => true
  | .credit link n => decide (n ≤ mapGet 0 r.credits (4 * fen + link))

/-- Whether the next event of a fen has what it depends on. -/
def ordReady (r : OrdRun) (fen : Nat) : PlanEv → Bool
  | .wait w => ordWaits r fen w
  | .send _ (some link) => decide (0 < mapGet 0 r.credits (4 * fen + link))
  | _ => true

/-- A WAIT consumes (R340). -/
def ordConsume (fen : Nat) (r : OrdRun) : WaitOn → OrdRun
  | .counter g n true none => { r with used := mapPut 0 r.used (ctrKey fen g) (mapGet 0 r.used (ctrKey fen g) + n) }
  | .counter g n true (some h) =>
    let k := 4 * ctrKey fen g + h.toNat % 4
    if h.toNat < 4 then { r with usedG := mapPut 0 r.usedG k (mapGet 0 r.usedG k + n) } else r
  | _ => r

/-- An event of a fen happens. -/
def ordDo (fen : Nat) (r : OrdRun) : PlanEv → OrdRun
  | .wait w => ordConsume fen r w
  | .tag b slot full => { r with tags := mapPut false r.tags (tagKey fen b slot) full }
  | .release b slot link =>
    let x := ordLink r fen link
    let r := { r with tags := mapPut false r.tags (tagKey fen b slot) false }
    let k := 4 * x.prevFen + x.prevLink
    if x.hasPrev then { r with credits := mapPut 0 r.credits k (mapGet 0 r.credits k + 1) } else r
  | .send dst link =>
    let r := match link with
      | some l => { r with credits := mapPut 0 r.credits (4 * fen + l) (mapGet 0 r.credits (4 * fen + l) - 1) }
      | none => r
    match dst with
    | none => r
    | some (f, b, row, n, g) =>
      let tags := (slotsTouched b row n).foldl (fun m k => mapPut false m (tagKey f b k) true) r.tags
      { r with tags := tags, sent := mapPut 0 r.sent (ctrKey f g) (mapGet 0 r.sent (ctrKey f g) + 1) }
  | .fin => r

/-- A fen's events as far as they go. -/
def ordFen (fen : Nat) : List PlanEv → OrdRun → List PlanEv × OrdRun
  | [], r => ([], r)
  | x :: l, r => if ordReady r fen x then ordFen fen l (ordDo fen r x) else (x :: l, r)

/-- The slots that a lode's next transfer touches, and those it is the last to move. -/
def lodeSlots (x : Lode) : List Nat × List Nat :=
  let pl := lodePlace x
  (pl.2.1.map (ldSlot x.desc + ·), pl.2.2.2.map (ldSlot x.desc + ·))

/-- The buffer of a lode that R394 accepts. -/
def lodeBuf (x : Lode) : BufId := (ldBuf x.desc).getD .w

/-- The slot, if any, whose tag holds a lode's next transfer back (R397). -/
def lodeHeld (r : OrdRun) (x : Lode) : Option Nat :=
  let full (k : Nat) : Bool := mapGet false r.tags (tagKey (ldFen x.desc) (lodeBuf x) k)
  if ldRead x.desc then (if (lodePlace x).1 then (lodeSlots x).1.find? full else none)
  else (lodeSlots x).1.find? fun k => !full k

/-- A lode's next transfer is made: tags, its counter, and the lode after it (R384, R396, R399). -/
def lodeMove (x : Lode) (r : OrdRun) : Lode × OrdRun :=
  let d := x.desc
  let key := ctrKey (ldFen d) (ldGroup d)
  let turn := ldRead d || ldRelease d
  let tags := if turn then (lodeSlots x).2.foldl (fun m k => mapPut false m (tagKey (ldFen d) (lodeBuf x) k) (ldRead d)) r.tags
    else r.tags
  let r := { r with tags := tags, sent := mapPut 0 r.sent key (mapGet 0 r.sent key + 1)
                    sentG := mapPut 0 r.sentG (4 * key + x.base) (mapGet 0 r.sentG (4 * key + x.base) + 1) }
  let y := afterPlace x
  if x.next < ldCount d then ({ y with next := x.next + 1 }, r)
  else if x.base < ldNbase d then ({ y with next := 0, base := x.base + 1, placed := false }, r)
  else ({ y with st := .done }, r)

/-- A lode's transfers as far as they go. -/
def ordLode : Nat → Lode → OrdRun → Lode × OrdRun
  | 0, x, r => (x, r)
  | n + 1, x, r =>
    if x.st = .done ∨ (lodeHeld r x).isSome then (x, r)
    else let y := lodeMove x r; ordLode n y.1 y.2

/-- Transfers that a lode has yet to make. -/
def lodeLeft (x : Lode) : Nat :=
  if x.st = .done then 0 else (ldNbase x.desc - x.base) * (ldCount x.desc + 1) + (ldCount x.desc + 1 - x.next)

/-- Every fen and every lode once, as far as each goes. -/
def ordRound (r : OrdRun) : OrdRun :=
  let f := r.fens.foldl (fun (a : List (Nat × List PlanEv) × OrdRun) x =>
    let y := ordFen x.1 x.2 a.2; (a.1 ++ [(x.1, y.1)], y.2)) ([], r)
  let l := r.lodes.foldl (fun (a : List Lode × OrdRun) x =>
    let y := ordLode (lodeLeft x) x a.2; (a.1 ++ [y.1], y.2)) ([], { f.2 with fens := f.1 })
  { l.2 with lodes := l.1 }

/-- Events and transfers that remain. -/
def ordLeft (r : OrdRun) : Nat := (r.fens.map fun x => x.2.length).sum + (r.lodes.map lodeLeft).sum

/-! ## What a blocked party waits for -/

/-- Whether an event of fen `f` sets a tag to a value. -/
def evSetsTag (f fen : Nat) (b : BufId) (slot : Nat) (full : Bool) : PlanEv → Bool
  | .tag c k v => decide (f = fen ∧ c = b ∧ k = slot ∧ v = full)
  | .release c k _ => decide (f = fen ∧ c = b ∧ k = slot) && !full
  | .send (some (g, c, row, n, _)) _ => full && decide (g = fen ∧ c = b) && (slotsTouched b row n).contains slot
  | _ => false

/-- Whether a lode with transfers left sets a tag to a value. -/
def lodeSetsTag (fen : Nat) (b : BufId) (slot : Nat) (full : Bool) (x : Lode) : Bool :=
  decide (x.st ≠ .done) && decide (ldFen x.desc = fen ∧ lodeBuf x = b ∧ ldSlot x.desc ≤ slot ∧ slot < ldSlot x.desc + ldSlots x.desc)
    && (if full then ldRead x.desc else ldRelease x.desc)

/-- Whether some remaining event or transfer sets a tag to a value. -/
def ordSetsTag (r : OrdRun) (fen : Nat) (b : BufId) (slot : Nat) (full : Bool) : Bool :=
  (r.fens.any fun x => x.2.any (evSetsTag x.1 fen b slot full)) || r.lodes.any (lodeSetsTag fen b slot full)

/-- Whether some remaining event releases a credit of a fen's link. -/
def ordCredits (r : OrdRun) (fen link : Nat) : Bool :=
  r.fens.any fun x => x.2.any fun
    | .release _ _ l => let y := ordLink r x.1 l; y.hasPrev && decide (y.prevFen = fen ∧ y.prevLink = link)
    | _ => false

/-- Whether some remaining event or transfer counts at a counter. -/
def ordCounts (r : OrdRun) (fen g : Nat) : Bool :=
  (r.fens.any fun x => x.2.any fun
    | .send (some (f, _, _, _, h)) _ => decide (f = fen ∧ h = g)
    | _ => false)
  || r.lodes.any fun x => decide (x.st ≠ .done) && decide (ldFen x.desc = fen ∧ ldGroup x.desc = g)

/-- Whether some remaining event can supply what a fen's next event waits for. -/
def ordSupplied (r : OrdRun) (fen : Nat) : PlanEv → Bool
  | .wait (.tag b slot empty) => ordSetsTag r fen b slot (!empty)
  | .wait (.counter g _ _ _) => ordCounts r fen g
  | .wait (.credit link _) => ordCredits r fen link
  | .send _ (some link) => ordCredits r fen link
  | _ => false

/-- The first blocked fen whose next event nothing in the graph supplies goes past it; `none` where there is no such fen. -/
def forceFen (r : OrdRun) : List (Nat × List PlanEv) → Option (List (Nat × List PlanEv) × Option (Nat × PlanEv))
  | [] => none
  | (f, []) :: l => (forceFen r l).map fun x => ((f, []) :: x.1, x.2)
  | (f, e :: es) :: l =>
    if ordSupplied r f e then (forceFen r l).map fun x => ((f, e :: es) :: x.1, x.2) else some ((f, es) :: l, some (f, e))

/-- The same for the lodes: the first held one whose slot nothing in the graph turns. -/
def forceLode (r : OrdRun) : List Lode → Option (List Lode × OrdRun)
  | [] => none
  | x :: l =>
    match (if x.st = .done then none else lodeHeld r x) with
    | some k =>
      if ordSetsTag r (ldFen x.desc) (lodeBuf x) k (!ldRead x.desc) then (forceLode r l).map fun y => (x :: y.1, y.2)
      else let y := lodeMove x r; some (y.1 :: l, y.2)
    | none => (forceLode r l).map fun y => (x :: y.1, y.2)

/-- One party goes past what comes from outside the graph. -/
def ordForce (r : OrdRun) : Option OrdRun :=
  match forceFen r r.fens with
  | some (l, some (f, .send dst _)) => some (ordDo f { r with fens := l } (.send dst none))
  | some (l, _) => some { r with fens := l }
  | none => (forceLode r r.lodes).map fun x => { x.2 with lodes := x.1 }

/-- Whether every event comes into the order. -/
def ordRuns : Nat → OrdRun → Bool
  | 0, r => decide (ordLeft r = 0)
  | n + 1, r =>
    let t := ordRound r
    if ordLeft t = 0 then true
    else if ordLeft t < ordLeft r then ordRuns n t
    else match ordForce t with
      | none => false
      | some t => ordRuns n t

/-- Whether the event graph has no cycle. -/
def ordAcyclic (r : OrdRun) : Bool := ordRuns (ordLeft r + 1) r

end Sys2Proof.Machine
end

