-- ==== Sys2Proof/Machine/PlanRules.lean ====
section
/-!
DEFINITION. Checks 2 to 5 of LOAD_PLAN (Table 13-8): the plan's fens, and what every chapter refuses with REFUSED_CONFIG
in an image (R27, R164, R178, R186, R204, R223, R279, R307, R329, R341, R344, R346, R350, R367, R383, R388, R394, R473).
-/

namespace Sys2Proof.Machine

/-! ## Checks 2 to 4 -/

/-- Check 2 (R20). -/
def checkMapGen (s : State) (p : PlanSrc) : Option PlanErr :=
  if p.mapGen = s.mapGen then none else some { st := stRefusedConfig, check := 2, value := p.mapGen.toNat }

/-- Check 3 of a fen (R328, R541, R542). -/
def checkFen (s : State) (p : PlanSrc) (n : Nat) : Option PlanErr :=
  if (plansOf s).any fun x => x.2.fens.getLsbD n then some { st := stRefusedConfig, check := 3, fen := n }
  else match pfenOf s n with
    | none => some { st := stStaleFen, check := 3, fen := n }
    | some ph =>
      let f := (fenOf s ph).life
      if f.stale then some { st := stStaleFen, check := 3, fen := n }
      else if p.epochs.contains (n, f.epoch.toNat) then none
      else some { st := stEpochMismatch, check := 3, fen := n, value := f.epoch.toNat }

/-- Check 4 of a fen. -/
def checkPower (s : State) (n : Nat) : Option PlanErr :=
  match pfenOf s n with
  | some ph => if fenIsOn (fenOf s ph) then none else some { st := stRefusedPower, check := 4, fen := n }
  | none => none

/-! ## Check 5: the forms of the image -/

/-- A refusal of check 5 in a section. -/
def ruleErr (p : PlanSrc) (typ entry : Nat) : PlanErr :=
  { st := stRefusedConfig, check := 5, sect := sectIx p typ, entry := entry }

/-- The first entry of a list that a rule refuses. -/
def firstBad {β : Type} (ok : Nat → β → Bool) (err : Nat → β → PlanErr) (l : List β) : Option PlanErr :=
  (l.zipIdx.find? fun x => !ok x.2 x.1).map fun x => err x.2 x.1

/-- Whether the entry at an index is the first with its key. -/
def firstKey {β : Type} (key : β → Nat) (l : List β) (i : Nat) (x : β) : Bool :=
  (l.take i).all fun y => decide (key y ≠ key x)

/-- The bundles of a program with their addresses. -/
def codeList (x : FenSrc) : List (Nat × Nat) := x.code.toList.zipIdx

/-- A FEN_IMAGE entry apart from its bundles (R328, Table 9-1). -/
def imgOk (p : PlanSrc) (i : Nat) (x : FenSrc) : Bool :=
  !x.bad && decide (x.fen < 64) && p.fens.getLsbD x.fen && firstKey (·.fen) p.imgs i x
    && decide (x.code.size ≤ 4096 ∧ x.waits.length ≤ 1024 ∧ x.routes.length ≤ 16 ∧ x.epis.length ≤ 64 ∧ x.entry ≤ 0xFFF)
    && x.waits.all waitOk && x.routes.all routeOk && x.epis.all epiOk

/-- The address of a bundle that a rule refuses, in a refusal of the fen's image. -/
def codeErr (p : PlanSrc) (i : Nat) (x : FenSrc) (variant addr : Nat) : PlanErr :=
  { ruleErr p 1 i with fen := x.fen, variant := variant, value := addr }

/-- The first bundle, by image and address, that a rule refuses. -/
def firstBundle (p : PlanSrc) (ok : FenSrc → Nat → Nat → Bool) : Option PlanErr :=
  p.imgs.zipIdx.findSome? fun x =>
    ((codeList x.1).find? fun b => !ok x.1 b.2 b.1).map fun b => codeErr p x.2 x.1 0 b.2

/-- A scan declaration in the form that the engine keeps. -/
def scanOfBits (d : Nat) (expect : List (Nat × Nat × Nat)) : ScanDecl :=
  { scan := bitsAt d 3 0, dir := bitAt d 6, ring := bitAt d 7, tiles := bitsAt d 16 8 + 1, ringFirst := bitsAt d 22 17,
    ringLast := bitsAt d 28 23, leaves := BitVec.ofNat 64 (bitsAt d 127 64), expect := expect }

/-- The scans of a plan. -/
def scansOf (p : PlanSrc) : List ScanDecl := p.scans.map fun d => scanOfBits d []

/-- Tiles of ring scans (Table 5-7). -/
def ringTiles (l : List ScanDecl) : Nat := ((l.filter (·.ring)).map (·.tiles)).sum

/-- Fields and sizes of every section (R504, Table 13-7). -/
def checkForms (s : State) (p : PlanSrc) : Option PlanErr :=
  (if p.bad then some { st := stRefusedConfig, check := 5 } else none)
  <|> (p.badDir.head?.map fun i => { st := stRefusedConfig, check := 5, sect := i })
  <|> firstBad (imgOk p) (fun i x => codeErr p i x 0 0) p.imgs
  <|> firstBundle p (fun _ _ b => bundleOk b)
  <|> (((fensOfMask p.fens).find? fun n => !(p.imgs.any fun x => decide (x.fen = n))).map fun n => { ruleErr p 1 0 with fen := n })
  <|> firstBad (fun i x => !x.bad && decide (x.ix < 1024) && firstKey (·.ix) p.lodes i x && ldOk x.desc)
        (fun i x => { ruleErr p 2 i with fen := ldFen x.desc }) p.lodes
  <|> firstBad (fun i x => !x.bad && decide (x.feed = 1 ∨ x.feed = 2) && decide (x.fen < 64)
          && firstKey (fun y => ctrKey y.fen y.counter) p.counters i x)
        (fun i x => { ruleErr p 3 i with fen := x.fen }) p.counters
  <|> firstBad (fun i x => bindOk x && firstKey (·.index) p.binds i x) (fun i _ => ruleErr p 4 i) p.binds
  <|> firstBad (fun i x => scanOk x && decide (i < 16) && firstKey (bitsAt · 3 0) p.scans i x) (fun i _ => ruleErr p 5 i) p.scans
  <|> (if 256 < ringTiles (scansOf p ++ (plansOf s).flatMap (·.2.scans)) then some (ruleErr p 5 0) else none)
  <|> firstBad (fun i x => decOk x && firstKey decNumber p.decisions i x) (fun i _ => ruleErr p 6 i) p.decisions
  <|> firstBad (fun _ x => chainOk p.fens x) (fun i _ => ruleErr p 7 i) p.chains

/-! ## Check 5: decisions and variants (R279) -/

/-- The variant counts of decisions. -/
def variantCounts (ds : List (BitVec 256)) : List Nat := ds.map fun d => decCount d + 1

/-- Variant assignments of a plan with these decisions. -/
def assignments (ds : List (BitVec 256)) : Nat := (variantCounts ds).foldl (· * ·) 1

/-- The variants of the decisions under an assignment, the first decision counting fastest. -/
def variantsOf : List Nat → Nat → List Nat
  | [], _ => []
  | c :: l, i => i % c :: variantsOf l (i / c)

/-- What the select slots of a fen hold under an assignment. -/
def choiceFor (ds : List (BitVec 256)) (fen idx : Nat) : List Nat :=
  let v := ds.zip (variantsOf (variantCounts ds) idx)
  (List.range 8).map fun k => ((v.find? fun x => (decTargets x.1).getLsbD fen && decide (decSlot x.1 = k)).map (·.2)).getD 0

/-- The choices that reach a fen, each with the least assignment that makes it. -/
def choicesFor (ds : List (BitVec 256)) (fen : Nat) : List (Nat × List Nat) :=
  (List.range (assignments ds)).foldl (fun l i =>
    let c := choiceFor ds fen i
    if l.any fun x => decide (x.2 = c) then l else l ++ [(i, c)]) []

/-- Whether every variant that a decision can select at its targets is a bundle of their programs. -/
def targetsOk (p : PlanSrc) (d : BitVec 256) : Bool :=
  p.imgs.all fun x => !(decTargets d).getLsbD x.fen
    || (List.range (decCount d + 1)).all fun v => decide (variantAt x (decSlot d) v < x.code.size)

/-- The static rules of decisions (R279) and the product of the variant counts (Table 13-8). -/
def checkDecisions (p : PlanSrc) : Option PlanErr :=
  firstBad (fun i d => decide ((decSources d ||| decTargets d) &&& ~~~p.fens = 0)
      && (p.decisions.take i).all fun e => decide (decSlot e ≠ decSlot d ∨ decTargets e &&& decTargets d = 0))
    (fun i _ => ruleErr p 6 i) p.decisions
  <|> firstBad (fun _ d => targetsOk p d) (fun i _ => ruleErr p 6 i) p.decisions
  <|> (if 4096 < assignments p.decisions then some { ruleErr p 6 0 with value := assignments p.decisions } else none)

/-! ## Check 5: chains (R367) -/

/-- The links that a chain sets: each stage with what follows and what precedes it. -/
def chainLinks (c : ChainSrc) : List (Nat × Nat × ChainLink) :=
  c.stages.zipIdx.map fun x =>
    let n := c.stages[x.2 + 1]?
    let pr := if x.2 = 0 then none else c.stages[x.2 - 1]?
    (x.1.fen, x.1.link,
      { set := true, nextFen := (n.map (·.fen)).getD 0, nextFirst := (n.map (·.first)).getD 0, nextK := (n.map (·.k)).getD 0,
        nextCounter := (n.map (·.counter)).getD 0, hasNext := n.isSome, prevFen := (pr.map (·.fen)).getD 0,
        prevLink := (pr.map (·.link)).getD 0, hasPrev := pr.isSome, last := BitVec.ofNat 64 (if n.isSome then 0 else c.last) })

/-- Every link that the plan's chains set. -/
def allLinks (p : PlanSrc) : List (Nat × Nat × ChainLink) := p.chains.flatMap chainLinks

/-- The links of a fen. -/
def linksOf (p : PlanSrc) (fen : Nat) : SMap ChainLink :=
  (allLinks p).foldl (fun m x => if x.1 = fen then mapPut {} m x.2.1 x.2.2 else m) []

/-- The routes of an image. -/
def srcRoutes (x : FenSrc) : List Route := x.routes.filterMap fun d => routeOf (BitVec.ofNat 64 d)

/-- The last stages' routes. -/
def lastRoutes (p : PlanSrc) : List Route := p.chains.filterMap fun c => routeOf (BitVec.ofNat 64 c.last)

/-- The routes of a plan other than those to a next stage. -/
def ownRoutes (p : PlanSrc) : List Route :=
  (p.imgs.flatMap srcRoutes).filter (fun r => decide (r.kind ≠ 1)) ++ lastRoutes p

/-- Whether a stage's input group meets A-buffer slots of its fen. -/
def groupMeets (x : StageSrc) (fen : Nat) (b : BufId) (first n : Nat) : Bool :=
  decide (fen = x.fen ∧ b = .a ∧ first < x.first + x.k ∧ x.first < first + n)

/-- Whether the input group of stage `j` of chain `i` overlaps what a lode, a route or another stage writes. -/
def groupTaken (p : PlanSrc) (i j : Nat) (x : StageSrc) : Bool :=
  (p.lodes.any fun l => ldRead l.desc && groupMeets x (ldFen l.desc) ((ldBuf l.desc).getD .w) (ldSlot l.desc) (ldSlots l.desc))
  || ((ownRoutes p).any fun r => decide (r.kind = 0) && groupMeets x r.fen r.buf (r.row / 32) 1)
  || (p.chains.zipIdx.any fun c => (c.1.stages.zipIdx.any fun y =>
      !decide (c.2 = i ∧ y.2 = j) && decide (0 < y.2) && groupMeets x y.1.fen .a y.1.first y.1.k))

/-- The rules of R367 that need no walk. -/
def checkChains (p : PlanSrc) : Option PlanErr :=
  let keys := (allLinks p).map fun x => 4 * x.1 + x.2.1
  (if keys.eraseDups.length < keys.length then some (ruleErr p 7 0) else none)
  <|> firstBad (fun _ x => (srcRoutes x).all fun r => decide (r.kind ≠ 1) || keys.contains (4 * x.fen + r.link))
        (fun i x => codeErr p i x 0 0) p.imgs
  <|> (p.chains.zipIdx.findSome? fun c =>
        (c.1.stages.zipIdx.find? fun x => groupTaken p c.2 x.2 x.1).map fun x => { ruleErr p 7 c.2 with fen := x.1.fen })

/-! ## Check 5: feeds, lodes, bindings, causeways -/

/-- The descriptors of lodes in use that the plan does not replace. -/
def otherLodes (s : State) (p : PlanSrc) : List Lode :=
  ((lodesUsed s).filter fun x => !(p.lodes.any fun l => decide (l.ix = x.1))).map (·.2)

/-- The counters that lodes feed: those of the plan, then those in use. -/
def lodeKeys (s : State) (p : PlanSrc) : List Nat :=
  (p.lodes.map (·.desc) ++ (otherLodes s p).map (·.desc)).map fun d => ctrKey (ldFen d) (ldGroup d)

/-- The counters that the plan declares fed in a way. -/
def declared (p : PlanSrc) (feed : Nat) : List Nat :=
  (p.counters.filter fun c => decide (c.feed = feed)).map fun c => ctrKey c.fen c.counter

/-- The counters that routes and links of loaded plans name. -/
def loadedSends (s : State) : List Nat :=
  (s.fens.flatMap fun f =>
    ((routesOf f.2 ++ f.2.img.links.filterMap (fun l => routeOf l.2.last)).filterMap fun r =>
      if r.kind = 0 then some (ctrKey r.fen r.group) else none)
    ++ f.2.img.links.filterMap fun l => if l.2.hasNext then some (ctrKey l.2.nextFen l.2.nextCounter) else none)
  ++ (plansOf s).flatMap fun x => x.2.msgCounters.map fun c => ctrKey c.1 c.2

/-- The send-fed counters (R388). -/
def sendKeys (s : State) (p : PlanSrc) : List Nat :=
  ((ownRoutes p).filterMap fun r => if r.kind = 0 then some (ctrKey r.fen r.group) else none)
  ++ (p.chains.flatMap fun c => (c.stages.drop 1).map fun x => ctrKey x.fen x.counter)
  ++ declared p 2 ++ loadedSends s

/-- The wait descriptors that a program's WAITs name. -/
def waitsNamed (x : FenSrc) : List Nat :=
  (x.code.toList.filterMap fun b =>
    if bitsAt (ctlWord b) 15 12 = 1 then x.waits[bitsAt (ctlWord b) 9 0]? else none).eraseDups

/-- The tier lodes that count as tier C, and the fabric lodes, of the plan and of those in use (R307, R431). -/
def slowLodes (s : State) (p : PlanSrc) : List (BitVec 512) :=
  (p.lodes.filterMap fun l =>
    let c : Bool := match resolveLode (dropRefs l.ix s) l.desc with
      | .inr t => t.contains .bAsC
      | .inl _ => false
    if ldFabric l.desc || c then some l.desc else none)
  ++ (otherLodes s p).filterMap fun x => if ldFabric x.desc || x.tiers.contains .bAsC then some x.desc else none

/-- Whether a lode feeds what a WAIT of a fen tests: a counter, a tag it fills, or one its release empties. -/
def lodeFeeds (fen : Nat) (d : BitVec 512) : WaitOn → Bool
  | .counter g _ _ _ => decide (ldFen d = fen ∧ ldGroup d = g)
  | .tag b slot empty =>
    decide (ldFen d = fen ∧ ldBuf d = some b ∧ ldSlot d ≤ slot ∧ slot < ldSlot d + ldSlots d)
      && (if empty then ldRelease d else ldRead d)
  | _ => false

/-- The rules of WAITs on counters and slow lodes (R307, R388). -/
def waitRule (s : State) (p : PlanSrc) (x : FenSrc) (d : Nat) : Bool :=
  match waitOn (BitVec.ofNat 128 d) with
  | none => true
  | some w =>
    (match w with
      | .counter g _ _ (some _) => !(sendKeys s p).contains (ctrKey x.fen g)
      | _ => true)
    && (bitAt d 15 || !(slowLodes s p).any fun l => lodeFeeds x.fen l w)

/-- R388 and R307. -/
def checkFeeds (s : State) (p : PlanSrc) : Option PlanErr :=
  let lodes := lodeKeys s p
  let sends := sendKeys s p
  firstBad (fun i x => !((lodes.take i) ++ (lodes.drop p.lodes.length)).contains (ctrKey (ldFen x.desc) (ldGroup x.desc)))
    (fun i x => { ruleErr p 2 i with fen := ldFen x.desc, value := ldGroup x.desc }) p.lodes
  <|> firstBad (fun _ x => !sends.contains (ctrKey (ldFen x.desc) (ldGroup x.desc)))
        (fun i x => { ruleErr p 2 i with fen := ldFen x.desc, value := ldGroup x.desc }) p.lodes
  <|> firstBad (fun _ c => decide (c.feed ≠ 1) || !sends.contains (ctrKey c.fen c.counter))
        (fun i c => { ruleErr p 3 i with fen := c.fen, value := c.counter }) p.counters
  <|> (if sends.any fun k => ((otherLodes s p).any fun x => decide (ctrKey (ldFen x.desc) (ldGroup x.desc) = k))
        then some (ruleErr p 3 0) else none)
  <|> firstBad (fun _ x => (waitsNamed x).all (waitRule s p x)) (fun i x => codeErr p i x 0 0) p.imgs

/-- The tiles of a raw binding. -/
def bindTriples (b : BindSrc) : List (Nat × Nat × Nat) := b.tiles.map tileOfBits
/-- Its initial-state tiles. -/
def bindInits (b : BindSrc) : List (Nat × Nat × Nat) := b.initTiles.map tileOfBits

/-- R164: a stream that is not CLOSED and whose binding has this index names these tiles and this mode. A context that RESTORE
brought while no plan held its binding names no tiles yet (log entry 118). -/
def bindFits (s : State) (b : BindSrc) : Bool :=
  s.streams.all fun x => decide (x.2.st = .closed) || decide (x.2.binding.toNat ≠ b.index)
    || ((x.2.tiles.isEmpty || decide (x.2.tiles = bindTriples b)) && decide (x.2.comp = bitAt b.flags 0))

/-- The record of a raw binding. -/
def bindOf (b : BindSrc) : Binding := ⟨b.index, bitAt b.flags 0, b.less1 + 1, bindTriples b, bindInits b, b.family⟩

/-- Whether an operation of a fen on arrays and a depth names a tile of a list. -/
def namesTile (fen mask depth : Nat) (l : List (Nat × Nat × Nat)) : Bool :=
  (arraysOf (BitVec.ofNat 4 mask)).any fun k => l.contains (fen, k, depth)

/-- R178: a state operation carries the compensation mode of the bindings whose tiles it works on. -/
def compRule (l : List Binding) (fen b : Nat) : Bool :=
  let w := arrWord b
  decide (bitsAt w 47 45 < 3)
    || l.all fun y => !namesTile fen (bitsAt w 44 41) (bitsAt w 37 31) (y.tiles ++ y.initTiles) || decide (bitAt w 21 = y.comp)

/-- R186: no CPUSH of a family-5 binding's tile, nor of a family-3 binding's tile that another binding names too: each binding
holds one stream, whose columns are all at its one position, and two bindings stand at positions of their own (R170, log
entry 87). -/
def scanRule (l : List Binding) (fen b : Nat) : Bool :=
  let w := movWord b
  let named (y : Binding) : Bool := namesTile fen (bitsAt w 19 16) (bitsAt w 15 9) y.tiles
  decide (bitsAt w 23 20 ≠ 7)
    || l.all fun y => !named y || (decide (y.family ≠ 5) && (decide (y.family ≠ 3) || decide ((l.filter named).length < 2)))

/-- The bindings of loaded plans. -/
def loadedBinds (s : State) : List Binding := (plansOf s).flatMap (·.2.bindings)

/-- Whether the programs of loaded plans keep R178 and R186 beside a set of bindings. -/
def loadedFit (s : State) (l : List Binding) : Bool :=
  s.fens.all fun f => match f.2.img.plan, logicalOf s f.1 with
    | some _, some n => f.2.img.imem.all fun b => compRule l n b.2.toNat && scanRule l n b.2.toNat
    | _, _ => true

/-- The rules of bindings, beside those of loaded plans (R505). -/
def checkBinds (s : State) (p : PlanSrc) : Option PlanErr :=
  let l := loadedBinds s ++ p.binds.map bindOf
  firstBad (fun _ b => bindFits s b) (fun i _ => ruleErr p 4 i) p.binds
  <|> firstBundle p (fun x _ b => compRule l x.fen b && scanRule l x.fen b)
  <|> (if loadedFit s l then none else some (ruleErr p 4 0))

/-- R473: a REMOTE route goes to the partner on a link that is UP. -/
def remoteOk (s : State) (r : Route) : Bool :=
  decide (r.kind ≠ 2)
    || (decide ((cwOf s r.cw).role.toNat ≤ 2) && decide (r.block = partnerPos s r.cw) && decide ((cwOf s r.cw).st = .up))

/-- The causeway on which a ring scan's carries leave (R213, R219). -/
def ringOut (d : ScanDecl) : Nat := if d.dir then 0 else 1
/-- The causeway on which they arrive. -/
def ringIn (d : ScanDecl) : Nat := if d.dir then 1 else 0

/-- Whether this block hands a scan's carries on. -/
def ringSends (s : State) (d : ScanDecl) : Bool := d.ring && !(ringEnds s d).2

/-- The rules of causeways. -/
def checkRemote (s : State) (p : PlanSrc) : Option PlanErr :=
  firstBad (fun _ x => (srcRoutes x).all (remoteOk s)) (fun i x => codeErr p i x 0 0) p.imgs
  <|> firstBad (fun _ c => ((routeOf (BitVec.ofNat 64 c.last)).map (remoteOk s)).getD true) (fun i _ => ruleErr p 7 i) p.chains
  <|> firstBad (fun _ d => !ringSends s d || decide ((cwOf s (ringOut d)).st = .up)) (fun i _ => ruleErr p 5 i) (scansOf p)

/-- R27. -/
def checkShared (s : State) (p : PlanSrc) : Option PlanErr :=
  firstBad (fun _ x => cacheOn s || !ldShared x.desc) (fun i x => { ruleErr p 2 i with fen := ldFen x.desc }) p.lodes

/-! ## Check 5: programs (R344, R346) -/

/-- The loops of a program as (first address of the body, last, level). -/
def loopsOf (x : FenSrc) : List (Nat × Nat × Nat) :=
  (codeList x).filterMap fun b =>
    let c := ctlWord b.1
    if bitsAt c 15 12 = 2 then some (b.2 + 1, b.2 + 1 + bitsAt c 9 0, bitsAt c 11 10) else none

/-- The rules of one bundle: loops, branches, jumps, and the slots that branches name. -/
def progRule (p : PlanSrc) (x : FenSrc) (a b : Nat) : Bool :=
  let c := ctlWord b
  let m := movWord b
  let inside := (loopsOf x).filter fun l => decide (l.1 ≤ a ∧ a ≤ l.2.1)
  let last := a + 1 + bitsAt c 9 0
  let lcset : Bool := decide (bitsAt m 23 20 = 10) && inside.any fun l => decide (l.2.2 = bitsAt m 19 18)
  !lcset && match bitsAt c 15 12 with
    | 2 => decide (last ≤ 4095) && inside.all fun l => decide (last ≤ l.2.1 ∧ l.2.2 ≠ bitsAt c 11 10)
    | 3 => inside.isEmpty && p.decisions.any fun d => (decTargets d).getLsbD x.fen && decide (decSlot d = bitsAt c 2 0)
    | 4 => inside.isEmpty && decide (a < bitsAt c 11 0)
    | 5 => inside.isEmpty
    | _ => true

/-- Check 5 as far as it needs no walk. -/
def checkStatic (s : State) (p : PlanSrc) : Option PlanErr :=
  checkForms s p <|> checkDecisions p <|> checkChains p <|> checkFeeds s p <|> checkBinds s p <|> checkRemote s p
    <|> checkShared s p <|> firstBundle p (progRule p)

/-! ## Check 5: paths -/

/-- A fen's walks under one choice: with loops clipped, with the counts that reach each loop, and with the largest. -/
structure PlanRun where
  idx : Nat
  choice : List Nat
  clip : Walk
  act : Walk
  most : Walk
  deriving DecidableEq, Repr

/-- A fen's image with its chain links and its walks. -/
structure Study where
  entry : Nat
  src : FenSrc
  links : SMap ChainLink
  runs : List PlanRun
  deriving DecidableEq, Repr

/-- The scans whose deliveries the ring corrects in this block (R215). -/
def ringInner (s : State) (l : List ScanDecl) : List Nat := (l.filter fun d => d.ring && !(ringEnds s d).1).map (·.scan)

/-- The largest count that reaches each LOOP. -/
def mostOf (l : List (Nat × Nat)) : List (Nat × Nat) :=
  ((l.map (·.1)).eraseDups).map fun a => (a, ((l.filter fun x => decide (x.1 = a)).map (·.2)).foldl max 0)

/-- The walks of a fen of a plan with these decisions and scans. -/
def studyFen (s : State) (ds : List (BitVec 256)) (scans : List ScanDecl) (links : SMap ChainLink) (entry : Nat) (x : FenSrc) :
    Study :=
  let e (c : List Nat) : WalkEnv := { src := x, choice := c, scans := scans, inner := ringInner s scans, links := links }
  let clips := (choicesFor ds x.fen).map fun c => (c, walkSeg { e c.2 with clip := true })
  let most := mostOf (clips.flatMap (·.2.reach))
  { entry := entry, src := x, links := links,
    runs := clips.map fun c =>
      { idx := c.1.1, choice := c.1.2, clip := c.2, act := walkSeg (e c.1.2), most := walkSeg { e c.1.2 with most := most } } }

/-- The walks of every fen. -/
def studies (s : State) (p : PlanSrc) : List Study :=
  p.imgs.zipIdx.map fun x => studyFen s p.decisions (scansOf p) (linksOf p x.1.fen) x.2 x.1

/-- The values of a map from 0 to its last key. -/
def mapToList {β : Type} (d : β) (m : SMap β) : List β := (List.range ((m.map (·.1 + 1)).foldl max 0)).map (mapGet d m)

/-- The image that a fen holds, as its plan gave it. -/
def loadedSrc (n : Nat) (f : Fen) : FenSrc :=
  let x := f.img
  { fen := n, bad := false, entry := x.entry.toNat, window := x.win.toNat,
    code := ((mapToList 0 x.imem).map (·.toNat)).toArray,
    variants := ((List.range 32).map fun i => (mapGet 0 x.variants i).toNat * 2 ^ (12 * i)).sum,
    waits := (mapToList 0 x.waits).map (·.toNat), routes := (mapToList 0 x.routes).map (·.toNat),
    epis := (mapToList 0 x.epis).map (·.toNat) }

/-- The walks of the fens of the plans already loaded, plan by plan (R409). -/
def loadedStudies (s : State) : List (Plan × List Study) :=
  (plansOf s).map fun x => (x.2, (s.fens.filter fun f => decide (f.2.img.plan = some x.1)).filterMap fun f =>
    (logicalOf s f.1).map fun n => studyFen s x.2.decisions x.2.scans f.2.img.links 0 (loadedSrc n f.2))

/-- The first bundle at which a pointer stands at row 30 or 31 of a scaled slot before a move over scaled slots (R383). -/
def ptrBad : List PtrOp → Ptr → Option Nat
  | [], _ => none
  | .set y :: l, _ => ptrBad l y
  | .move scaled n a :: l, x =>
    if scaled && decide (30 ≤ x.row) then some a else ptrBad l (ptrAt x.buf (rowsFrom scaled x.buf n (ptrRow x)).2)

/-- Where a list of moves leaves a pointer. -/
def ptrEnd : List PtrOp → Ptr → Ptr
  | [], x => x
  | .set y :: l, _ => ptrEnd l y
  | .move scaled n _ :: l, x => ptrEnd l (ptrAt x.buf (rowsFrom scaled x.buf n (ptrRow x)).2)

/-- Where a pointer can stand at a segment's start, from where it stands at the load, through `n` tempos under any choices. -/
def ptrReach (runs : List (List PtrOp)) : Nat → List Ptr → List Ptr → List Ptr
  | 0, seen, _ => seen
  | n + 1, seen, new =>
    let next := ((new.flatMap fun x => runs.map fun l => ptrEnd l x).eraseDups).filter fun x => !seen.contains x
    if next.isEmpty then seen else ptrReach runs n (seen ++ next) next

/-- A pointer of a fen that reaches row 30 or 31 of a scaled slot, in the first tempo or through what an earlier one leaves: the
variant and the bundle (R383). -/
def ptrClash (s : State) (x : Study) (i : Nat) : Option (Nat × Nat) :=
  let runs := x.runs.map fun r => (r.idx, (r.act.pops.reverse.filter fun o => decide (o.1 = i)).map (·.2))
  if runs.all fun r => r.2.all fun
    | .move true _ _ => false
    | _ => true
  then none
  else
    let x0 := mapGet {} ((pfenOf s x.src.fen).map fun p => (fenOf s p).pts).toList.flatten i
    let starts := ptrReach (runs.map (·.2)) 49152 [x0] [x0]
    runs.findSome? fun r => (starts.findSome? (ptrBad r.2)).map fun a => (r.1, a)

/-- A TMUL whose plane different TLOADs fill on different paths (R350). -/
def fillClash (x : Study) : Option Nat :=
  let l := x.runs.flatMap (·.clip.fills)
  (l.find? fun a => l.any fun b => decide (a.1 = b.1 ∧ a.2.1 = b.2.1 ∧ a.2.2 ≠ b.2.2)).map (·.1)

/-- What the walks of a fen show to be refused. -/
def checkPaths (s : State) (p : PlanSrc) (x : Study) : Option PlanErr :=
  let err' (idx a : Nat) : PlanErr := codeErr p x.entry x.src idx a
  let err (r : PlanRun) (a : Nat) : PlanErr := err' r.idx a
  let mine (d : BitVec 256) : Bool := (decSources d).getLsbD x.src.fen
  (x.runs.findSome? fun r => r.clip.err.map (err r))
  <|> ((fillClash x).map (codeErr p x.entry x.src 0))
  <|> (x.runs.findSome? fun r => r.act.err.map (err r))
  <|> (((List.range 16).findSome? (ptrClash s x)).map fun c => err' c.1 c.2)
  <|> (x.runs.findSome? fun r => (r.clip.posted.find? fun n =>
        !p.decisions.any fun d => decide (decNumber d = n) && mine d).map (err r))
  <|> (x.runs.findSome? fun r => (p.decisions.find? fun d =>
        mine d && !r.clip.posted.contains (decNumber d)).map fun d => err r (decNumber d))
  <|> (if x.runs.any fun r => r.act.past then none
       else (x.runs.find? fun r => decide (r.act.pushes ≠ ((x.runs.head?.map (·.act.pushes)).getD []))).map fun r => err r 0)

/-- R367: what SENDs on routes other than NEXT write into a stage's input group. -/
def checkGroups (p : PlanSrc) (st : List Study) : Option PlanErr :=
  let hits (x : StageSrc) : PlanEv → Bool
    | .send (some (f, b, row, n, _)) none => (slotsTouched b row n).any fun k => groupMeets x f b k 1
    | _ => false
  p.chains.zipIdx.findSome? fun c =>
    (c.1.stages.find? fun x => st.any fun y => y.runs.any fun r => r.act.evs.any (hits x)).map fun x =>
      { ruleErr p 7 c.2 with fen := x.fen }

end Sys2Proof.Machine
end

