-- ==== Sys2Proof/Machine/PlanScan.lean ====
section
/-!
DEFINITION. The worst-case finish of scans (R204, R207 to R210, R215, R217): the pushes of every program, at the times that the
walks give, carried through the leaves, the nodes and the root of the tree, each of which takes one carry per 56 CK in each
direction. A carry's key is 8192 · set + 512 · scan + tile, the plan to be loaded being set 0 and loaded plans following.
-/

namespace Sys2Proof.Machine

/-- Carries on their way as (key, CK). -/
abbrev Carries := List (Nat × Nat)

/-- Insert by CK, after those of the same CK. -/
def carryInsert (x : Nat × Nat) : Carries → Carries
  | [] => [x]
  | y :: l => if x.2 < y.2 then x :: y :: l else y :: carryInsert x l

/-- Carries in the order of their CK. -/
def carrySort (l : Carries) : Carries := l.foldl (fun m x => carryInsert x m) []

/-- Carries in order take a way that takes one per `gap` CK and `lat` CK itself: when each is past it. -/
def carryWay (gap lat : Nat) : Nat → Carries → Carries
  | _, [] => []
  | free, x :: l => let t := max x.2 free; (x.1, t + lat) :: carryWay gap lat (t + gap) l

/-- A hop (R207). -/
def carryHop (l : Carries) : Carries := carryWay 56 56 0 (carrySort l)

/-- What a leaf is given: for each key the CK of its pushes in order, and the deliveries that each returns. -/
abbrev LeafLoad := List (Nat × List Nat × Nat)

/-- The pushes of one run of a program. -/
def runLoad (set : Nat) (w : Walk) : LeafLoad :=
  w.cevs.reverse.foldl (fun m e => match e with
    | .push ck _ (some scan) tile dels =>
      let key := 8192 * set + 512 * scan + tile
      match m.find? fun x => decide (x.1 = key) with
      | some _ => m.map fun x => if x.1 = key then (key, x.2.1 ++ [ck], x.2.2 + dels) else x
      | none => m ++ [(key, [ck], dels)]
    | _ => m) []

/-- The later of two lists of times, push by push. -/
def laterOf : List Nat → List Nat → List Nat
  | [], l => l
  | l, [] => l
  | a :: l, b :: m => max a b :: laterOf l m

/-- The worst of two runs: the later of each push, the more deliveries. -/
def worseLoad (a b : LeafLoad) : LeafLoad :=
  b.foldl (fun m x => match m.find? fun y => decide (y.1 = x.1) with
    | some _ => m.map fun y => if y.1 = x.1 then (y.1, laterOf y.2.1 x.2.1, max y.2.2 x.2.2) else y
    | none => m ++ [x]) a

/-- What the leaf of logical fen `n` is given at worst. -/
def leafLoad (sets : List (List Study)) (n : Nat) : LeafLoad :=
  sets.zipIdx.foldl (fun m s => (s.1.filter fun x => decide (x.src.fen = n)).foldl (fun m x =>
    x.runs.foldl (fun m r => worseLoad m (runLoad s.2 r.most)) m) m) []

/-- When each aggregate of a leaf is complete: a push 40 CK after its issue (R210), one push per 56 CK, each beyond a tile's first
composed in 56 CK more (R209). -/
def leafReady (l : LeafLoad) : Carries :=
  let in_ := carryWay 56 0 0 (carrySort (l.flatMap fun x => x.2.1.map fun ck => (x.1, ck + 40)))
  l.map fun x =>
    let t := (in_.filter fun y => decide (y.1 = x.1)).map (·.2)
    (x.1, t.tail.foldl (fun a b => max a b + 56) (t.headD 0))

/-- What reaches a node from two children: a key of both when the later one has come. -/
def joinCarries (a b : Carries) : Carries :=
  (a.map fun x => (x.1, ((b.find? fun y => decide (y.1 = x.1)).map fun y => max x.2 y.2).getD x.2))
    ++ b.filter fun y => !a.any fun x => decide (x.1 = y.1)

/-- The nodes above a level, left and right child in turn, each with what leaves it upwards. -/
def levelUp : List Carries → List Carries
  | a :: b :: l => carryHop (joinCarries a b) :: levelUp l
  | _ => []

/-- The levels from a given one to the one `n` above it. -/
def levelsUp : Nat → List Carries → List (List Carries)
  | 0, l => [l]
  | n + 1, l => l :: levelsUp n (levelUp l)

/-- What reaches each node of a level from above, `up` being what it sent up. -/
def levelDown (above : List Carries) (up : List Carries) : List Carries :=
  up.zipIdx.map fun x => carryHop ((above.getD (x.2 / 2) []).filter fun y => x.1.any fun z => decide (z.1 = y.1))

/-- The CK at which aggregates are complete at the root, and at which prefixes reach each leaf (Table 5-5). -/
def treeTimes (leaves : List LeafLoad) : Carries × List Carries :=
  let up := (levelsUp 6 (leaves.map leafReady)).reverse
  let root := up.headD []
  (root.headD [], up.tail.foldl levelDown root)

/-- A leaf's deliveries: the CK of each key's last one, one per 56 CK. -/
def leafLast (load : LeafLoad) (l : Carries) : Carries :=
  let n (key : Nat) : Nat := ((load.find? fun x => decide (x.1 = key)).map (·.2.2)).getD 0
  let all := carryWay 56 0 0 ((carrySort l).flatMap fun x => List.replicate (n x.1) x)
  (all.filter fun x => decide (0 < n x.1))

/-- CK of one ring hop over the cable of a causeway, and of the retry allowance (R217, R481), with RTT's cable in 0.1 m. -/
def ringHop (cable : Nat) : Nat × Nat := (1350 + (9 * (cable - 50) + 7) / 8, 5850 + (9 * (cable - 50) + 3) / 4)

/-- Ring positions from the first block of a scan's span to this one. -/
def ringDepth (s : State) (d : ScanDecl) : Nat :=
  if d.dir then d.ringLast - s.ringPos.toNat else s.ringPos.toNat - d.ringFirst

/-- The scans of the plan to be loaded and of the loaded plans, with their set. -/
def scanSets (own : List ScanDecl) (s : State) : List (Nat × ScanDecl) :=
  (own.map fun d => (0, d)) ++ (plansOf s).zipIdx.flatMap fun x => x.1.2.scans.map fun d => (x.2 + 1, d)

/-- Whether a key is one of a set's scan. -/
def keyOf (set : Nat) (d : ScanDecl) (key : Nat) : Bool := decide (key / 512 = 16 * set + d.scan)

/-- The worst-case finish of each scan from the segments' start, in CK, its last delivery pulled: in the block, and for the blocks
after the first of a ring scan also by the ripple, its carries following one another per 132 CK on their link (R217). -/
def scanFinishes (s : State) (own : List ScanDecl) (st : List Study) : List ((Nat × ScanDecl) × Nat) :=
  let sets := st :: (loadedStudies s).map (·.2)
  let loads := (List.range 64).map (leafLoad sets)
  let t := treeTimes loads
  let ends := (loads.zip t.2).flatMap fun x => leafLast x.1 x.2
  let scans := scanSets own s
  let inRing (dir : Bool) (key : Nat) : Bool :=
    scans.any fun x => x.2.ring && decide (x.2.dir = dir) && !(ringEnds s x.2).1 && keyOf x.1 x.2 key
  let link (dir : Bool) : Carries := carryWay 132 0 0 ((carrySort t.1).filter fun x => inRing dir x.1)
  let late (l : Carries) (x : Nat × ScanDecl) : Nat := ((l.filter fun y => keyOf x.1 x.2 y.1).map (·.2)).foldl max 0
  scans.map fun x =>
    let done := late ends x
    let most := ((loads.flatten.filter fun y => keyOf x.1 x.2 y.1).map (·.2.2)).foldl max 0
    let h := ringHop (cwOf s (if x.2.dir then 1 else 0)).cable.toNat
    (x, if most = 0 then late t.1 x
        else max (done + 40) (if x.2.ring && !(ringEnds s x.2).1 then
          late (link x.2.dir) x + ringDepth s x.2 * h.1 + 90 + h.2 + 432 + 56 * (most - 1) else 0))

/-- The worst-case finish of a scan of the plan. -/
def scanFinish (fin : List ((Nat × ScanDecl) × Nat)) (scan : Nat) : Nat :=
  ((fin.filter fun x => decide (x.1.1 = 0 ∧ x.1.2.scan = scan)).map (·.2)).foldl max 0

/-! ## Deliveries outstanding (R204, R205, R223) -/

/-- The deliveries of one array that may be outstanding: the scans they came from, oldest first, and how many the last WAIT on the
ready count has shown to be there. A CPULL takes one only where it is sure to find one. -/
def owedStep (fin : List ((Nat × ScanDecl) × Nat)) (array : Nat) (q : List (Option Nat) × Nat) : CarryEv → List (Option Nat) × Nat
  | .push _ k scan _ dels => if k = array then (q.1 ++ List.replicate dels scan, q.2) else q
  | .wait k n => if k = array then (q.1, max q.2 n) else q
  | .pull ck k =>
    if k ≠ array then q
    else if 0 < q.2 then (q.1.tail, q.2 - 1)
    else match q.1 with
      | some scan :: l => if scanFinish fin scan ≤ ck + 40 then (l, 0) else q
      | _ => q

/-- Whether more than 8 deliveries of an array can be outstanding in a run. -/
def owedOver (fin : List ((Nat × ScanDecl) × Nat)) (array : Nat) : List CarryEv → List (Option Nat) × Nat → Bool
  | [], _ => false
  | e :: l, q => let r := owedStep fin array q e; decide (8 < r.1.length) || owedOver fin array l r

/-- R204. -/
def checkOwed (fin : List ((Nat × ScanDecl) × Nat)) (p : PlanSrc) (st : List Study) : Option PlanErr :=
  st.findSome? fun x => (x.runs.find? fun r => (List.range 4).any fun a => owedOver fin a r.act.cevs.reverse ([], 0)).map fun r =>
    codeErr p x.entry x.src r.idx 0

end Sys2Proof.Machine
end

