-- ==== Sys2Proof/Machine/PlanCheck.lean ====
section
/-!
DEFINITION. Checks 6 to 12 of LOAD_PLAN (Table 13-8): slots and pinned lines, state depths, lodes, dependency order,
lengths, bandwidth and energy; and the record that a loaded plan leaves.
-/

namespace Sys2Proof.Machine

/-! ## Check 6 (R25, R409) -/

/-- Every row of the block that a read lode places data in, within a slot index range of its first transfers (R395, R396). -/
def lodeRowSet (d : BitVec 512) : List Nat :=
  let n := ldRows d
  let m := ldSlots d
  let row (ix k : Nat) : Nat := 32 * (ldSlot d + ix % m) + k
  if 32 < n then
    ((List.range (min ((ldCount d + 1) * (ldNbase d + 1)) m)).flatMap fun t =>
      (List.range n).map fun k => row (2 * t + k / 32) (k % 32)).eraseDups
  else
    let one := List.range (min (ldCap d / n) (ldCount d + 1) * n) ++ (if ldSc d then [30, 31] else [])
    (List.range m).flatMap fun ix => one.map (row ix)

/-- The lodes of a plan and those in use, as descriptors; the plan's come first. -/
def allDescs (s : State) (p : PlanSrc) : List (BitVec 512) := p.lodes.map (·.desc) ++ (otherLodes s p).map (·.desc)

/-- Two read lodes share a row. -/
def lodesMeet (d e : BitVec 512) : Bool :=
  ldRead d && ldRead e && decide (ldFen d = ldFen e ∧ ldBuf d = ldBuf e ∧ ldSlot d < ldSlot e + ldSlots e ∧ ldSlot e < ldSlot d + ldSlots d)
    && ((lodeRowSet d).any fun r => (lodeRowSet e).contains r)

/-- Rows that SENDs write, with their counters; a row of two counters comes as `none`. -/
def mergeWrites (m w : SMap (Option Nat)) : SMap (Option Nat) × Bool :=
  w.foldl (fun a x =>
    match mapGet none a.1 x.1 with
    | none => (mapPut none a.1 x.1 x.2, a.2)
    | some g => (a.1, a.2 || decide (some g ≠ x.2))) (m, false)

/-- Every row that the plan's own SENDs write, and whether one is of two counters; a counter is told apart by its fen. -/
def planWrites (st : List Study) : SMap (Option Nat) × Bool :=
  st.foldl (fun a x => x.runs.foldl (fun a r =>
    let y := mergeWrites a.1 r.act.writes
    (y.1, a.2 || y.2 || r.act.clash.isSome)) a) ([], false)

/-- A row that both a read lode and a SEND write. -/
def lodeSendMeet (d : BitVec 512) (w : SMap (Option Nat)) : Bool :=
  match ldBuf d with
  | some b => ldRead d && (lodeRowSet d).any fun r => (mapGet none w (rowKey (ldFen d) b r)).isSome
  | none => false

/-- The cache lines that transfer `j` of base `k` touches. -/
def xferLines (d : BitVec 512) (k j : Nat) : List (Word × Nat) :=
  let lo := ldOffset d k + ldStride d * j
  let first := lo / 4096
  (List.range ((lo + 128 * ldRows d - 1) / 4096 + 1 - first)).map fun i => (ldHandle d k, first + i)

/-- The lines that a SHARED lode pins (R24). -/
def pinLines (d : BitVec 512) : List (Word × Nat) :=
  if ldShared d then ((ldBases d).flatMap fun k => (List.range (ldCount d + 1)).flatMap (xferLines d k)).eraseDups else []

/-- The W-buffer slots that a fen declares: those of lodes, of routes and of rows that SENDs write. -/
def slotsDeclared (s : State) (p : PlanSrc) (w : SMap (Option Nat)) (fen : Nat) : Nat :=
  let lodes := (allDescs s p).flatMap fun d =>
    if ldFen d = fen ∧ ldBuf d = some .w then (List.range (ldSlots d)).map (ldSlot d + ·) else []
  let routes := (ownRoutes p).filterMap fun r => if r.kind = 0 ∧ r.fen = fen ∧ r.buf = .w then some (r.row / 32) else none
  let sends := w.filterMap fun x =>
    if x.1 / 12288 = 3 * fen + bufCode .w then some (x.1 % 12288 / 32) else none
  (lodes ++ routes ++ sends).eraseDups.length

/-- Check 6. -/
def checkSlots (s : State) (p : PlanSrc) (st : List Study) : Option PlanErr :=
  let e : PlanErr := { st := stRefusedSlots, check := 6 }
  let own := planWrites st
  let all := (plansOf s).foldl (fun (a : SMap (Option Nat) × Bool) x =>
    let y := mergeWrites a.1 x.2.writes; (y.1, a.2 || y.2)) own
  let descs := allDescs s p
  let pins := (descs.flatMap pinLines).eraseDups
  let sets := pins.map fun x => lineSet x.1 x.2
  firstBad (fun i x => !((descs.take i) ++ (descs.drop p.lodes.length)).any fun d => lodesMeet x.desc d)
    (fun i x => { e with sect := sectIx p 2, entry := i, fen := ldFen x.desc }) p.lodes
  <|> (if all.2 then some e else none)
  <|> (descs.findSome? fun d => if lodeSendMeet d all.1 then some { e with fen := ldFen d } else none)
  <|> ((List.range 64).findSome? fun n =>
        let mine := ((descs.filter fun d => decide (ldFen d = n)).flatMap pinLines).eraseDups.length
        let k := slotsDeclared s p all.1 n + mine
        if 384 < k then some { e with fen := n, value := k } else none)
  <|> (sets.findSome? fun x => if 12 < sets.count x then some { e with value := sets.count x } else none)

/-! ## Check 7 (R157, R221) -/

/-- Every tile that a raw binding names. -/
def bindAll (b : BindSrc) : List (Nat × Nat × Nat) := bindTriples b ++ bindInits b

/-- Check 7: a tile named twice, in the plan or in a loaded one. Seven bits hold every depth within 0–127. -/
def checkTiles (s : State) (p : PlanSrc) : Option PlanErr :=
  let taken := (plansOf s).flatMap fun x => x.2.bindings.flatMap fun b => b.tiles ++ b.initTiles
  let clash (i : Nat) (b : BindSrc) : Option (Nat × Nat × Nat) :=
    let before := taken ++ (p.binds.take i).flatMap bindAll
    ((bindAll b).zipIdx.find? fun x => before.contains x.1 || ((bindAll b).take x.2).contains x.1).map (·.1)
  p.binds.zipIdx.findSome? fun x => (clash x.2 x.1).map fun t =>
    { st := stRefusedStateDepth, check := 7, fen := t.1, sect := sectIx p 4, entry := x.2, value := t.2.2 }

/-! ## Check 8 (R409, R426, R430, R432) -/

/-- The plan's lodes armed one after another, each under the object checks, or the first that these refuse. -/
def armAll (p : PlanSrc) (k : Nat) : List (LodeSrc × Nat) → State → PlanErr ⊕ State
  | [], s => .inr s
  | (x, i) :: l, s =>
    let old := lodeOf s x.ix
    let e (st : Status) : PlanErr := { st := st, check := 8, sect := sectIx p 2, entry := i, fen := ldFen x.desc }
    if !lodeIdle old then .inl (e stRefusedLodes)
    else match resolveLode (dropRefs x.ix s) x.desc with
      | .inl st => .inl (e st)
      | .inr tiers => armAll p k l (armLode x.ix x.desc tiers (some k) s)

/-- Check 8: the state with the plan's lodes armed, or what refuses it. -/
def checkLodes (s : State) (p : PlanSrc) (k : Nat) : PlanErr ⊕ State :=
  let e : PlanErr := { st := stRefusedLodes, check := 8, sect := sectIx p 2 }
  let descs := allDescs s p
  if p.lodes ≠ [] ∧ tierWorks s = false then .inl { e with st := stRefusedConfig }
  else if inflightOk descs = false then
    .inl { e with value := if 1024 < inflightSum false descs then inflightSum false descs else inflightSum true descs }
  else armAll p k p.lodes.zipIdx s

/-! ## Check 9 (R410) -/

/-- The run of a fen under an assignment. -/
def runFor (ds : List (BitVec 256)) (x : Study) (idx : Nat) : Option PlanRun :=
  let c := choiceFor ds x.src.fen idx
  x.runs.find? fun r => decide (r.choice = c)

/-- What the plan's counters carry from the previous tempo. -/
def carriedOf (p : PlanSrc) : SMap Nat :=
  p.counters.foldl (fun m c => mapPut 0 m (ctrKey c.fen c.counter) c.carried) []

/-- The decisions, carried arrivals and studies of the plan, and of every plan already loaded (R409). -/
def ordParts (s : State) (p : PlanSrc) (st : List Study) : List (List (BitVec 256) × SMap Nat × List Study) :=
  (p.decisions, carriedOf p, st) :: (loadedStudies s).map fun x => (x.1.decisions, x.1.carried, x.2)

/-- The lodes whose transfers come in a tempo: the plan's, those of loaded plans, and the driver's that still run. -/
def ordLodes (s : State) (p : PlanSrc) : List (BitVec 512) :=
  p.lodes.map (·.desc) ++ ((otherLodes s p).filter fun x => !lodeGone x && (x.plan.isSome || decide (x.st ≠ .done))).map (·.desc)

/-- The event graph of one tempo under an assignment of every part, before its first event. -/
def ordStart (lodes : List (BitVec 512)) (parts : List (List (BitVec 256) × SMap Nat × List Study)) (idx : Nat) : OrdRun :=
  let at_ := parts.zip (variantsOf (parts.map fun x => assignments x.1) idx)
  let fens := at_.flatMap fun x => x.1.2.2.map fun y => (y, ((runFor x.1.1 y x.2).map (·.act.evs.reverse)).getD [])
  { fens := fens.map fun x => (x.1.src.fen, x.2)
    lodes := lodes.map fun d => { desc := d, st := .armed, slot := firstSlot d }
    sent := parts.foldl (fun m x => x.2.1.foldl (fun m c => mapPut 0 m c.1 c.2) m) []
    credits := fens.foldl (fun m x => x.1.links.foldl (fun m l =>
      if l.2.hasNext then mapPut 0 m (4 * x.1.src.fen + l.1) l.2.nextK else m) m) []
    links := fens.map fun x => (x.1.src.fen, x.1.links) }

/-- Check 9. -/
def checkOrder (s : State) (p : PlanSrc) (st : List Study) : Option PlanErr :=
  let parts := ordParts s p st
  let lodes := ordLodes s p
  ((List.range ((parts.map fun x => assignments x.1).foldl (· * ·) 1)).find? fun i => !ordAcyclic (ordStart lodes parts i)).map
    fun i => { st := stRefusedSlotCycle, check := 9, variant := i % assignments p.decisions }

/-! ## Check 10 (R217, R302, R370) -/

/-- The length of a segment variant (R332, R347). -/
def runLength (r : PlanRun) : Nat := if r.most.ended then r.most.fin else max r.most.fin r.most.ck

/-- The worst length of the plan's segments. -/
def worstLength (st : List Study) : Nat := (st.map fun x => (x.runs.map runLength).foldl max 0).foldl max 0

/-- Check 10 under a configuration. -/
def checkLengths (fin : List ((Nat × ScanDecl) × Nat)) (p : PlanSrc) (st : List Study) (m : SMap (Option Word)) : Option PlanErr :=
  let e : PlanErr := { st := stRefusedCycles, check := 10 }
  let b := budgetCk m
  let tempo := cfgPeriod m * 45 / 2 - 96
  (st.findSome? fun x => (x.runs.find? fun r => r.most.past || r.act.past || decide (b < runLength r)).map fun r =>
    { e with fen := x.src.fen, sect := sectIx p 1, entry := x.entry, variant := r.idx, value := runLength r })
  <|> ((scansOf p).zipIdx.findSome? fun d =>
        let n := scanFinish fin d.1.scan
        if b < n then some { e with sect := sectIx p 5, entry := d.2, value := n } else none)
  <|> ((fin.find? fun x => decide (0 < x.1.1 ∧ b < x.2)).map fun x => { e with sect := sectIx p 5, value := x.2 })
  <|> (st.findSome? fun x => (x.runs.find? fun r => decide (tempo < r.most.chainEnd)).map fun r =>
        { e with fen := x.src.fen, variant := r.idx, value := r.most.chainEnd })

/-! ## The plan's record: R423, R482, R570 -/

/-- Bytes that a base of a lode moves in a tempo (R423), and the lines that are pinned after it. -/
def baseBytes (d : BitVec 512) (pins : List (Word × Nat)) (k : Nat) : Nat × List (Word × Nat) :=
  if !ldCache d || ldFabric d then ((ldCount d + 1) * ldRows d * 128, pins)
  else (List.range (ldCount d + 1)).foldl (fun a j =>
    let new := (xferLines d k j).filter fun x => !a.2.contains x
    (a.1 + 4096 * new.length, if ldShared d then a.2 ++ new else a.2)) (0, pins)

/-- Bytes of the plan's lodes on tier A, on tier B, and elsewhere, once they are armed; SHARED lodes come first (R26). -/
def lodeBytes (armed : State) (p : PlanSrc) : Nat × Nat × Nat :=
  let order := (p.lodes.filter fun x => ldShared x.desc) ++ p.lodes.filter fun x => !ldShared x.desc
  let l := order.flatMap fun x => (ldBases x.desc).map fun k => (x.desc, k, (lodeOf armed x.ix).tiers[k]?)
  let r := l.foldl (fun (a : (Nat × Nat × Nat) × List (Word × Nat)) x =>
    let y := baseBytes x.1 a.2 x.2.1
    let n := a.1
    (match x.2.2 with
      | some .a => (n.1 + y.1, n.2)
      | some .b => (n.1, n.2.1 + y.1, n.2.2)
      | _ => (n.1, n.2.1, n.2.2 + y.1), y.2)) ((0, 0, 0), [])
  r.1

/-- Frames of the plan's messages on a link, the most over the assignments. -/
def messageFrames (p : PlanSrc) (st : List Study) (c : Nat) : Nat :=
  ((List.range (assignments p.decisions)).map fun i =>
    (st.map fun x => ((runFor p.decisions x i).map fun r => mapGet 0 r.act.frames c).getD 0).sum).foldl max 0

/-- Carries of the plan's ring scans on a link. -/
def carryFrames (s : State) (p : PlanSrc) (c : Nat) : Nat :=
  (((scansOf p).filter fun d => ringSends s d && decide (ringOut d = c)).map (·.tiles)).sum

/-- Edges of the tree that a scan's leaves use: one above each participating leaf and each node below the root. -/
def treeEdges (d : ScanDecl) : Nat :=
  ((List.range 6).map fun k => ((fensOfMask d.leaves).map fun n => n / 2 ^ k).eraseDups.length).sum

/-- Energy of a scan's carries in the tree, up, down and, where the ring corrects, down again (Table 15-5). -/
def treePj (s : State) (d : ScanDecl) : Nat :=
  43 * 14 * treeEdges d * d.tiles * (if d.ring && !(ringEnds s d).1 then 3 else 2)

/-- Rows that a lode moves in a tempo, with rows 30 and 31 of each scaled slot (R396). -/
def rowsMoved (d : BitVec 512) : Nat :=
  let n := ldCount d + 1
  let per := max 1 (ldCap d / ldRows d)
  (ldNbase d + 1) * (n * ldRows d + if ldSc d then 2 * ((n + per - 1) / per) else 0)

/-- Energy of the plan in a tempo, in pJ (R570). -/
def planPj (s armed : State) (p : PlanSrc) (st : List Study) : Nat :=
  let fens := (st.map fun x => (x.runs.map (·.most.pj)).foldl max 0).sum
  let b := lodeBytes armed p
  let rows := (p.lodes.map fun l => rowsMoved l.desc).sum
  fens + 3 * (b.1 + b.2.1 + b.2.2) + 14 * rows + ((scansOf p).map (treePj s)).sum

/-- The pushes of each leaf to each tile (R613). -/
def expectOf (st : List Study) (scan : Nat) : List (Nat × Nat × Nat) :=
  st.flatMap fun x => match x.runs with
    | [] => []
    | r :: _ => r.act.pushes.filterMap fun e => if e.1 / 512 = scan then some (x.src.fen, e.1 % 512, e.2) else none

/-- The record of the plan, once loaded. -/
def planRecord (s armed : State) (p : PlanSrc) (st : List Study) : Plan :=
  let b := lodeBytes armed p
  { fens := p.fens, mapGen := p.mapGen, unloading := false, worst := worstLength st,
    bindings := p.binds.map bindOf,
    scans := p.scans.map fun d => scanOfBits d (expectOf st (bitsAt d 3 0)),
    decisions := p.decisions,
    msgCounters := (p.counters.filter fun c => decide (c.feed = 2)).map fun c => (c.fen, c.counter),
    writes := (planWrites st).1, tierA := b.1, tierB := b.2.1,
    frames := (List.range 3).map (messageFrames p st) ++ (List.range 3).map (carryFrames s p),
    energyPj := planPj s armed p st, carried := carriedOf p }

/-! ## Checks 11 and 12 -/

/-- Fill-bus bytes of a fen row in a tempo, over bulk read lodes (R407). -/
def fillBytes (s : State) (p : PlanSrc) (row : Nat) : Nat :=
  ((allDescs s p).filterMap fun d =>
    if ldRead d ∧ ldLight d = false ∧ (pfenOf s (ldFen d)).map (· / 9) = some row then
      some (rowsMoved d * 128)
    else none).sum

/-- Check 11 under a configuration. -/
def checkBandwidth (s : State) (p : PlanSrc) (r : Plan) (m : SMap (Option Word)) : Option PlanErr :=
  let e : PlanErr := { st := stRefusedBandwidth, check := 11 }
  let l := plansOf s ++ [(16, r)]
  let t := tierReserved l
  let period := cfgPeriod m
  (if tiersFit period l then none
   else some { e with sect := sectIx p 2, value := if t.1 ≤ 64800 * period then t.2 else t.1 })
  <|> ((List.range 8).findSome? fun k =>
        if 512 * 18 * period * 9 / 10 < fillBytes s p k then some { e with sect := sectIx p 2, value := fillBytes s p k } else none)
  <|> ((List.range 3).findSome? fun c =>
        if planTraffic l c = (0, 0) ∨ framesOn l c ≤ frameLimit s period c then none else some { e with value := framesOn l c })

/-- Check 12 under a configuration. -/
def checkEnergy (s : State) (r : Plan) (m : SMap (Option Word)) : Option PlanErr :=
  if powerFits m (plansPj (plansOf s) + r.energyPj) then none
  else some { st := stRefusedPower, check := 12, value := r.energyPj / 1000000 }

/-- A check under the configuration in force, and under the pending set while a COMMIT is pending, also while a boundary that
has taken it waits to carry it out (R505). -/
def underBoth (s : State) (f : SMap (Option Word) → Option PlanErr) : Option PlanErr :=
  f s.regs <|> s.pendSet.bind f <|> s.tempo.capSet.bind f

/-! ## The checks in order -/

/-- A plan that the checks accept: its record and the state with its lodes armed. -/
structure PlanOk where
  record : Plan
  armed : State
  deriving DecidableEq, Repr

/-- Checks 2 to 5 before the walks. -/
def checkFirst (s : State) (p : PlanSrc) : Option PlanErr :=
  let fens := fensOfMask p.fens
  checkMapGen s p <|> fens.findSome? (checkFen s p) <|> fens.findSome? (checkPower s) <|> checkStatic s p

/-- What the walks show to be refused under check 5, and checks 6 and 7. -/
def checkWalks (s : State) (fin : List ((Nat × ScanDecl) × Nat)) (p : PlanSrc) (st : List Study) : Option PlanErr :=
  st.findSome? (checkPaths s p) <|> checkOwed fin p st <|> checkGroups p st <|> checkSlots s p st <|> checkTiles s p

/-- Checks 9 to 12. -/
def checkLoads (s : State) (fin : List ((Nat × ScanDecl) × Nat)) (p : PlanSrc) (st : List Study) (r : Plan) : Option PlanErr :=
  checkOrder s p st <|> underBoth s (checkLengths fin p st) <|> underBoth s (checkBandwidth s p r) <|> underBoth s (checkEnergy s r)

/-- Checks 2 to 12 of plan `k` (R505): the first failure, or the plan accepted. -/
def checkPlan (s : State) (p : PlanSrc) (k : Nat) : PlanErr ⊕ PlanOk :=
  match checkFirst s p with
  | some e => .inl e
  | none =>
    let st := studies s p
    let fin := scanFinishes s (scansOf p) st
    match checkWalks s fin p st with
    | some e => .inl e
    | none =>
      match checkLodes s p k with
      | .inl e => .inl e
      | .inr t =>
        let r := planRecord s t p st
        match checkLoads s fin p st r with
        | some e => .inl e
        | none => .inr ⟨r, t⟩

end Sys2Proof.Machine
end

