-- ==== Sys2Proof/Machine/PlanLoad.lean ====
section
/-!
DEFINITION. LOAD_PLAN (R505 to R508): the command, the image's arrival, the installing step and the result.
-/

namespace Sys2Proof.Machine

/-- RESULT of a LOAD_PLAN reply (Table 13-9). -/
def planResult (e : PlanErr) : BitVec 96 :=
  BitVec.ofNat 96 (e.check % 2 ^ 8 + e.fen % 2 ^ 8 * 2 ^ 8 + e.sect % 2 ^ 16 * 2 ^ 16 + e.entry % 2 ^ 16 * 2 ^ 32
    + e.variant % 2 ^ 16 * 2 ^ 48 + min e.value 0xFFFFFFFF * 2 ^ 64)

/-- The final reply of a LOAD_PLAN that a check refuses. -/
def planRefused (c : Cmd) (e : PlanErr) (s : State) : State := replyWith c e.st true (planResult e) s

/-- A list as a map from index 0. -/
def mapOfList {β : Type} [DecidableEq β] (d : β) (l : List β) : SMap β :=
  (l.zipIdx.filter fun x => decide (x.1 ≠ d)).map fun x => (x.2, x.1)

/-- The image that a fen holds after LOAD_PLAN (Table 9-1). -/
def imageOf (k : Nat) (p : PlanSrc) (x : FenSrc) : Image :=
  { plan := some k, entry := BitVec.ofNat 12 x.entry, imem := mapOfList 0 (x.code.toList.map (BitVec.ofNat 128)),
    variants := mapOfList 0 ((List.range 32).map fun i => BitVec.ofNat 12 (x.variants / 2 ^ (12 * i))),
    waits := mapOfList 0 (x.waits.map (BitVec.ofNat 128)), routes := mapOfList 0 (x.routes.map (BitVec.ofNat 64)),
    epis := mapOfList 0 (x.epis.map (BitVec.ofNat 64)), win := BitVec.ofNat 32 x.window, links := linksOf p x.fen }

/-- A buffer with every tag EMPTY (R384). -/
def tagsEmpty (b : Buffer) : Buffer := { b with tags := [] }

/-- A fen takes its image, with its tags EMPTY, its counters zero (R392) and no segment begun. -/
def installFen (k : Nat) (p : PlanSrc) (x : FenSrc) (s : State) : State :=
  match pfenOf s x.fen with
  | none => s
  | some ph => modFen ph (fun f => { f with
      img := { imageOf k p x with scrub := f.img.scrub }
      bufW := tagsEmpty f.bufW
      bufA := tagsEmpty f.bufA
      bufP := tagsEmpty f.bufP
      counters := mapVals {} ctrReset f.counters
      seq := { f.seq with st := .idle, endIssued := false } }) s

/-- A context that RESTORE brought while no plan held its binding takes its tiles from the plan's binding, and runs the
initial-state load that its recorded state asks for (R539, R543, log entry 118). -/
def adoptStream (k : Nat) (b : Binding) (s : State) (e : Nat × Stream) : State :=
  if e.2.st = .closed ∨ e.2.binding.toNat ≠ b.index ∨ !e.2.tiles.isEmpty then s
  else
    let x := { e.2 with plan := k, tiles := b.tiles : Stream }
    let s := modStream e.1 (fun _ => x) s
    if x.st = .opening ∨ x.st = .resetting then queueInit (acceptNumber s) x.sid x b s else s

/-- The installing step of an accepted plan. -/
def installPlan (k : Nat) (p : PlanSrc) (ok : PlanOk) : State :=
  let s := p.imgs.foldl (fun s x => installFen k p x s) ok.armed
  putPlan k (some ok.record) (ok.record.bindings.foldl (fun s b => s.streams.foldl (adoptStream k b) s) s)

/-- Whether a plan number is free: no plan, no lode and no UNLOAD_PLAN of it remains. -/
def planFree (s : State) (k : Nat) : Bool :=
  (planOf s k).isNone && !planHasLodes s k && !(s.jobs.any fun
    | .unload _ j => decide (j = k)
    | _ => false)

/-- The checks of R505 on an image as it was fetched, `none` for a fetch error. -/
def checkImage (s : State) (j : LoadPlanJob) (img : Option (List Byte)) : PlanErr ⊕ (PlanSrc × PlanOk) :=
  match img with
  | none => .inl { st := stRefusedConfig, check := 1 }
  | some l =>
    if !planFree s j.plan then .inl { st := stRefusedConfig, check := 1 }
    else match readImage l j.size with
      | .inl e => .inl e
      | .inr p => match checkPlan s p j.plan with
        | .inl e => .inl e
        | .inr ok => .inr (p, ok)

/-- The fetch of the LOAD_PLAN at the head begins. -/
def planFetch (s : State) : State :=
  match s.loads with
  | [] => s
  | j :: _ => emit (.fabricFetch j.addr.toNat j.size) s

/-- LOAD_PLAN: its fetch begins once no other LOAD_PLAN runs (R507). -/
def execLoadPlan (q : Fin 16) (p : Packet) (s : State) : Host.Outcome State Fault Refusal :=
  .next (acceptCmd 0x08 q.val p (fun c _ s =>
    if 16 ≤ par p 12 1 ∨ par p 0 8 % 4096 ≠ 0 then planRefused c { st := stRefusedConfig, check := 1 } s
    else
      let t := { s with loads := s.loads ++ [⟨c, BitVec.ofNat 64 (par p 0 8), par p 8 4, par p 12 1⟩] }
      if s.loads = [] then planFetch t else t) s)

/-- PLAN_IMAGE_FETCHED: the image of the running LOAD_PLAN is checked and, when every check passes, installed in one step. -/
def execPlanImageFetched (img : Option (List Byte)) (s : State) : Host.Outcome State Fault Refusal :=
  match s.loads with
  | [] => .next s
  | j :: rest =>
    let s := { s with loads := rest }
    match checkImage s j img with
    | .inl e => .next (planFetch (planRefused j.cmd e s))
    | .inr (p, ok) =>
      let r := planResult { st := stOk, check := 0, value := ok.record.worst }
      .next (planFetch (replyWith j.cmd stOk true r (installPlan j.plan p ok)))

end Sys2Proof.Machine
end

