-- ==== Sys2Proof/Machine/Plant.lean ====
section
/-!
DEFINITION. Power domains, the emergency stretch, clocks and fatal errors, resets and start-up (R29, R30, R558, R559, R572 to
R574, R578 to R583, R596).
-/

namespace Sys2Proof.Machine

/-! ## PD_CACHE and PD_TIER (R559) -/

/-- Whether PD_CACHE must stay on: a loaded plan holds a lode with SHARED = 1. -/
def cacheBusy (s : State) : Bool := s.lodes.any fun l => decide (l.2.st ≠ .free) && l.2.plan.isSome && ldShared l.2.desc

/-- Whether PD_TIER must stay on. -/
def tierBusy (s : State) : Bool :=
  !(plansOf s).isEmpty || (s.lodes.any fun l => decide (l.2.st ≠ .free)) || (s.flash.any fun x => x.2.bound)
    || s.objs.any fun x => x.2.pendA || x.2.pendB || x.2.demoting

/-- A domain is turned on: up 20 µs later, unless it is up already. -/
def domainTurnOn (tier : Bool) (s : State) : State :=
  let s := { setReg 0x5004 (reg s 0x5004 ||| (if tier then 2#32 else 1#32)) s with
    jobs := s.jobs.filter fun j => decide (j ≠ .domainOff tier) }
  if (if tier then s.plant.tierUp || s.plant.tierOnAt.isSome else s.plant.cacheUp || s.plant.cacheOnAt.isSome) then s
  else modPlant (fun x => if tier then { x with tierOnAt := some (s.now + 20 * unitsUs) }
    else { x with cacheOnAt := some (s.now + 20 * unitsUs) }) s

/-- A domain is turned off: at the next boundary, or at once while the tempo is stopped; not while it is in use. -/
def domainTurnOff (tier : Bool) (s : State) : State :=
  if (if tier then tierBusy s else cacheBusy s) then logAdd lkPwrDomainBusy 0x300 [0x5004] s
  else if regBit s 0x5004 (if tier then 1 else 0) then
    let s := setReg 0x5004 (reg s 0x5004 &&& (if tier then 1#32 else 2#32)) s
    if tempoStopped s then domainOff tier s else { s with jobs := s.jobs ++ [.domainOff tier] }
  else s

/-- PWR_DOMAIN_CACHE_ON: a write of the field. -/
def execPwrDomainCacheOn (on : Bool) (s : State) : Host.Outcome State Fault Refusal :=
  .next (if on then domainTurnOn false s else domainTurnOff false s)

/-- PWR_DOMAIN_TIER_ON: a write of the field. -/
def execPwrDomainTierOn (on : Bool) (s : State) : Host.Outcome State Fault Refusal :=
  .next (if on then domainTurnOn true s else domainTurnOff true s)

/-- DOMAIN_POWER_UP_DONE: PWR_STATUS reports the domain up; PD_CACHE comes up with every line invalid. -/
def execDomainPowerUpDone (tier : Bool) (s : State) : Host.Outcome State Fault Refusal :=
  match (if tier then s.plant.tierOnAt else s.plant.cacheOnAt) with
  | none => .next s
  | some t =>
    let s := advanceTo t s
    .next (if tier then modPlant (fun x => { x with tierUp := true, tierOnAt := none }) s
      else modPlant (fun x => { x with cacheUp := true, cacheOnAt := none }) { s with cache := [] })

/-! ## Emergency stretch (R311, R312, R572, R573) -/

/-- A stretch window opens, and counts in the tempo in which it opens. -/
def stretchOpen (deep : Bool) (s : State) : State :=
  let s := bump 0x1054 1 (modPlant (fun x => { x with stretching := true, deep := deep, stretchFrom := s.now }) s)
  if tempoStopped s then s
  else
    let s := modTempo (fun t => { t with stretches := t.stretches + 1 }) s
    if regBits s 0x1000 10 8 < s.tempo.stretches then tempoEvent 0x40#32 (bump 0x1058 1 s) else s

/-- DROOP_DETECT: a comparator falls below DROOP1, or DROOP2; a window opens, or the one that is open deepens. -/
def execDroopDetect (p : Fin 72) (monitor : Fin 8) (deep : Bool) (s : State) : Host.Outcome State Fault Refusal :=
  let _ := monitor
  let s := fenBump p.val 0xC10 1 (modFen p.val (fun f => { f with droops := f.droops + 1 }) s)
  .next (if s.plant.stretching then modPlant (fun x => { x with deep := x.deep || deep }) s else stretchOpen deep s)

/-- STRETCH_WINDOW_END: after 64 quiet CK, or at 1 µs, where a droop that persists opens a new window at once. -/
def execStretchWindowEnd (droopPersists : Bool) (s : State) : Host.Outcome State Fault Refusal :=
  let x := s.plant
  if !x.stretching then .next s
  else if droopPersists then .next (stretchOpen x.deep (advanceTo (x.stretchFrom + unitsUs) s))
  else .next (modPlant (fun x => { x with stretching := false, deep := false }) (advanceTo (x.stretchFrom + 64 * unitsCk) s))

/-! ## Fatal errors (R574) and clocks (R29, R30, R578) -/

/-- The master's last marker, with STOP, for the next boundary not yet announced. -/
def lastMarker (s : State) : State :=
  match s.tempo.markFor with
  | none => s
  | some g =>
    let m : Mark := { number := s.tempo.markNum, time := g, stop := true }
    let fr := markFrame m (periodNext s) s.ringPos.toNat
    let s := if regBit s 0x1000 4 then sendFrame 0 fr s else s
    if regBit s 0x1000 5 then sendFrame 1 fr s else s

/-- The tempo stops at a fatal error. -/
def fatalStop (s : State) : State :=
  if tempoStopped s then s
  else tempoStop (modTempo (fun t => { t with actAt := none, capSet := none, capJobs := [], capPlans := [] })
    (if tempoRole s = 1 then lastMarker s else s))

/-- A fatal error: issue stops in every fen and lode, the tempo stops, heartbeats stop, and it is reported and logged. -/
def fatalNow (cause : BitVec 2) (what : Nat) (s : State) : State :=
  logAdd lkFatal 0x300 [cause.toNat, what] (fatalStop (modPlant (fun x => { x with fatal := cause }) s))

/-- CK stops. -/
def ckStop (s : State) : State :=
  bump 0xC014 1 (modTempo (fun t => { t with clockStopped := t.running })
    (modPlant (fun x => { x with ckStopped := true, stopSince := s.now }) s))

/-- FATAL_ERROR: a sensor at or above the trip on two consecutive samples, or the loss of both CK PLLs. -/
def execFatalError (cause : FatalCause) (s : State) : Host.Outcome State Fault Refusal :=
  if s.plant.fatal ≠ 0 then .next s
  else match cause with
    | .thermal k => if s.heron.tripped.contains k.val then .next (fatalNow 1 k.val s) else .next s
    | .clocks =>
      let s := modPlant (fun x => { x with pll0 := false, pll1 := false }) s
      .next (fatalNow 2 (if s.plant.pllActive then 1 else 0) (if s.plant.ckStopped then s else ckStop s))

/-- CK_PLL_LOCK_LOSS: CK stops for the switch to the spare PLL; with the spare unlocked too, both are lost. -/
def execCkPllLockLoss (s : State) : Host.Outcome State Fault Refusal :=
  if s.plant.ckStopped ∨ s.plant.fatal ≠ 0 then .next s
  else
    let one := s.plant.pllActive
    let spare := if one then s.plant.pll0 else s.plant.pll1
    let s := ckStop (modPlant (fun x => if one then { x with pll1 := false } else { x with pll0 := false }) s)
    .next (if spare then s else fatalNow 2 (if one then 1 else 0) s)

/-- CLOCK_SWITCH_DONE: CK runs on the spare PLL, and the tempo in progress is held with cause CLOCK_SWITCH (R316). -/
def execClockSwitchDone (s : State) : Host.Outcome State Fault Refusal :=
  if !s.plant.ckStopped || decide (s.plant.fatal ≠ 0) then .next s
  else .next (modPlant (fun x => { x with ckStopped := false, stopEnd := s.now, pllActive := !x.pllActive }) s)

/-- TEMPO_GEN_LOCK_LOSS: the spare generator takes over at the next TK edge, and the tempo in progress ends on its timing. -/
def execTempoGenLockLoss (s : State) : Host.Outcome State Fault Refusal :=
  if !s.plant.genSpareOk then .next s
  else
    let s := advanceTo ((s.now / unitsTk + 1) * unitsTk) s
    .next (logAdd lkTempoGenSwitch 0x600 [] (modPlant (fun x => { x with genActive := !x.genActive, genSpareOk := false }) s))

/-! ## Tier-engine reset (R581) -/

/-- The commands in progress in the tier engine. -/
def tierCmds (s : State) : List Cmd :=
  s.arms.map (·.cmd) ++ (s.lodes.map fun l => l.2.haltCmd).flatten ++ (s.objs.map fun o => o.2.jobs.map (·.cmd)).flatten
    ++ s.flash.filterMap fun x => x.2.unbindCmd

/-- An object entry with its promotion and demotion ended. -/
def objEnded (o : Obj) : Obj :=
  { o with pendA := false, pendB := false, demoting := false, donePages := 0, doneA := 0, extDone := [], extNext := 0,
           miredA := false, miredB := false, writeback := false, extRetry := [], jobs := [] }

/-- A tier-engine reset; the rows in the fill buses' crossings are discarded with the transfers in flight (R577).
Generations stay (R399; DEDUCED, log entry 129). -/
def tierReset (s : State) : State :=
  let cmds := tierCmds s
  let rows := (s.lodes.map fun l => (l.2.inflight.map fun t => t.rows.length).sum).sum
  let s := xingFlush (inCrossings s 0 rows).length s
  let s := (s.lodes.map (·.1)).foldl (fun s l => lodeFree l s) s
  let s := { s with objs := mapVals {} objEnded s.objs, arms := [], flash := [], cache := [], lodeSample := [], staleSeen := [] }
  let s := setReg 0x601C 0#32 (setReg 0x6020 0#32 (setReg 0x6024 0#32 s))
  cmds.foldl (fun s c => replyWith c stRefusedConfig true 0xFD s)
    (modPlant (fun x => { x with tierResetUntil := some (s.now + 10 * unitsUs) }) s)

/-- RST_CTRL_TIER: ignored and logged while a plan is loaded. -/
def execRstCtrlTier (s : State) : Host.Outcome State Fault Refusal :=
  .next (if (plansOf s).isEmpty then tierReset s else logAdd lkPwrDomainBusy 0x300 [0xC004] s)

/-- TIER_ENGINE_RESET_END: 10 µs after its start. -/
def execTierEngineResetEnd (s : State) : Host.Outcome State Fault Refusal :=
  match s.plant.tierResetUntil with
  | none => .next s
  | some t => .next (modPlant (fun x => { x with tierResetUntil := none }) (advanceTo t s))

/-! ## Warm reset (R580, R596) -/

/-- The register offsets that a warm reset keeps in the register file (Table 16-4). -/
def warmKept (off : Nat) : Bool :=
  match fenAt off with
  | some (_, o) => o ∈ [0x300, 0x304, 0x308, 0x30C, 0x700]
  | none => off ∈ [0x4000, 0x400C, 0xB108, 0xB10C, 0xB110, 0xD038, 0xD03C]

/-- The power state that start-up gives a pfen: ON with a logical number, IDLE as a hot spare, else OFF (R583, R560). -/
def startPwr (s : State) (p : Nat) : PwrSt :=
  let x := (fenOf s p).life
  if (logicalOf s p).isSome then .on
  else if p % 9 = 8 ∧ !x.retired ∧ !x.bistFailed ∧ !x.disabled then .idle else .off

/-- The planes of a fen that a reset leaves undefined, numbered from `id`. -/
def freshPlanes (id : Nat) : SMap ArrayState :=
  (List.range 4).map fun a => (a, { front := { id := id + 2 * a }, back := { id := id + 2 * a + 1 } })

/-- A fen after a warm reset: epoch, retirement and fuse marks kept, stale, its tiles INVALID with their entries as they were;
every other SRAM initialised. -/
def fenWarm (s : State) (p : Nat) : Fen :=
  let f := fenOf s p
  { tiles := if f.pwr.st = .off then [] else mapVals {} (fun t => { ent := t.ent, err := t.err }) f.tiles,
    arrays := freshPlanes (s.free + 8 * p),
    pwr := { st := startPwr s p },
    life := { epoch := f.life.epoch, retired := f.life.retired, disabled := f.life.disabled, bistFailed := f.life.bistFailed } }

/-- Each pfen is stale from a block reset on (R545). -/
def allStale (s : State) : State := (List.range 72).foldl (fun s p => makeStale p staleBlockReset s) s

/-- A causeway after a block reset: OFF, FRESH, remembering whether it was enabled (R489). -/
def cwWarm (c : Nat) (x : Causeway) : Causeway := { role := if c = 0 then 0 else if c = 1 then 1 else 4, enabled := decide (x.st ≠ .off) }

/-- The plant after a warm reset. -/
def plantWarm (s : State) (cause : BitVec 3) : Plant :=
  let x := s.plant
  { step := 1, pll0 := x.pll0 || !x.pll1, pll1 := x.pll1 || !x.pll0, mkLock := x.mkLock, pllActive := x.pllActive,
    genActive := x.genActive, genSpareOk := x.genSpareOk, treeActive := x.treeActive, core := s.mbox.coreNext, cacheUp := true,
    tierUp := true, resetCause := cause, resetUntil := some (s.now + 2 * unitsMs), fuses := x.fuses, bist := x.bist }

/-- The block under a warm reset: what R580 keeps, and the reset values of the rest. -/
def warmReset (cause : BitVec 3) (s : State) : State :=
  let r := { State.reset with
    pending := s.pending, now := s.now, ck := s.ck, out := s.out, free := s.free + 576,
    fens := tab 72 fun p => (p, fenWarm s p), regs := s.regs.filter fun e => warmKept e.1, log := s.log,
    spareMap := s.spareMap, mapGen := s.mapGen, spareFens := s.spareFens, spareTree := s.spareTree, spareCore := s.spareCore,
    spareWay := s.spareWay, spareTa := s.spareTa, retiredWay := s.retiredWay, wayPending := s.wayPending,
    tierA := s.tierA, tierB := s.tierB, objs := mapVals {} (fun o => { epoch := o.epoch }) s.objs,
    lodes := mapVals {} (fun l => { gen := l.gen }) s.lodes,
    cws := [0, 1, 2].map fun c => (c, cwWarm c (cwOf s c)),
    mbox := { coreNext := s.mbox.coreNext }, plant := plantWarm s cause }
  allStale r

/-- RST_CTRL_WARM. -/
def execRstCtrlWarm (s : State) : Host.Outcome State Fault Refusal := .next (warmReset 2 s)

/-- WARM_RESET_INPUT. -/
def execWarmResetInput (s : State) : Host.Outcome State Fault Refusal := .next (warmReset 3 s)

/-- WARM_RESET_END: 2 ms after its start; the links that were enabled train. -/
def execWarmResetEnd (s : State) : Host.Outcome State Fault Refusal :=
  match s.plant.resetUntil with
  | none => .next s
  | some t =>
    let s := modPlant (fun x => { x with resetUntil := none }) (advanceTo t s)
    .next ([0, 1, 2].foldl (fun s c =>
      let x := cwOf s c
      let s := modCw c (fun x => { x with enabled := false }) s
      if x.enabled ∧ x.role ≠ 4 then trainBegin c .training false s else s) s)

/-! ## Cold reset and start-up (R582, R583, Table 15-8) -/

/-- BLOCK_COLD_RESET: by module power-on, or by the host's cold-reset input, which leaves the memory of tiers A and B. -/
def execBlockColdReset (input : Bool) (s : State) : Host.Outcome State Fault Refusal :=
  let r := { State.reset with pending := s.pending, now := s.now, ck := s.ck, out := s.out, free := s.free,
                              tierA := if input then s.tierA else [], tierB := if input then s.tierB else [] }
  .next (modPlant (fun x => { x with resetCause := if input then 1 else 0 }) r)

/-- STARTUP_CLOCK_LOCK: step 2. -/
def execStartupClockLock (s : State) : Host.Outcome State Fault Refusal :=
  if s.plant.step ≠ 1 ∨ s.plant.mkLock then .next s
  else .next (startDone 2 (modPlant (fun x => { x with pll0 := true, pll1 := true, mkLock := true }) s))

/-- Repair records into the fen windows: arrays by 4 · pfen + array, special-function units by pfen. Reserved bits read 0
(Tables 3-12 and 6-13). -/
def setRepairs (arr sfu : List (Nat × BitVec 32)) (s : State) : State :=
  let s := arr.foldl (fun s x => setFenReg (x.1 / 4) (0x300 + 4 * (x.1 % 4)) (x.2 &&& 0xFFFFFF#32) s) s
  sfu.foldl (fun s x => setFenReg x.1 0x700 (x.2 &&& 0xFFFFFFF#32) s) s

/-- The first `k` of a list in fields of `w` bits from bit `lo` on, a field without one holding all ones. -/
def packBad (l : List Nat) (lo w k : Nat) : Nat :=
  ((List.range k).map fun j => (l[j]?).getD (2 ^ w - 1) * 2 ^ (lo + w * j)).sum

/-- What a repair record and BIST name bad together, ascending. -/
def joinBad (old new : List Nat) (n : Nat) : List Nat := (List.range n).filter fun i => old.contains i || new.contains i

/-- What BIST found in array `a` of a pfen, joined with what its record names: rows and columns. -/
def bistArray (b : Bist) (s : State) (p a : Nat) : List Nat × List Nat :=
  let v := fenReg s p (0x300 + 4 * a)
  let l := b.arrBad.filter fun x => decide (x.1 = 4 * p + a)
  (joinBad (namedBad v 0 6 2 34) (l.flatMap fun x => x.2.1.map (·.val)) 34,
   joinBad (namedBad v 12 6 2 34) (l.flatMap fun x => x.2.2.map (·.val)) 34)

/-- What BIST found in a pfen's special-function unit, joined with what its record names. -/
def bistLanes (b : Bist) (s : State) (p : Nat) : List Nat :=
  joinBad (namedBad (fenReg s p 0x700) 0 7 4 68)
    ((b.sfuBad.filter fun x => decide (x.1 = p)).flatMap fun x => x.2.map (·.val)) 68

/-- Whether a pfen fails BIST: a macro with more than 4 bad rows, an array with more than two bad rows or columns, a unit with
more than four bad lanes (R583, R133, R229). -/
def bistFails (b : Bist) (s : State) (p : Nat) : Bool :=
  b.failed.getLsbD p || decide (4 < (bistLanes b s p).length)
    || (List.range 4).any fun a => decide (2 < (bistArray b s p a).1.length ∨ 2 < (bistArray b s p a).2.length)

/-- The repair records that BIST assigns to a pfen (Table 15-8 step 4). -/
def bistRecords (b : Bist) (s : State) (p : Nat) : List (Nat × BitVec 32) × List (Nat × BitVec 32) :=
  ((List.range 4).map fun a =>
     (4 * p + a, BitVec.ofNat 32 (packBad (bistArray b s p a).1 0 6 2 + packBad (bistArray b s p a).2 12 6 2)),
   [(p, BitVec.ofNat 32 (packBad (bistLanes b s p) 0 7 4))])

/-- FUSE_LOAD: step 3. -/
def execFuseLoad (f : Fuses) (s : State) : Host.Outcome State Fault Refusal :=
  if s.plant.step ≠ 2 then .next s
  else
    let s := setRepairs f.arrRepair f.sfuRepair (modPlant (fun x => { x with fuses := some f }) s)
    let s := (List.range 72).foldl (fun s p => modFen p (fun x => { x with life := { x.life with disabled := f.disable.getLsbD p } }) s) s
    .next (startDone 3 { s with retiredWay := f.retiredWay, spareWay := decide (f.retiredWay = 31), spareTa := f.spareTaPorts })

/-- STARTUP_BIST: step 4; every SRAM is initialised, and what BIST finds is recorded. -/
def execStartupBist (b : Bist) (s : State) : Host.Outcome State Fault Refusal :=
  if s.plant.step ≠ 3 then .next s
  else
    let s := modPlant (fun x =>
      { x with bist := some b, genSpareOk := b.tempoOk,
               pll0 := x.pll0 && (b.pllOk || !x.pllActive), pll1 := x.pll1 && (b.pllOk || x.pllActive) }) s
    let s := (List.range 72).foldl (fun s p =>
      let r := bistRecords b s p
      modFen p (fun x => { x with life := { x.life with bistFailed := bistFails b s p } }) (setRepairs r.1 r.2 s)) s
    .next (startDone 4 { s with spareTree := b.treeOk, spareCore := b.coreOk })

/-- The pfen of a logical fen under R7, as the fuse remaps modify it. -/
def mapDefault (remaps : List (Fin 64 × Fin 72)) (n : Nat) : Nat :=
  match remaps.find? fun r => decide (r.1.val = n) with
  | some r => r.2.val
  | none => 9 * (n / 8) + n % 8

/-- R583 for the logical fens in ascending order, `taken` being the pfens given so far. -/
def mapBuild (remaps : List (Fin 64 × Fin 72)) (good : Nat → Bool) : List Nat → List Nat → List (Nat × Option Nat)
  | [], _ => []
  | n :: l, taken =>
    let d := mapDefault remaps n
    if good d && !taken.contains d then (n, some d) :: mapBuild remaps good l (d :: taken)
    else match (List.range 8).find? fun r => good (9 * r + 8) && !taken.contains (9 * r + 8) with
      | some r => (n, some (9 * r + 8)) :: mapBuild remaps good l ((9 * r + 8) :: taken)
      | none => mapBuild remaps good l taken

/-- A cache macro that failed BIST retires its way. -/
def bistWay (b : Option Bist) (s : State) : State :=
  match b.bind (·.failedWay) with
  | some w =>
    let s := logAdd lkBistFail 0x300 [w.val, 1] s
    if s.spareWay then { s with retiredWay := BitVec.ofNat 5 w.val, spareWay := false } else s
  | none => s

/-- SPARE_MAP_BUILD: step 5. -/
def execSpareMapBuild (s : State) : Host.Outcome State Fault Refusal :=
  if s.plant.step ≠ 4 then .next s
  else
    let s := ((List.range 72).filter fun p => (fenOf s p).life.bistFailed).foldl (fun s p => logAdd lkBistFail p [p, 0] s) s
    let s := bistWay s.plant.bist s
    let good (p : Nat) : Bool := let x := (fenOf s p).life; !x.bistFailed && !x.disabled
    let remaps := match s.plant.fuses with
      | some f => f.remaps
      | none => []
    let m := mapBuild remaps good (List.range 64) []
    let spares := (List.range 8).filter fun r => good (9 * r + 8) && !(m.any fun e => decide (e.2 = some (9 * r + 8)))
    let s := { s with spareMap := m, mapGen := 0, spareFens := spares.length }
    let s := (List.range 72).foldl (fun s p => modFen p (fun f =>
      { f with pwr := { st := startPwr s p }, arrays := freshPlanes (s.free + 8 * p) }) s) s
    let s := modPlant (fun x => { x with cacheUp := true, tierUp := true }) { s with free := s.free + 576 }
    .next (startDone 5 (allStale s))

end Sys2Proof.Machine
end

