-- ==== Sys2Proof/Machine/Stalemate.lean ====
section
/-!
DEFINITION. The stalemate detector (R411, R412, R417). A party is a pfen p, or 1000 + l for lode l.
-/

namespace Sys2Proof.Machine

/-- The lodes whose transfers write what a tag or counter WAIT of logical fen `n` tests. -/
def lodesFeeding (s : State) (n : Nat) (w : WaitOn) : List Nat :=
  (s.lodes.filter fun l => !lodeGone l.2 && lodeChanges l.2 n w).map fun l => 1000 + l.1

/-- The local writers of the object of a WAIT. -/
def writersOf (s : State) (p n : Nat) (w : WaitOn) : List Nat :=
  lodesFeeding s n w ++ match w with
    | .counter g _ _ _ => sendersTo s n g
    | .tag b slot false => sendersAt s n b slot
    | .credit l _ =>
      let x := mapGet {} (fenOf s p).img.links l
      if x.hasNext then (pfenOf s x.nextFen).toList else []
    | _ => []

/-- The CK of the last change of a WAIT's object. -/
def objectSince (f : Fen) : WaitOn → Nat
  | .tag b slot _ => (tagOf f b slot).since
  | .counter g _ _ _ => (counterOf f g).since
  | .credit l _ => (mapGet {} f.img.links l).creditAt
  | _ => 0

/-- The time at which CK `c` began. -/
def timeOfCk (s : State) (c : Nat) : Nat := s.now - unitsCk * (s.ck - c)

/-- A stalled fen's writers and the time of its last progress; `none` for a fen that is not stalled, or that waits on what
comes from outside the block (R412). -/
def fenParty (s : State) (p : Nat) : Option (List Nat × Nat) :=
  let f := fenOf s p
  let d := waitingDesc f
  match f.seq.st, waitOn d, logicalOf s p with
  | .waiting, some w, some n =>
    if waitSluice d || remoteFed s p n w then none
    else some (writersOf s p n w, timeOfCk s (max f.seq.waitFrom (objectSince f w)))
  | _, _, _ => none

/-- The slots whose tags hold a lode's next transfer back. -/
def slotsAwaited (x : Lode) (f : Fen) (b : BufId) : List Nat :=
  ((lodePlace x).2.1.map fun k => ldSlot x.desc + k).filter fun k => (tagOf f b k).full = ldRead x.desc

/-- A BLOCKED lode's fens and the time of its last progress. -/
def lodeParty (s : State) (l : Nat) : Option (List Nat × Nat) :=
  let x := lodeOf s l
  match lodePfen s x, ldBuf x.desc with
  | some p, some b =>
    if lodeReady s x && !tagsAllow s p x then
      let f := fenOf s p
      let slots := slotsAwaited x f b
      let tags := f.img.imem.any fun e => slots.any fun k => [0, 1, 2].any fun kind => bundleTags e.2 kind b k
      some (if tags then [p] else [], max (x.issuedAt.getD 0) (timeOfCk s ((slots.map fun k => (tagOf f b k).since).foldl max 0)))
    else none
  | _, _ => none

/-- The blocked parties with what they point to and their last progress. -/
def blockedParties (s : State) : List (Nat × List Nat × Nat) :=
  ((s.fens.map (·.1)).filterMap fun p => (fenParty s p).map fun x => (p, x))
    ++ (s.lodes.map (·.1)).filterMap fun l => (lodeParty s l).map fun x => (1000 + l, x)

/-- What a set of parties reaches in `n` steps, itself not counted unless reached. -/
def reachFrom (g : List (Nat × List Nat × Nat)) : Nat → List Nat → List Nat
  | 0, seen => seen
  | n + 1, seen =>
    let more := ((g.filter fun x => seen.contains x.1).map fun x => x.2.1).flatten
    reachFrom g n (seen ++ more.filter fun y => !seen.contains y && g.any fun x => decide (x.1 = y)).eraseDups

/-- The parties that a party reaches. -/
def reachOf (g : List (Nat × List Nat × Nat)) (x : Nat × List Nat × Nat) : List Nat :=
  reachFrom g g.length (x.2.1.filter fun y => g.any fun z => decide (z.1 = y))

/-- The cycle through a party: the parties that it reaches and that reach it. -/
def cycleOf (g : List (Nat × List Nat × Nat)) (x : Nat × List Nat × Nat) : List Nat :=
  let r := reachOf g x
  if r.contains x.1 then (g.filter fun y => r.contains y.1 && (reachOf g y).contains x.1).map (·.1) else []

/-- The first cycle that has not been reported, and the time of the last progress in it. -/
def staleCycle (s : State) : Option (List Nat × Nat) :=
  let g := blockedParties s
  let l := (g.map fun x => cycleOf g x).filter fun c => decide (c ≠ []) && !s.staleSeen.contains c
  l.head?.map fun c => (c, (g.filter fun x => c.contains x.1).foldl (fun m x => max m x.2.2) 0)

/-- STALE_INFO for the logical fens of a cycle, in ascending order (Table 10-15). -/
def staleInfo (fens : List Nat) : Word :=
  BitVec.ofNat 32 (1 + ((fens.take 3).zipIdx.map fun x => (x.1 + 64) * 2 ^ (8 + 7 * x.2)).sum)

/-- A pair of lodes as STALE_LODES_A and B hold them. -/
def staleLodes (l : List Nat) : Nat := ((l.take 2).zipIdx.map fun x => (x.1 + 1024) * 2 ^ (16 * x.2)).sum

/-- A cycle is recorded. -/
def staleRecord (fens lodes : List Nat) (s : State) : State :=
  let s := eventReg 0x601C (fun _ => staleInfo fens) (setReg 0x6020 (BitVec.ofNat 32 (staleLodes lodes))
    (setReg 0x6024 (BitVec.ofNat 32 (staleLodes (lodes.drop 2) + if 3 < fens.length then 2 ^ 31 else 0)) s))
  (lodes.take 4).foldl (fun s l => modLode l (fun x => { x with code := stStalemate }) s) s

/-- Insert into an ascending list. -/
def insertAsc (n : Nat) : List Nat → List Nat
  | [] => [n]
  | m :: l => if n ≤ m then n :: m :: l else m :: insertAsc n l

/-- STALEMATE_DETECT: a cycle none of whose parties has made progress for PERIOD TK. -/
def execStalemateDetect (s : State) : Host.Outcome State Fault Refusal :=
  match staleCycle s with
  | none => .next s
  | some (c, last) =>
    let s := advanceTo (last + periodUnits s) s
    let fens := ((c.filter (· < 1000)).filterMap (logicalOf s)).foldr insertAsc []
    let lodes := ((c.filter (1000 ≤ ·)).map (· - 1000)).foldr insertAsc []
    let s := if regBit s 0x601C 0 then s else staleRecord fens lodes s
    .next (logAdd lkStalemate 0x200 [(reg s 0x601C).toNat] (bump 0x6028 1 { s with staleSeen := s.staleSeen ++ [c] }))

end Sys2Proof.Machine
end

