-- ==== Sys2Proof/Machine/Dispatch.lean ====
section
/-!
DEFINITION. exec: one arm for each constructor of Instr, one direct call of its meaning in each.
-/

namespace Sys2Proof.Machine

def exec (i : Instr) (s : State) : Host.Outcome State Fault Refusal :=
  match i with
  | .nop q opcode p => Sys2Proof.Machine.execNop q opcode p s
  | .cmdFetchErr q => Sys2Proof.Machine.execCmdFetchErr q s
  | .query q p => Sys2Proof.Machine.execQuery q p s
  | .loadPlan q p => Sys2Proof.Machine.execLoadPlan q p s
  | .planImageFetched img => Sys2Proof.Machine.execPlanImageFetched img s
  | .unloadPlan q p => Sys2Proof.Machine.execUnloadPlan q p s
  | .commit q p => Sys2Proof.Machine.execCommit q p s
  | .armLode q p => Sys2Proof.Machine.execArmLode q p s
  | .rearmLode q p bases => Sys2Proof.Machine.execRearmLode q p bases s
  | .haltLode q p => Sys2Proof.Machine.execHaltLode q p s
  | .streamOpen q p => Sys2Proof.Machine.execStreamOpen q p s
  | .streamClose q p => Sys2Proof.Machine.execStreamClose q p s
  | .streamReset q p => Sys2Proof.Machine.execStreamReset q p s
  | .stateMove q p => Sys2Proof.Machine.execStateMove q p s
  | .promote q p => Sys2Proof.Machine.execPromote q p s
  | .demote q p => Sys2Proof.Machine.execDemote q p s
  | .holdObject q p => Sys2Proof.Machine.execHoldObject q p s
  | .releaseObject q p => Sys2Proof.Machine.execReleaseObject q p s
  | .tempoStart q p => Sys2Proof.Machine.execTempoStart q p s
  | .tempoStop q p => Sys2Proof.Machine.execTempoStop q p s
  | .tempoHold q p => Sys2Proof.Machine.execTempoHold q p s
  | .snapshot q p => Sys2Proof.Machine.execSnapshot q p s
  | .restore q p => Sys2Proof.Machine.execRestore q p s
  | .restoreLoadDone => Sys2Proof.Machine.execRestoreLoadDone s
  | .compare q p => Sys2Proof.Machine.execCompare q p s
  | .compareDone => Sys2Proof.Machine.execCompareDone s
  | .fenRetire q p => Sys2Proof.Machine.execFenRetire q p s
  | .fenAdmit q p => Sys2Proof.Machine.execFenAdmit q p s
  | .fenPower q p => Sys2Proof.Machine.execFenPower q p s
  | .linkTrain q p => Sys2Proof.Machine.execLinkTrain q p s
  | .linkRole q p => Sys2Proof.Machine.execLinkRole q p s
  | .flashQueueBind q p => Sys2Proof.Machine.execFlashQueueBind q p s
  | .setMode q p => Sys2Proof.Machine.execSetMode q p s
  | .objCreate epoch => Sys2Proof.Machine.execObjCreate epoch s
  | .objDestroy epoch => Sys2Proof.Machine.execObjDestroy epoch s
  | .objRenew epoch => Sys2Proof.Machine.execObjRenew epoch s
  | .promotionExtentComplete o ext => Sys2Proof.Machine.execPromotionExtentComplete o ext s
  | .demoteProceed o => Sys2Proof.Machine.execDemoteProceed o s
  | .demoteWritebackDone w => Sys2Proof.Machine.execDemoteWritebackDone w s
  | .demoteTimeout o => Sys2Proof.Machine.execDemoteTimeout o s
  | .cqEnable q logE => Sys2Proof.Machine.execCqEnable q logE s
  | .cqDisable q logE => Sys2Proof.Machine.execCqDisable q logE s
  | .cqDoorbellWrite q v => Sys2Proof.Machine.execCqDoorbellWrite q v s
  | .rqHeadWrite q v => Sys2Proof.Machine.execRqHeadWrite q v s
  | .errPopWrite => Sys2Proof.Machine.execErrPopWrite s
  | .rcRegisterRead off => Sys2Proof.Machine.execRcRegisterRead off s
  | .latchedPairRead pair => Sys2Proof.Machine.execLatchedPairRead pair s
  | .lodeStatSample => Sys2Proof.Machine.execLodeStatSample s
  | .countCurSample p => Sys2Proof.Machine.execCountCurSample p s
  | .objDataSample => Sys2Proof.Machine.execObjDataSample s
  | .registerWrite off v => Sys2Proof.Machine.execRegisterWrite off v s
  | .rstFenWrite v => Sys2Proof.Machine.execRstFenWrite v s
  | .fenResetEnd p => Sys2Proof.Machine.execFenResetEnd p s
  | .rstCtrlWarm => Sys2Proof.Machine.execRstCtrlWarm s
  | .warmResetInput => Sys2Proof.Machine.execWarmResetInput s
  | .warmResetEnd => Sys2Proof.Machine.execWarmResetEnd s
  | .rstCtrlTier => Sys2Proof.Machine.execRstCtrlTier s
  | .rstCtrlCw c => Sys2Proof.Machine.execRstCtrlCw c s
  | .blockColdReset input => Sys2Proof.Machine.execBlockColdReset input s
  | .startupClockLock => Sys2Proof.Machine.execStartupClockLock s
  | .fuseLoad f => Sys2Proof.Machine.execFuseLoad f s
  | .startupBist b => Sys2Proof.Machine.execStartupBist b s
  | .spareMapBuild => Sys2Proof.Machine.execSpareMapBuild s
  | .pwrDomainCacheOn on => Sys2Proof.Machine.execPwrDomainCacheOn on s
  | .pwrDomainTierOn on => Sys2Proof.Machine.execPwrDomainTierOn on s
  | .domainPowerUpDone tier => Sys2Proof.Machine.execDomainPowerUpDone tier s
  | .tbRankPwrWrite v => Sys2Proof.Machine.execTbRankPwrWrite v s
  | .rankFenceExpiry r => Sys2Proof.Machine.execRankFenceExpiry r s
  | .rankDrainEnd r => Sys2Proof.Machine.execRankDrainEnd r s
  | .rankWakeDone r => Sys2Proof.Machine.execRankWakeDone r s
  | .fwBegin => Sys2Proof.Machine.execFwBegin s
  | .fwEnd => Sys2Proof.Machine.execFwEnd s
  | .fwCheckDone => Sys2Proof.Machine.execFwCheckDone s
  | .coreSelect => Sys2Proof.Machine.execCoreSelect s
  | .abort => Sys2Proof.Machine.execAbort s
  | .mbDataAccess write => Sys2Proof.Machine.execMbDataAccess write s
  | .mbAddrLoWrite v => Sys2Proof.Machine.execMbAddrLoWrite v s
  | .mbToCoreWrite v => Sys2Proof.Machine.execMbToCoreWrite v s
  | .ckPllLockLoss => Sys2Proof.Machine.execCkPllLockLoss s
  | .clockSwitchDone => Sys2Proof.Machine.execClockSwitchDone s
  | .tempoGenLockLoss => Sys2Proof.Machine.execTempoGenLockLoss s
  | .fatalError cause => Sys2Proof.Machine.execFatalError cause s
  | .droopDetect p monitor deep => Sys2Proof.Machine.execDroopDetect p monitor deep s
  | .stretchWindowEnd droopPersists => Sys2Proof.Machine.execStretchWindowEnd droopPersists s
  | .railReadingUpdate v => Sys2Proof.Machine.execRailReadingUpdate v s
  | .railStaleTimeout => Sys2Proof.Machine.execRailStaleTimeout s
  | .sensorSample fens others => Sys2Proof.Machine.execSensorSample fens others s
  | .heronUpdate => Sys2Proof.Machine.execHeronUpdate s
  | .tempoBoundaryDue => Sys2Proof.Machine.execTempoBoundaryDue s
  | .boundaryActions => Sys2Proof.Machine.execBoundaryActions s
  | .fenSegmentEnd p => Sys2Proof.Machine.execFenSegmentEnd p s
  | .tempoMarkerSend => Sys2Proof.Machine.execTempoMarkerSend s
  | .tempoFrameReceive c lane f => Sys2Proof.Machine.execTempoFrameReceive c lane f s
  | .holdFrameReceive c lane f => Sys2Proof.Machine.execHoldFrameReceive c lane f s
  | .ringHoldTimeout => Sys2Proof.Machine.execRingHoldTimeout s
  | .sluiceSlackExpiry p => Sys2Proof.Machine.execSluiceSlackExpiry p s
  | .stalemateDetect => Sys2Proof.Machine.execStalemateDetect s
  | .bundleFetch p => Sys2Proof.Machine.execBundleFetch p s
  | .imemScrub p => Sys2Proof.Machine.execImemScrub p s
  | .cnop p => Sys2Proof.Machine.execCnop p s
  | .wait p desc => Sys2Proof.Machine.execWait p desc s
  | .waitPass p => Sys2Proof.Machine.execWaitPass p s
  | .loop p level len => Sys2Proof.Machine.execLoop p level len s
  | .brsel p slot => Sys2Proof.Machine.execBrsel p slot s
  | .jump p target => Sys2Proof.Machine.execJump p target s
  | .endSegment p => Sys2Proof.Machine.execEndSegment p s
  | .anop p => Sys2Proof.Machine.execAnop p s
  | .tload p op => Sys2Proof.Machine.execTload p op s
  | .tloadReadStart p => Sys2Proof.Machine.execTloadReadStart p s
  | .tmul p op => Sys2Proof.Machine.execTmul p op s
  | .arrayResultWrite p fault => Sys2Proof.Machine.execArrayResultWrite p fault s
  | .topa p h => Sys2Proof.Machine.execTopa p h s
  | .tdecay p h dax => Sys2Proof.Machine.execTdecay p h dax s
  | .tscale p h dax => Sys2Proof.Machine.execTscale p h dax s
  | .tread p h axis dst => Sys2Proof.Machine.execTread p h axis dst s
  | .tstep p h dax axis dst => Sys2Proof.Machine.execTstep p h dax axis dst s
  | .stateEntryWrite p fault => Sys2Proof.Machine.execStateEntryWrite p fault s
  | .vnop p => Sys2Proof.Machine.execVnop p s
  | .vAnd p h => Sys2Proof.Machine.execVAnd p h s
  | .vOr p h => Sys2Proof.Machine.execVOr p h s
  | .vXor p h => Sys2Proof.Machine.execVXor p h s
  | .vAndn p h => Sys2Proof.Machine.execVAndn p h s
  | .vNot p h => Sys2Proof.Machine.execVNot p h s
  | .shl p h imm => Sys2Proof.Machine.execShl p h imm s
  | .shr p h imm => Sys2Proof.Machine.execShr p h imm s
  | .sar p h imm => Sys2Proof.Machine.execSar p h imm s
  | .iadd p h w wrap => Sys2Proof.Machine.execIadd p h w wrap s
  | .isub p h w wrap => Sys2Proof.Machine.execIsub p h w wrap s
  | .imin p h w => Sys2Proof.Machine.execImin p h w s
  | .imax p h w => Sys2Proof.Machine.execImax p h w s
  | .iabs p h w => Sys2Proof.Machine.execIabs p h w s
  | .imul p h w => Sys2Proof.Machine.execImul p h w s
  | .fadd p h zclamp => Sys2Proof.Machine.execFadd p h zclamp s
  | .fsub p h zclamp => Sys2Proof.Machine.execFsub p h zclamp s
  | .fmul p h => Sys2Proof.Machine.execFmul p h s
  | .fmin p h => Sys2Proof.Machine.execFmin p h s
  | .fmax p h => Sys2Proof.Machine.execFmax p h s
  | .fabs p h => Sys2Proof.Machine.execFabs p h s
  | .fneg p h => Sys2Proof.Machine.execFneg p h s
  | .fma p h vc zclamp => Sys2Proof.Machine.execFma p h vc zclamp s
  | .lcomp p h => Sys2Proof.Machine.execLcomp p h s
  | .lmin p h => Sys2Proof.Machine.execLmin p h s
  | .lmax p h => Sys2Proof.Machine.execLmax p h s
  | .cmp p h cond ty => Sys2Proof.Machine.execCmp p h cond ty s
  | .pand p h => Sys2Proof.Machine.execPand p h s
  | .por p h => Sys2Proof.Machine.execPor p h s
  | .pxor p h => Sys2Proof.Machine.execPxor p h s
  | .pnot p h => Sys2Proof.Machine.execPnot p h s
  | .sel p h ps => Sys2Proof.Machine.execSel p h ps s
  | .vbcast p h kind idx => Sys2Proof.Machine.execVbcast p h kind idx s
  | .vperm p h => Sys2Proof.Machine.execVperm p h s
  | .trn p h => Sys2Proof.Machine.execTrn p h s
  | .red p h op ext ty => Sys2Proof.Machine.execRed p h op ext ty s
  | .pfx p h op ext ty marks => Sys2Proof.Machine.execPfx p h op ext ty marks s
  | .cvt p h d src => Sys2Proof.Machine.execCvt p h d src s
  | .act p h a d => Sys2Proof.Machine.execAct p h a d s
  | .sfn p h pr d => Sys2Proof.Machine.execSfn p h pr d s
  | .epi p h desc => Sys2Proof.Machine.execEpi p h desc s
  | .nrmKmax p h src fmt row clr => Sys2Proof.Machine.execNrmKmax p h src fmt row clr s
  | .nrmSq p h src fmt row => Sys2Proof.Machine.execNrmSq p h src fmt row s
  | .nrmFin p h row part merge => Sys2Proof.Machine.execNrmFin p h row part merge s
  | .nrmApply p h src fmt row => Sys2Proof.Machine.execNrmApply p h src fmt row s
  | .smxOnline p h quarter => Sys2Proof.Machine.execSmxOnline p h quarter s
  | .smxOnlineFin p h quarter => Sys2Proof.Machine.execSmxOnlineFin p h quarter s
  | .smxRangePass0 p h quarter clr => Sys2Proof.Machine.execSmxRangePass0 p h quarter clr s
  | .smxRangePass1 p h quarter => Sys2Proof.Machine.execSmxRangePass1 p h quarter s
  | .summary p h decision op => Sys2Proof.Machine.execSummary p h decision op s
  | .vectorResultWrite p fault => Sys2Proof.Machine.execVectorResultWrite p fault s
  | .sfuResultWrite p fault => Sys2Proof.Machine.execSfuResultWrite p fault s
  | .mnop p => Sys2Proof.Machine.execMnop p s
  | .vld p v m pt inc fmt g => Sys2Proof.Machine.execVld p v m pt inc fmt g s
  | .vst p v m pt inc fmt g => Sys2Proof.Machine.execVst p v m pt inc fmt g s
  | .pset p pt buf slot row => Sys2Proof.Machine.execPset p pt buf slot row s
  | .tagSetFull p buf slot => Sys2Proof.Machine.execTagSetFull p buf slot s
  | .tagSetEmpty p buf slot => Sys2Proof.Machine.execTagSetEmpty p buf slot s
  | .tagReleaseChain p buf slot link => Sys2Proof.Machine.execTagReleaseChain p buf slot link s
  | .send p pt rows route => Sys2Proof.Machine.execSend p pt rows route s
  | .sendBegin p => Sys2Proof.Machine.execSendBegin p s
  | .maskld p m rp cp => Sys2Proof.Machine.execMaskld p m rp cp s
  | .cpush p amask depth base => Sys2Proof.Machine.execCpush p amask depth base s
  | .cpull p amask depth add vbase => Sys2Proof.Machine.execCpull p amask depth add vbase s
  | .cset p scan vbase abs ret => Sys2Proof.Machine.execCset p scan vbase abs ret s
  | .lcset p level count => Sys2Proof.Machine.execLcset p level count s
  | .networkRowDelivery p => Sys2Proof.Machine.execNetworkRowDelivery p s
  | .chainCreditArrival p link => Sys2Proof.Machine.execChainCreditArrival p link s
  | .summaryFlitArrival p => Sys2Proof.Machine.execSummaryFlitArrival p s
  | .selectSlotWrite n decision => Sys2Proof.Machine.execSelectSlotWrite n decision s
  | .leafPushReceive p array fault => Sys2Proof.Machine.execLeafPushReceive p array fault s
  | .nodeUp node st fault => Sys2Proof.Machine.execNodeUp node st fault s
  | .rootAggregate st fault => Sys2Proof.Machine.execRootAggregate st fault s
  | .nodeDown node st fault => Sys2Proof.Machine.execNodeDown node st fault s
  | .leafDelivery n st fault => Sys2Proof.Machine.execLeafDelivery n st fault s
  | .ringCarryReceive x => Sys2Proof.Machine.execRingCarryReceive x s
  | .ringHBroadcast x => Sys2Proof.Machine.execRingHBroadcast x s
  | .ringCorrection n st fault => Sys2Proof.Machine.execRingCorrection n st fault s
  | .lodeTransferIssue l => Sys2Proof.Machine.execLodeTransferIssue l s
  | .lodeTransferComplete l ret => Sys2Proof.Machine.execLodeTransferComplete l ret s
  | .lodeGenStep l => Sys2Proof.Machine.execLodeGenStep l s
  | .stateScrub p array => Sys2Proof.Machine.execStateScrub p array s
  | .bufferScrub p buf => Sys2Proof.Machine.execBufferScrub p buf s
  | .statePortTransferStart p => Sys2Proof.Machine.execStatePortTransferStart p s
  | .statePortTransferDone p badRows => Sys2Proof.Machine.execStatePortTransferDone p badRows s
  | .snapshotDrainComplete => Sys2Proof.Machine.execSnapshotDrainComplete s
  | .twinMissingTimeout => Sys2Proof.Machine.execTwinMissingTimeout s
  | .fenFenceEnd p => Sys2Proof.Machine.execFenFenceEnd p s
  | .fenDrainEnd p => Sys2Proof.Machine.execFenDrainEnd p s
  | .fenPowerTransitionDone p retentionFault => Sys2Proof.Machine.execFenPowerTransitionDone p retentionFault s
  | .flashExtentIssue o => Sys2Proof.Machine.execFlashExtentIssue o s
  | .flashPollTick q cqes => Sys2Proof.Machine.execFlashPollTick q cqes s
  | .flashSlowTimeout q cid => Sys2Proof.Machine.execFlashSlowTimeout q cid s
  | .frameSlotTransmit c lane => Sys2Proof.Machine.execFrameSlotTransmit c lane s
  | .creditFrameReceive c lane f => Sys2Proof.Machine.execCreditFrameReceive c lane f s
  | .dataFrameReceive c lane f => Sys2Proof.Machine.execDataFrameReceive c lane f s
  | .carryFrameReceive c lane f => Sys2Proof.Machine.execCarryFrameReceive c lane f s
  | .digestFrameReceive c lane f => Sys2Proof.Machine.execDigestFrameReceive c lane f s
  | .capsReceive c lane f => Sys2Proof.Machine.execCapsReceive c lane f s
  | .echoReceive c lane f => Sys2Proof.Machine.execEchoReceive c lane f s
  | .echoReplyReceive c lane f flight => Sys2Proof.Machine.execEchoReplyReceive c lane f flight s
  | .heartbeatReceive c lane f => Sys2Proof.Machine.execHeartbeatReceive c lane f s
  | .moveDoneReceive c lane f => Sys2Proof.Machine.execMoveDoneReceive c lane f s
  | .moveRejectReceive c lane f => Sys2Proof.Machine.execMoveRejectReceive c lane f s
  | .replayTimeout c lane => Sys2Proof.Machine.execReplayTimeout c lane s
  | .nakRepeat c lane => Sys2Proof.Machine.execNakRepeat c lane s
  | .laneFailure c lane why => Sys2Proof.Machine.execLaneFailure c lane why s
  | .trainingPhaseEnd c r => Sys2Proof.Machine.execTrainingPhaseEnd c r s
  | .echoInterval c => Sys2Proof.Machine.execEchoInterval c s
  | .heartbeatTimer => Sys2Proof.Machine.execHeartbeatTimer s
  | .heartbeatLossTimeout c => Sys2Proof.Machine.execHeartbeatLossTimeout c s
  | .treadTstepResultWrite p fault => Sys2Proof.Machine.execTreadTstepResultWrite p fault s
  | .crcFailedFrameReceive c lane n => Sys2Proof.Machine.execCrcFailedFrameReceive c lane n s
  | .stateMoveTierWriteDone sid => Sys2Proof.Machine.execStateMoveTierWriteDone sid s
  | .queryRecordWritten q => Sys2Proof.Machine.execQueryRecordWritten q s
  | .lodeDescriptorFetched l desc => Sys2Proof.Machine.execLodeDescriptorFetched l desc s
  | .tierEngineResetEnd => Sys2Proof.Machine.execTierEngineResetEnd s
  | .causewayResetEnd c => Sys2Proof.Machine.execCausewayResetEnd c s
  | .fabricAttachFault => Sys2Proof.Machine.execFabricAttachFault s
  | .mbFromCoreWrite msg => Sys2Proof.Machine.execMbFromCoreWrite msg s

end Sys2Proof.Machine
end

