-- ==== Sys2Proof/WellFormed.lean ====
section
/-!
DEFINITION. Well-formed commands: the operand values and combinations that the spec allows a row (R13, R329 and the tables of
chapter 09, Tables 12-3 and 16-1). A command that is not well-formed is none that a host, a plan or a link can give.
-/

namespace Sys2Proof

open Sys2Proof.Machine

/-- Registers whose writes have rows of their own: CQ_CTRL, CQ_DOORBELL, RQ_HEAD, ERR_POP, PWR_DOMAIN, TB_RANK_PWR, RST_CTRL,
RST_FEN, MB_ADDR_LO, MB_DATA, MB_TO_CORE, and values of OBJ_CMD and MB_CMD that start an operation. -/
def ownRow (off : Nat) (v : Word) : Bool :=
  (decide (0x2000 ≤ off ∧ off < 0x2400) && decide (off % 0x40 = 0x10 ∨ off % 0x40 = 0x14 ∨ off % 0x40 = 0x18))
    || [0x4008, 0x5004, 0x60C0, 0xC004, 0xC008, 0xD00C, 0xD014, 0xD02C].contains off
    || (decide (off = 0x6064) && decide (v.toNat % 4 ≠ 0))
    || (decide (off = 0xD000) && decide (1 ≤ v.toNat % 16 ∧ v.toNat % 16 ≤ 4))

/-- Fields of a repair record: each names one below `n` or, all ones, none, and two that are set ascend (Tables 3-12, 6-13). -/
def fieldsOk (n none_ : Nat) : List Nat → Bool
  | [] => true
  | x :: l => decide (x < n ∨ x = none_) && l.all (fun y => decide (y = none_ ∨ x = none_ ∨ x < y)) && fieldsOk n none_ l

/-- An array's repair record (Table 3-12). -/
def arrRecordOk (v : BitVec 32) : Bool :=
  fieldsOk 34 0x3F [bitsOf v 5 0, bitsOf v 11 6] && fieldsOk 34 0x3F [bitsOf v 17 12, bitsOf v 23 18] && decide (bitsOf v 31 24 = 0)

/-- A special-function unit's repair record (Table 6-13). -/
def sfuRecordOk (v : BitVec 32) : Bool :=
  fieldsOk 68 0x7F [bitsOf v 6 0, bitsOf v 13 7, bitsOf v 20 14, bitsOf v 27 21] && decide (bitsOf v 31 28 = 0)

/-- Repair records by index, within the count of their kind. -/
def repairOk (l : List (Nat × BitVec 32)) (n : Nat) (ok : BitVec 32 → Bool) : Bool := l.all fun e => decide (e.1 < n) && ok e.2

/-- The rules of R349 on a TLOAD. -/
def tloadFits (op : TLoadOp) : Bool :=
  decide (op.sc = tileScaled op) && decide (op.wslot.val < 384) && decide (op.wrow.val + tileRows op.wfmt ≤ 32)
    && !(op.sc && decide (op.wrow.val ≤ op.srow.val ∧ op.srow.val < op.wrow.val + tileRows op.wfmt))

/-- R351 on the fields that every state operation has. -/
def stHeadOk (h : StHead) : Bool := decide (h.amask ≠ 0) && decide (h.vbase.val ≤ 28)

/-- The three registers of a predicate operation (R353). -/
def predRegs (h : VHead) : Bool := decide (h.vd.val < 8 ∧ h.va.val < 8 ∧ h.vb.val < 8)

/-- The indices that a broadcast takes (Table 9-10). -/
def bcastCount : BcKind → Nat
  | .element => 256
  | .row => 16
  | .column => 16
  | .vector => 8

/-- The types that a reduction's operation takes (Table 9-10). -/
def redTypeOk (op : ROp) (ty : ETy) : Bool :=
  !(decide (op = .sum) && decide (ty ≠ .f32)) && !(decide (op = .lcomp) && decide (ty ≠ .l32))

/-- A conversion that CVT, ACT and SFN take (R67, R354). -/
def cvtFits (d : Cvt) : Bool := cvtLegal d && !d.scale && decide (d.target ≠ .w40)

/-- A source of NRM (R356). -/
def nrmSrcOk (src : NrmSrc) (fmt : Fmt) : Bool := decide (src ≠ .scaled) || fmtScaled fmt

/-- A frame of a type, or of a reserved one (Table 12-3). -/
def frameFits (k : Nat) (f : Frame) : Bool := decide (frameType f = k ∨ 6 < frameType f)

/-- A CTRL frame of a subtype, or of a reserved one (Table 12-5). -/
def ctrlFits (sub : Nat) (f : Frame) : Bool := decide (frameType f = frCtrl ∧ (frameSub f = sub ∨ !subKnown (frameSub f)))

/-- Whether a command is well-formed. -/
def wellFormed (i : Instr) : Bool :=
  match i with
  | .nop _ opcode _ => decide (opcode = 1#8 ∨ opForm opcode.toNat = none)
  | .rcRegisterRead off => decide (off.toNat % 4 = 0) && isRc off.toNat
  | .registerWrite off v => decide (off.toNat % 4 = 0) && !ownRow off.toNat v
  | .fuseLoad f => repairOk f.arrRepair 288 arrRecordOk && repairOk f.sfuRepair 72 sfuRecordOk
  | .startupBist b => b.arrBad.all (fun x => decide (x.1 < 288)) && b.sfuBad.all (fun x => decide (x.1 < 72))
  | .tempoFrameReceive _ _ f => frameFits frTempo f
  | .holdFrameReceive _ _ f => frameFits frHold f
  | .tload _ op => decide (op.amask ≠ 0) && tloadFits op
  | .tmul _ op => decide (op.amask ≠ 0) && decide (op.pass.val < 10) && (!op.asc || fmtScaled (afmtFmt op.afmt))
  | .topa _ h => stHeadOk h
  | .tdecay _ h _ => stHeadOk h
  | .tscale _ h _ => stHeadOk h
  | .tread _ h _ _ => stHeadOk h
  | .tstep _ h _ _ _ => stHeadOk h
  | .cmp _ h _ _ => decide (h.vd.val < 8)
  | .pand _ h => predRegs h
  | .por _ h => predRegs h
  | .pxor _ h => predRegs h
  | .pnot _ h => decide (h.vd.val < 8 ∧ h.va.val < 8)
  | .iadd _ _ w wrap => !wrap || decide (w = .w32)
  | .isub _ _ w wrap => !wrap || decide (w = .w32)
  | .vbcast _ _ kind idx => decide (idx.val < bcastCount kind)
  | .red _ _ op _ ty => redTypeOk op ty
  | .pfx _ _ op _ ty _ => redTypeOk op ty && decide (op ≠ .min)
  | .cvt _ _ d _ => cvtFits d
  | .act _ _ _ d => cvtFits d
  | .sfn _ _ _ d => cvtFits d
  | .nrmKmax _ _ src fmt _ _ => nrmSrcOk src fmt
  | .nrmSq _ _ src fmt _ => nrmSrcOk src fmt
  | .nrmApply _ _ src fmt _ => nrmSrcOk src fmt
  | .summary _ h _ _ => decide (h.vd = 0)
  | .vld _ _ _ _ _ fmt g => vecFmtOk fmt g.val
  | .vst _ _ _ _ _ fmt g => vecFmtOk fmt g.val
  | .pset _ _ buf slot _ => decide (slot.val < bufSlots buf)
  | .tagSetFull _ buf slot => decide (slot.val < bufSlots buf)
  | .tagSetEmpty _ buf slot => decide (slot.val < bufSlots buf)
  | .tagReleaseChain _ buf slot _ => decide (slot.val < bufSlots buf)
  | .maskld _ m _ _ => decide (m ≠ 0)
  | .creditFrameReceive _ _ f => frameFits 0 f
  | .dataFrameReceive _ _ f => frameFits frData f
  | .carryFrameReceive _ _ f => frameFits frCarry f
  | .digestFrameReceive _ _ f => frameFits frDigest f
  | .capsReceive _ _ f => ctrlFits 1 f
  | .echoReceive _ _ f => ctrlFits 2 f
  | .echoReplyReceive _ _ f _ => ctrlFits 3 f
  | .heartbeatReceive _ _ f => ctrlFits 4 f
  | .moveDoneReceive _ _ f => ctrlFits 5 f
  | .moveRejectReceive _ _ f => ctrlFits 6 f
  | .cmdFetchErr .. | .query .. | .loadPlan .. | .planImageFetched .. | .unloadPlan .. | .commit .. | .armLode ..
  | .rearmLode .. | .haltLode .. | .streamOpen .. | .streamClose .. | .streamReset .. | .stateMove .. | .promote ..
  | .demote .. | .holdObject .. | .releaseObject .. | .tempoStart .. | .tempoStop .. | .tempoHold .. | .snapshot ..
  | .restore .. | .restoreLoadDone | .compare .. | .compareDone | .fenRetire .. | .fenAdmit .. | .fenPower .. | .linkTrain ..
  | .linkRole .. | .flashQueueBind .. | .setMode .. | .objCreate .. | .objDestroy .. | .objRenew ..
  | .promotionExtentComplete .. | .demoteProceed .. | .demoteWritebackDone .. | .demoteTimeout .. | .cqEnable ..
  | .cqDisable .. | .cqDoorbellWrite .. | .rqHeadWrite .. | .errPopWrite | .latchedPairRead .. | .lodeStatSample
  | .countCurSample .. | .objDataSample | .rstFenWrite .. | .fenResetEnd .. | .rstCtrlWarm | .warmResetInput | .warmResetEnd
  | .rstCtrlTier | .rstCtrlCw .. | .blockColdReset .. | .startupClockLock | .spareMapBuild | .pwrDomainCacheOn ..
  | .pwrDomainTierOn .. | .domainPowerUpDone .. | .tbRankPwrWrite .. | .rankFenceExpiry .. | .rankDrainEnd ..
  | .rankWakeDone .. | .fwBegin | .fwEnd | .fwCheckDone | .coreSelect | .abort | .mbDataAccess .. | .mbAddrLoWrite ..
  | .mbToCoreWrite .. | .ckPllLockLoss | .clockSwitchDone | .tempoGenLockLoss | .fatalError .. | .droopDetect ..
  | .stretchWindowEnd .. | .railReadingUpdate .. | .railStaleTimeout | .sensorSample .. | .heronUpdate | .tempoBoundaryDue
  | .boundaryActions | .fenSegmentEnd .. | .tempoMarkerSend | .ringHoldTimeout | .sluiceSlackExpiry .. | .stalemateDetect
  | .bundleFetch .. | .imemScrub .. | .cnop .. | .wait .. | .waitPass .. | .loop .. | .brsel .. | .jump .. | .endSegment ..
  | .anop .. | .tloadReadStart .. | .arrayResultWrite .. | .stateEntryWrite .. | .vnop .. | .vAnd .. | .vOr .. | .vXor ..
  | .vAndn .. | .vNot .. | .shl .. | .shr .. | .sar .. | .imin .. | .imax .. | .iabs .. | .imul ..
  | .fadd .. | .fsub .. | .fmul .. | .fmin .. | .fmax .. | .fabs .. | .fneg .. | .fma .. | .lcomp .. | .lmin .. | .lmax ..
  | .sel .. | .vperm .. | .trn .. | .epi .. | .nrmFin .. | .smxOnline .. | .smxOnlineFin .. | .smxRangePass0 ..
  | .smxRangePass1 .. | .vectorResultWrite .. | .sfuResultWrite .. | .mnop .. | .send .. | .sendBegin .. | .cpush ..
  | .cpull .. | .cset .. | .lcset .. | .networkRowDelivery .. | .chainCreditArrival .. | .summaryFlitArrival ..
  | .selectSlotWrite .. | .leafPushReceive .. | .nodeUp .. | .rootAggregate .. | .nodeDown .. | .leafDelivery ..
  | .ringCarryReceive .. | .ringHBroadcast .. | .ringCorrection .. | .lodeTransferIssue .. | .lodeTransferComplete ..
  | .lodeGenStep .. | .stateScrub .. | .bufferScrub .. | .statePortTransferStart .. | .statePortTransferDone ..
  | .snapshotDrainComplete | .twinMissingTimeout | .fenFenceEnd .. | .fenDrainEnd .. | .fenPowerTransitionDone ..
  | .flashExtentIssue .. | .flashPollTick .. | .flashSlowTimeout .. | .frameSlotTransmit .. | .replayTimeout .. | .nakRepeat ..
  | .laneFailure .. | .trainingPhaseEnd .. | .echoInterval .. | .heartbeatTimer | .heartbeatLossTimeout ..
  | .treadTstepResultWrite .. | .crcFailedFrameReceive .. | .stateMoveTierWriteDone .. | .queryRecordWritten ..
  | .lodeDescriptorFetched .. | .tierEngineResetEnd | .causewayResetEnd .. | .fabricAttachFault | .mbFromCoreWrite .. => true

end Sys2Proof
end

