-- ==== Sys2Proof/Safety.lean ====
section
/-!
DEFINITION. What counts as a safe run: the invariant of the block's state that the manual's limits and the model's plain data
give, and commands that a host, a plan or a link can give.
-/

namespace Sys2Proof.Machine

/-- The canonical form of a tier's memory: addresses strictly rise, and no listed byte equals what an unlisted one reads as. -/
def Memory.wf (m : List Host.Cell) : Bool := mapWf 0#8 m

/-- What every step keeps: both tiers in canonical form, and an error log of at most 256 entries (R515). -/
structure Inv (s : State) : Prop where
  tierA : Memory.wf s.tierA = true
  tierB : Memory.wf s.tierB = true
  log : s.log.length ≤ 256

/-- A packet of a queue reaches its opcode's own checks: the control core may accept it (R494, R495, R498, R518), it carries
the sequence number that the queue expects, and steps 2 and 3 of R499 give it the target `tgt`. -/
structure Accepted (opcode : Nat) (q : Fin 16) (p : Packet) (s : State) (tgt : Target) : Prop where
  ready : cmdReady opcode q.val p s = true
  seq : p.qseq = (queueOf s q.val).expSeq
  check : packetCheck opcode p s = .inr tgt

/-- The state in which an accepted command runs: the head has passed the packet, the command is in progress with the ring
entries that its replies need, and the next packet's sequence number is expected. -/
def taken (opcode : Nat) (q : Fin 16) (p : Packet) (s : State) : State :=
  let x := queueOf s q.val
  let t := putQueue q.val { x with
    head := (x.head + 1) % ringSizeOf s q.val, inprog := x.inprog ++ [(cmdOf opcode q p s, repliesOf opcode)] } s
  putQueue q.val { queueOf t q.val with expSeq := x.expSeq + 1 } t

/-- A fen can issue an operation of a slot, and neither the bundle that holds it nor a descriptor that the bundle uses has an
uncorrectable error (R331, R332, R336, R373). -/
structure Issues (p : Fin 72) (slot : Nat) (s : State) : Prop where
  can : canIssue s p.val slot = true
  clean : bundleBad (fenOf (atIssue p.val slot s) p.val).img (bundlePc (atIssue p.val slot s) p.val) = false

/-- Every waiting command is well-formed. -/
def queueWf (s : State) : Prop := ∀ c ∈ s.pending, wellFormed c = true

/-- A safe run: `n` steps from `s` reach `t`, each taking a well-formed command or idling. -/
inductive SafeRun : State → Nat → State → Prop
  | start (s : State) : SafeRun s 0 s
  | more (s t u : State) (n : Nat) : SafeRun s n t → queueWf t → step t = .next u → SafeRun s (n + 1) u

end Sys2Proof.Machine
end

