-- ==== Sys2Proof/Certificates/Slice0/Obligations.lean ====
section
/-!
DEFINITION. The statements for the provers, first what several of them name.
-/

namespace Sys2Proof.Machine

/-- The state in which the references of bases left for a lode by an earlier REARM_LODE are released. -/
def basesReleased (l : Nat) (s : State) : State :=
  match (lodeOf s l).newBases with
  | some (b, n, _) => modLode l (fun x => { x with newBases := none }) (refLode (withBases (lodeOf s l).desc n b) false s)
  | none => s

/-- The state in which the references that a lode's descriptor holds are released. -/
def lodeReleased (l : Nat) (s : State) : State :=
  if (lodeOf s l).held then modLode l (fun x => { x with held := false }) (refLode (lodeOf s l).desc false s) else s

/-- No command of a stream is in progress or waits. -/
def StreamIdle (sid : BitVec 16) (s : State) : Prop := ∀ j ∈ s.streamJobs, j.sid ≠ sid

/-- The reply that a queue's command gets is the last thing that the block sent. -/
def Answered (c : Cmd) (st : Status) (res : BitVec 96) (s t : State) : Prop :=
  let r := repliesFor (queueOf s c.q) c.gen
  t.out = s.out ++ [.reply c.q (r.base + 32 * r.tail) (replyBits c st true r.phase s.tempo.count res)]

/-- A request in the queue of a pfen's transition, or in progress. -/
def Requested (p : Nat) (j : PwrJob) (t : State) : Prop :=
  (fenOf t p).pwr.job = some j ∨ j ∈ (fenOf t p).pwr.queue

/-- A fen with a new epoch, admitted to the plans. -/
def admittedFen (f : Fen) (epoch : Word) : Fen :=
  { f with life := { f.life with epoch := epoch, stale := false, restored := false, retentionFault := false } }


/-- A command that a link alone keeps is answered OK when the link has reached its state, where no move over the link fails. -/
def LinkAnswers (c : Nat) (k : Cmd) (s t : State) : Prop :=
  (∀ d, d ≠ c → k ∉ (cwOf s d).cmds) → (∀ m ∈ s.moves, m.cw ≠ c) → Answered k stOk 0 s t
/-- The outcome of a read of a pair's low word: it returns it and latches the high word for a read of the next offset. -/
def PairLatched {n : Nat} (r : Host.Outcome State Fault Refusal) (off : Nat) (v : BitVec n) (s : State) : Prop :=
  ∃ t, r = .next t ∧ t.out = s.out ++ [.readValue off (v.setWidth 32)] ∧
    readReg t (off + 4) = (v >>> 32).setWidth 32 ∧ t = { s with latch := t.latch, out := t.out }

/-- A register of the window answers an access without a wait: it lies in no fen window, or its fen has no reset in progress
and the register answers in the fen's power state (R589, R590). -/
def Answers (off : Nat) (s : State) : Prop :=
  ∀ p o, fenAt off = some (p, o) → (fenOf s p).resetUntil = none ∧ (fenAlways o || fenAnswers (fenOf s p)) = true

/-- Only the sequencer of a fen differs between two states. -/
def SeqOnly (p : Nat) (u t : State) : Prop :=
  t = { u with fens := t.fens } ∧ (∀ k, k ≠ p → fenOf t k = fenOf u k) ∧ fenOf t p = { fenOf u p with seq := (fenOf t p).seq }

/-- A received frame reaches its own effect: the lane runs, its CRC is good, the frame is next in its sequence, it is no protocol error, and the
link is UP or the frame is a control frame (R456, R458, R459). -/
structure Arrives (c : Fin 3) (lane : Fin 8) (f : Frame) (s : State) : Prop where
  runs : lanesRun (cwOf s c.val) = true
  crc : crcGood f = true
  next : f.hdr.getLsbD 4 = true → (cwOf s c.val).st = .up ∧ hdrField f 8 8 = (laneOf (cwOf s c.val) lane.val).rxNext.toNat
  good : protoError s c.val f = false
  live : (cwOf s c.val).st = .up ∨ frameType f = frCtrl

/-- The state after the lane has taken a frame's header, in which the frame has its own effect. -/
def arrived (c : Fin 3) (lane : Fin 8) (f : Frame) (s : State) : State := frameArrive c.val lane.val f id s

/-- Only one causeway differs between two states. -/
def CwOnly (c : Nat) (u t : State) : Prop := t = { u with cws := t.cws } ∧ ∀ k, k ≠ c → cwOf t k = cwOf u k

/-- Two states differ in one fen, in registers of its window and in the note of what events did in the present MK cycle only. -/
def FenOnly (p : Nat) (u t : State) : Prop :=
  t = { u with fens := t.fens, regs := t.regs, events := t.events } ∧ (∀ k, k ≠ p → fenOf t k = fenOf u k) ∧
  ∀ off, (∀ o, o < 0x1000 → off ≠ fenWin p o) → reg t off = reg u off

/-- The elements that an operation writes: those of active lanes. -/
def activeVals (f : Fen) (pred : Nat) (val : Nat → Word) : List (Option Word) :=
  (List.range 256).map fun e => if (predOf f pred).getLsbD e then some (val e) else none

/-- A vector operation issued in `u` answers `t`: one more result is on its way, due `lat` CK later, that writes the elements of
active lanes; `sat` and `ev` are counted, and nothing else differs but the generators `gens`. Where no source register and no
lane is mired, the result mires no vector. -/
def VecIssued (p : Nat) (h : VHead) (lat : Nat) (srcs : List Nat) (val : Nat → Word) (sat : Nat) (ev : NumEv)
    (gens : SMap (Option Word)) (u t : State) : Prop :=
  ∃ taint, FenOnly p u t ∧
    fenOf t p = { fenOf u p with
      pend := pendInsert ⟨u.ck + lat, 4 * u.ck + 1, .vector, .vreg h.vd.val (activeVals (fenOf u p) h.pred.val val) taint⟩
        (fenOf u p).pend
      energyPj := (fenOf u p).energyPj + 110
      gens := gens } ∧
    ((∀ r ∈ srcs, mapGet 0#8 (fenOf u p).vMire r = 0#8) → (fenOf u p).vecBad = [] → taint = List.replicate 8 (some false)) ∧
    reg t (fenWin p 0x808) = satCount (reg u (fenWin p 0x808)) sat ∧
    reg t (fenWin p 0x410) = satCount (reg u (fenWin p 0x410)) ev.accSat ∧
    reg t (fenWin p 0x414) = satCount (reg u (fenWin p 0x414)) ev.l32Sat

/-- An elementwise operation answers a next state with the result of each element, the events of active lanes counted. -/
def VecRuns (p : Fin 72) (h : VHead) (lat : Nat) (srcs : List Nat) (op : Nat → Elt) (c : Instr) (s : State) : Prop :=
  let u := atIssue p.val slotVector s
  let act := activeElems (predOf (fenOf u p.val) h.pred.val)
  ∃ t, exec c s = .next t ∧
    VecIssued p.val h lat srcs (fun e => (op e).val) ((act.map fun e => (op e).f32Sat).sum) (evSum (act.map fun e => (op e).ev))
      (fenOf u p.val).gens u t

/-- An operation on predicate tiles answers a next state: the bits of active lanes are on their way to the destination, or
where that is P0 nothing is and VEC_HAZARD counts. -/
def PredRuns (p : Fin 72) (h : VHead) (lat : Nat) (bits : Nat → Bool) (c : Instr) (s : State) : Prop :=
  let u := atIssue p.val slotVector s
  let f := fenOf u p.val
  ∃ t, exec c s = .next t ∧ FenOnly p.val u t ∧
    ∃ wr, fenOf t p.val = { f with
        pend := pendInsert ⟨u.ck + lat, 4 * u.ck + 1, .vector, wr⟩ f.pend
        energyPj := f.energyPj + 110 } ∧
      (h.vd.val % 8 = 0 → wr = .done ∧ reg t (fenWin p.val 0x800) = satCount (reg u (fenWin p.val 0x800)) 1) ∧
      (h.vd.val % 8 ≠ 0 → t.regs = u.regs ∧ ∃ v : BitVec 256, wr = .preg (h.vd.val % 8) v (predOf f h.pred.val) ∧
        ∀ e, e < 256 → v.getLsbD e = bits e)

/-- The pending write of an operation is among those of a fen. -/
def OnItsWay (p due seq : Nat) (cls : WrCls) (w : FenWr) (t : State) : Prop := ⟨due, seq, cls, w⟩ ∈ (fenOf t p).pend

/-- A fen has one pending write, of the given class and effect, with no load and no SEND under way, and CK runs. -/
def OnlyPending (p due : Nat) (cls : WrCls) (w : FenWr) (s : State) : Prop :=
  ckRuns s = true ∧ (fenOf s p).loads = [] ∧ (fenOf s p).sends = [] ∧ ∃ seq, (fenOf s p).pend = [⟨due, seq, cls, w⟩]

/-- What a result event leaves in any case: time at the result's CK, and nothing pending any more. -/
def ResultAt (p due : Nat) (s t : State) : Prop :=
  t.ck = max s.ck due ∧ (fenOf t p).pend = [] ∧ t.out = s.out ∧ ∀ k, k ≠ p → fenOf t k = fenOf s k

/-- An operation that updates state entries: the new values of the active cells of each array that executes it are on their
way, written 4 CK later, or 5 with COMP, where the tile is not FROZEN; no entry has changed yet. -/
def StateUpdates (p : Fin 72) (h : StHead) (val : Nat → Nat → Entry) (u t : State) : Prop :=
  let f := fenOf u p.val
  let m := maskOf f h.mp.val
  (∀ a ∈ freeArrays u p.val h.amask true, (tileOf f a h.depth.val).frozen = false → ∃ mire,
    OnItsWay p.val (u.ck + (if h.comp then 5 else 4)) (4 * u.ck) .state
      (.entries (tileIx a h.depth.val) ((activeCells m.1 m.2).map fun e => (e, val a e)) mire) t) ∧
  ∀ a d, (tileOf (fenOf t p.val) a d).ent = (tileOf f a d).ent

/-- The outputs of a read of the state on their way, each in the row and container or in the vector and element that the
destination gives it. -/
def StateReads (p : Fin 72) (h : StHead) (axis : Bool) (dst : ODst) (due : Nat) (val : Nat → Nat → W40) (u t : State) : Prop :=
  let f := fenOf u p.val
  let m := maskOf f h.mp.val
  ∀ a ∈ freeArrays u p.val h.amask true, ∀ o, o < 32 → (if axis then m.2 else m.1).getLsbD o = true →
    ∃ outs x, x ∈ outs ∧ x.sums = [readOut axis m.1 m.2 (stateArgs f h a).q (val a) o] ∧
      match dst with
      | .rows ps d0 => x.pos = o % 16 ∧
        OnItsWay p.val due (4 * u.ck) .stread (.prow (32 * ps.val + 8 * d0.val + 2 * a + o / 16) outs false none) t
      | .reg r n0 => x.pos = o ∧ OnItsWay p.val due (4 * u.ck) .stread (.pvec r.val ((n0.val + a) % 8) outs) t

/-- A new entry from its old one under a rule for its exact value. -/
def entryBy (comp : Bool) (g : Num → Num) (e : Entry) : Entry :=
  if comp then (roundComp (g (entryValue e))).1 else mkEntry (roundW40 (g (w40v (entryW e)))).1 0

/-- A SEND as it was queued, whether or not it has begun. -/
def asQueued (x : SendRec) : SendRec := { x with start := none }

/-- The fen whose slot an operation of the array, the vector or the move slot uses. -/
def slotOpFen : Instr → Option (Fin 72)
  | .anop p => some p
  | .tload p _ => some p
  | .tmul p _ => some p
  | .topa p _ => some p
  | .tdecay p _ _ => some p
  | .tscale p _ _ => some p
  | .tread p _ _ _ => some p
  | .tstep p _ _ _ _ => some p
  | .vnop p => some p
  | .vAnd p _ => some p
  | .vOr p _ => some p
  | .vXor p _ => some p
  | .vAndn p _ => some p
  | .vNot p _ => some p
  | .shl p _ _ => some p
  | .shr p _ _ => some p
  | .sar p _ _ => some p
  | .iadd p _ _ _ => some p
  | .isub p _ _ _ => some p
  | .imin p _ _ => some p
  | .imax p _ _ => some p
  | .iabs p _ _ => some p
  | .imul p _ _ => some p
  | .fadd p _ _ => some p
  | .fsub p _ _ => some p
  | .fmul p _ => some p
  | .fmin p _ => some p
  | .fmax p _ => some p
  | .fabs p _ => some p
  | .fneg p _ => some p
  | .fma p _ _ _ => some p
  | .lcomp p _ => some p
  | .lmin p _ => some p
  | .lmax p _ => some p
  | .cmp p _ _ _ => some p
  | .pand p _ => some p
  | .por p _ => some p
  | .pxor p _ => some p
  | .pnot p _ => some p
  | .sel p _ _ => some p
  | .vbcast p _ _ _ => some p
  | .vperm p _ => some p
  | .trn p _ => some p
  | .red p _ _ _ _ => some p
  | .pfx p _ _ _ _ _ => some p
  | .cvt p _ _ _ => some p
  | .act p _ _ _ => some p
  | .sfn p _ _ _ => some p
  | .epi p _ _ => some p
  | .nrmKmax p _ _ _ _ _ => some p
  | .nrmSq p _ _ _ _ => some p
  | .nrmFin p _ _ _ _ => some p
  | .nrmApply p _ _ _ _ => some p
  | .smxOnline p _ _ => some p
  | .smxOnlineFin p _ _ => some p
  | .smxRangePass0 p _ _ _ => some p
  | .smxRangePass1 p _ _ => some p
  | .summary p _ _ _ => some p
  | .mnop p => some p
  | .vld p _ _ _ _ _ _ => some p
  | .vst p _ _ _ _ _ _ => some p
  | .pset p _ _ _ _ => some p
  | .tagSetFull p _ _ => some p
  | .tagSetEmpty p _ _ => some p
  | .tagReleaseChain p _ _ _ => some p
  | .send p _ _ _ => some p
  | .maskld p _ _ _ => some p
  | .cpush p _ _ _ => some p
  | .cpull p _ _ _ _ => some p
  | .cset p _ _ _ _ => some p
  | .lcset p _ _ => some p
  | _ => none

/-- A carry that is mired if it was or if `bad` says so. -/
def markedCarry (bad : Bool) (c : Carry) : Carry := { c with mired := c.mired || bad }

/-- The composition of a leaf's pushes in their order; one whose check failed when it came is mired. -/
def composedPushes : List LeafPush → Carry
  | [] => carryIdent
  | y :: l => l.foldl (fun c z => markedCarry z.bad (composeCarry z.carry c).1) (markedCarry y.bad y.carry)

end Sys2Proof.Machine

open Sys2Proof Sys2Proof.Machine

/-- O1. A step takes the command at the front of the queue and runs it on the state with the rest of the queue. (R498)
-/
def Obligations.StepRunsFrontCommand : Prop :=
  ∀ (c : Instr) (rest : List Instr) (s : State), s.pending = c :: rest → step s = exec c { s with pending := rest }

/-- O2. On an empty queue a step is one CK in which nothing is commanded: time moves on by two units, CK counts one
cycle unless it is stopped, and nothing else changes. This is the model's choice, log entry 2. (R288) -/
def Obligations.IdleStepIsOneCk : Prop :=
  ∀ s : State, s.pending = [] →
    step s = .next { s with now := s.now + 2, ck := if s.plant.ckStopped then s.ck else s.ck + 1 }

/-- O3. At reset both tiers' memories are in canonical form, the error log is within its limit, and no command waits.
(R515) -/
def Obligations.ResetMeetsInvariant : Prop :=
  Inv State.reset ∧ State.reset.pending = []

/-- O4. Whatever the command, a step from a state whose tier memories are in canonical form and whose error log holds
at most 256 entries answers a state of that kind. (R515) -/
def Obligations.StepKeepsInvariant : Prop :=
  ∀ s t : State, Inv s → step s = .next t → Inv t

/-- O5. Whatever the command, when it answers a next state, the queue of waiting commands is as it was, time and the
CK count have not gone back, free values are used once only, and what the block has sent is kept, with what it sends
now after it. (R288, R498) -/
def Obligations.CommandsKeepQueueAndTime : Prop :=
  ∀ (c : Instr) (s t : State), exec c s = .next t →
    t.pending = s.pending ∧ s.now ≤ t.now ∧ s.ck ≤ t.ck ∧ s.free ≤ t.free ∧ ∃ l, t.out = s.out ++ l

/-- O6. Every command answers a next state from every state, except a register read or write whose offset is no
multiple of 4, which stops with a fabric protocol violation. No command is refused. (R3, R10) -/
def Obligations.OnlyMisalignedAccessStops : Prop :=
  ∀ (c : Instr) (s : State),
    (∃ t, exec c s = .next t) ∨
    (exec c s = .fault .fabricProtocolViolation ∧
      ((∃ off : BitVec 20, c = .rcRegisterRead off ∧ off.toNat % 4 ≠ 0) ∨
       (∃ (off : BitVec 20) (v : Word), c = .registerWrite off v ∧ off.toNat % 4 ≠ 0)))

/-- O7. A register read or write whose offset is no multiple of 4 is a fabric protocol violation, and the model stops
with that fault. (R3, R10) -/
def Obligations.MisalignedAccessFaults : Prop :=
  ∀ (off : BitVec 20) (v : Word) (s : State), off.toNat % 4 ≠ 0 →
    exec (.rcRegisterRead off) s = .fault .fabricProtocolViolation ∧
    exec (.registerWrite off v) s = .fault .fabricProtocolViolation

/-- O8. A reply is written to the entry at the tail of the reply ring that the command's enabling of the queue had,
with that ring's phase; its tail moves on, wrapping to 0 with the phase inverted; a final reply ends the command; IRQ
sets the queue's interrupt bit; other rings, queues and registers are unchanged, and so is every other field of the
state. (R495, R497, R514) -/
def Obligations.ReplyIsPosted : Prop :=
  ∀ (c : Cmd) (st : Status) (final : Bool) (res : BitVec 96) (s : State),
    let t := replyWith c st final res s
    let x := queueOf s c.q
    let y := queueOf t c.q
    let r := repliesFor x c.gen
    let r' := repliesFor y c.gen
    t.out = s.out ++ [.reply c.q (r.base + 32 * r.tail) (replyBits c st final r.phase s.tempo.count res)] ∧
    (r.tail + 1 < r.size → r' = { r with tail := r.tail + 1 }) ∧
    (r.size ≤ r.tail + 1 → r' = { r with tail := 0, phase := !r.phase }) ∧
    (∀ g, g ≠ c.gen → repliesFor y g = repliesFor x g) ∧ y.gen = x.gen ∧
    y.inprog = inprogAfter c final x.inprog ∧
    y.enabled = x.enabled ∧ y.stopped = x.stopped ∧ y.head = x.head ∧ y.tail = x.tail ∧ y.expSeq = x.expSeq ∧
    (∀ k, k ≠ c.q → queueOf t k = queueOf s k) ∧
    (∀ o, reg t o = if c.irq ∧ o = 0x3008 then reg s o ||| (1#32 <<< c.q) else reg s o) ∧
    t = { s with queues := t.queues, regs := t.regs, events := t.events, out := t.out }

/-- O9. While the log holds fewer than 256 entries a new one joins its end; while it is full a new one is dropped and
adds one to ERR_LOST. An entry of class ERROR sets ERR_STATUS.ERROR either way. A write to ERR_POP removes the oldest
entry, and ERR_DATA0 presents the oldest entry's kind, class and source. (R515) -/
def Obligations.ErrorLogHolds256 : Prop :=
  ∀ (k : LogKind) (source : Nat) (detail : List Nat) (s : State),
    let t := logAdd k source detail s
    (s.log.length < 256 → ∃ e, t.log = s.log ++ [e] ∧ e.kind = BitVec.ofNat 16 k.1 ∧ e.error = k.2
        ∧ e.source = BitVec.ofNat 16 source ∧ e.tempo = s.tempo.count ∧ e.detail = detailOf detail ∧ reg t 0x400C = reg s 0x400C) ∧
    (256 ≤ s.log.length → t.log = s.log ∧ reg t 0x400C = satCount (reg s 0x400C) 1) ∧
    (k.2 = true → reg t 0x4000 = reg s 0x4000 ||| 1#32) ∧ (k.2 = false → reg t 0x4000 = reg s 0x4000) ∧
    (∀ o, o ≠ 0x4000 → o ≠ 0x400C → reg t o = reg s o) ∧
    exec .errPopWrite s = .next { s with log := s.log.tail } ∧
    (∀ e l k, s.log = e :: l → k < 8 → readReg s (0x4020 + 4 * k) =
      ((e.detail ++ 0#16 ++ e.tempo ++ 0#16 ++ e.source ++ 0#15 ++ BitVec.ofBool e.error ++ e.kind) >>> (32 * k)).setWidth 32)

/-- O10. A command that the control core may accept moves its queue's head on. With another sequence number than the
expected one it is answered REFUSED_CONFIG with CHECK 0xFE, its queue stops with reason SEQUENCE and the log takes an
entry. With the expected one, the first of steps 2 and 3 that fails gives the answer. In neither case does anything
change but the queues, the registers, the log and what was sent. A command that may not be accepted leaves the state
as it is. HOLD_OBJECT stands for all opcodes here. (R498, R499) -/
def Obligations.PacketChecksInOrder : Prop :=
  ∀ (q : Fin 16) (p : Packet) (s : State),
    let x := queueOf s q.val
    (cmdReady 0x22 q.val p s = false → exec (.holdObject q p) s = .next s) ∧
    (cmdReady 0x22 q.val p s = true → p.qseq ≠ x.expSeq → ∃ t, exec (.holdObject q p) s = .next t ∧
      (queueOf t q.val).stopped = true ∧ (queueOf t q.val).reason = 1 ∧ (queueOf t q.val).expSeq = x.expSeq ∧
      (queueOf t q.val).head = (x.head + 1) % ringSizeOf s q.val ∧
      t.out = s.out ++ [.reply q.val (x.replies.base + 32 * x.replies.tail)
          (replyBits (cmdOf 0x22 q p s) stRefusedConfig true x.replies.phase s.tempo.count 0xFE)] ∧
      t = { s with queues := t.queues, regs := t.regs, events := t.events, out := t.out, log := t.log }) ∧
    (∀ st, cmdReady 0x22 q.val p s = true → p.qseq = x.expSeq → packetCheck 0x22 p s = .inl st →
      exec (.holdObject q p) s = .next (reply (cmdOf 0x22 q p s) st (taken 0x22 q p s)))

/-- O11. The state in which an accepted command runs differs from the one before in its queue alone: the head has
passed the packet, the command is in progress with the ring entries that its replies need, and the next sequence
number is expected. (R495, R498, R499) -/
def Obligations.AcceptedCommandMovesQueue : Prop :=
  ∀ (opcode : Nat) (q : Fin 16) (p : Packet) (s : State),
    let x := queueOf s q.val
    let t := taken opcode q p s
    queueOf t q.val = { x with head := (x.head + 1) % ringSizeOf s q.val, inprog := x.inprog ++ [(cmdOf opcode q p s, repliesOf opcode)],
                               expSeq := x.expSeq + 1 } ∧
    (∀ k, k ≠ q.val → queueOf t k = queueOf s k) ∧ t = { s with queues := t.queues }

/-- O12. NOP is answered OK at once and an opcode that Table 13-4 does not assign REFUSED_CONFIG. QUERY of a record
answers its first 12 B, at once where no address is given; otherwise it writes the whole record and answers when that
has been written. SET_MODE takes effect at once while the tempo is stopped, and otherwise waits for the boundary. A
failed fetch executes nothing and stops the queue with reason FETCH. (R237, R499, R501, R509) -/
def Obligations.NopQueryAndMode : Prop :=
  ∀ (q : Fin 16) (p : Packet) (s : State),
    (Accepted 0x01 q p s .block → exec (.nop q 1 p) s = .next (reply (cmdOf 0x01 q p s) stOk (taken 0x01 q p s))) ∧
    (∀ opcode : BitVec 8, opForm opcode.toNat = none → cmdReady opcode.toNat q.val p s = true →
      p.qseq = (queueOf s q.val).expSeq →
      exec (.nop q opcode p) s = .next (reply (cmdOf opcode.toNat q p s) stRefusedConfig (taken opcode.toNat q p s))) ∧
    (∀ n v, Accepted 0x02 q p s .block → queryRecord s p = some (n, v) → par p 8 8 = 0 →
      exec (.query q p) s = .next (replyWith (cmdOf 0x02 q p s) stOk true (BitVec.ofNat 96 v) (taken 0x02 q p s))) ∧
    (∀ n v, Accepted 0x02 q p s .block → queryRecord s p = some (n, v) → par p 8 8 ≠ 0 → par p 8 8 % 64 = 0 →
      ∃ t, exec (.query q p) s = .next t ∧ t.out = s.out ++ [.fabricWrite (par p 8 8) (leBytes n v)] ∧
        t.queries = s.queries ++ [(cmdOf 0x02 q p s, BitVec.ofNat 96 v)]) ∧
    (∀ x, s.queries.find? (fun y => decide (y.1.q = q.val)) = some x →
      exec (.queryRecordWritten q) s = .next (replyWith x.1 stOk true x.2 { s with queries := s.queries.erase x })) ∧
    (Accepted 0x50 q p s .block → par p 0 1 < 2 →
      (tempoStopped s = true → ∃ t, exec (.setMode q p) s = .next (reply (cmdOf 0x50 q p s) stOk t) ∧
        t.service = decide (par p 0 1 = 1)) ∧
      (tempoStopped s = false → exec (.setMode q p) s = .next { taken 0x50 q p s with
        jobs := s.jobs ++ [.mode (cmdOf 0x50 q p s) (decide (par p 0 1 = 1))] })) ∧
    ((queueOf s q.val).enabled = true → (queueOf s q.val).stopped = false → (queueOf s q.val).head ≠ (queueOf s q.val).tail →
      s.mbox.fw = .running → 1 ≤ replyRoom s q.val → ∃ t, exec (.cmdFetchErr q) s = .next t ∧
        queueOf t q.val = { queueOf s q.val with stopped := true, reason := 2 } ∧ t.out = s.out)

/-- O13. LOAD_PLAN of a 4 KiB aligned image for a plan number below 16 joins the loads, and its fetch begins when no
other load runs; nothing else changes. The arrival of the image of the load at the head ends that load: where every
check of the image passes the plan is installed under its number and the reply OK carries its worst segment, otherwise
the reply names the check and no plan changes; the next load's fetch begins. UNLOAD_PLAN of a loaded plan while the
tempo runs marks it, waits for the boundary, and frees those of its lodes that have nothing in flight. While the tempo
is stopped a plan without lodes is gone at once and its UNLOAD_PLAN answered OK; one with a lode that has transfers in
flight stays UNLOADING and unanswered. (R402, R501, R505, R507, R508, R509) -/
def Obligations.PlanCommands : Prop :=
  (∀ (q : Fin 16) (p : Packet) (s : State), Accepted 0x08 q p s .block → par p 12 1 < 16 → par p 0 8 % 4096 = 0 →
    exec (.loadPlan q p) s = .next { taken 0x08 q p s with
      loads := s.loads ++ [⟨cmdOf 0x08 q p s, BitVec.ofNat 64 (par p 0 8), par p 8 4, par p 12 1⟩]
      out := if s.loads = [] then s.out ++ [.fabricFetch (par p 0 8) (par p 8 4)] else s.out }) ∧
  (∀ (img : Option (List Byte)) (j : LoadPlanJob) (rest : List LoadPlanJob) (x : PlanSrc) (ok : PlanOk) (s : State),
    s.loads = j :: rest → checkImage { s with loads := rest } j img = .inr (x, ok) →
    ∃ t, exec (.planImageFetched img) s = .next t ∧
      t = planFetch (replyWith j.cmd stOk true (planResult { st := stOk, check := 0, value := ok.record.worst })
        (installPlan j.plan x ok)) ∧
      t.loads = rest ∧ planOf t j.plan = some ok.record ∧ ∀ k, k ≠ j.plan → planOf t k = planOf s k) ∧
  (∀ (img : Option (List Byte)) (j : LoadPlanJob) (rest : List LoadPlanJob) (e : PlanErr) (s : State),
    s.loads = j :: rest → checkImage { s with loads := rest } j img = .inl e →
    exec (.planImageFetched img) s =
      .next (planFetch (replyWith j.cmd e.st true (planResult e) { s with loads := rest }))) ∧
  (∀ (q : Fin 16) (p : Packet) (s : State) (x : Plan), Accepted 0x09 q p s .block → planOf s (par p 0 1) = some x → x.gone = false →
    tempoStopped s = false → ∃ t, exec (.unloadPlan q p) s = .next t ∧
      planOf t (par p 0 1) = some { x with unloading := true } ∧ .unload (cmdOf 0x09 q p s) (par p 0 1) ∈ t.jobs ∧
      ∀ l, (lodeOf s l).plan = some (par p 0 1) → (lodeOf s l).inflight = [] → (lodeOf t l).st = .free) ∧
  (∀ (q : Fin 16) (p : Packet) (s : State) (x : Plan), Accepted 0x09 q p s .block → planOf s (par p 0 1) = some x →
    tempoStopped s = true → ∃ t, exec (.unloadPlan q p) s = .next t ∧
      (planHasLodes s (par p 0 1) = false → planOf t (par p 0 1) = none ∧
        ((∀ c, .unload c (par p 0 1) ∉ s.jobs) → Answered (cmdOf 0x09 q p s) stOk 0 s t)) ∧
      ∀ l, (lodeOf s l).plan = some (par p 0 1) → (lodeOf s l).inflight ≠ [] →
        planOf t (par p 0 1) = some { x with unloading := true, gone := true } ∧ (lodeOf t l).st = .halted ∧ t.out = s.out)

/-- O14. COMMIT whose checks pass takes effect at once while the tempo is stopped, and otherwise leaves the shadow
registers as the pending set for a boundary; where a check fails it is refused with the offset of the first register
that failed, and no register in force changes. (R510, R511, R512) -/
def Obligations.CommitTakesEffect : Prop :=
  ∀ (q : Fin 16) (p : Packet) (s : State), Accepted 0x0A q p s .block →
    let bad := (commitChecks (taken 0x0A q p s) s.shadow).find? fun x => !x.2
    (bad = none → tempoStopped s = true →
      exec (.commit q p) s = .next (reply (cmdOf 0x0A q p s) stOk (applySet s.shadow (taken 0x0A q p s)))) ∧
    (bad = none → tempoStopped s = false →
      exec (.commit q p) s = .next { taken 0x0A q p s with pendSet := some s.shadow, jobs := s.jobs ++ [.commit (cmdOf 0x0A q p s)] }) ∧
    (∀ x, bad = some x → exec (.commit q p) s =
      .next (replyWith (cmdOf 0x0A q p s) stRefusedConfig true (BitVec.ofNat 96 x.1) (taken 0x0A q p s)))

/-- O15. When a set of RWS registers takes effect, each of them holds the value that the set has for it, every other
register is as it was, and every fen's generators start from the seed that the set gives it. (R79, R510, R594) -/
def Obligations.CommittedSetIsInForce : Prop :=
  ∀ (m : SMap (Option Word)) (s : State) (o : Nat),
    (reg (applySet m s) o = if o ∈ rwsAll then fileGet m o else reg s o) ∧
    ∀ p, p < 72 → (fenOf (applySet m s) p).seed = fileGet m (fenWin p 0x41C) ∧ (fenOf (applySet m s) p).gens = []

/-- O16. ARM_LODE of a lode number below 1024 starts the fetch of its 64-B descriptor. A descriptor that its checks
pass arms the lode under a new generation, resolved to tiers and holding its references, and the command is answered
OK; one that they refuse is answered with their status. REARM_LODE of a persistent lode puts its new bases aside, with
their references taken, for the next segment start; that of another replaces its descriptor's bases, starts them again
from base 0 and steps the generation; each is answered OK. HALT_LODE of a driver's lode stops it at once; it is
answered, and the references go, when nothing is in flight. (R394, R399, R401, R402, R409, R433) -/
def Obligations.LodeCommands : Prop :=
  (∀ (q : Fin 16) (p : Packet) (s : State), Accepted 0x10 q p s .block → par p 0 2 < 1024 → tierWorks s = true →
    exec (.armLode q p) s = .next { taken 0x10 q p s with
      arms := s.arms ++ [⟨par p 0 2, BitVec.ofNat 64 (par p 8 8), cmdOf 0x10 q p s⟩], out := s.out ++ [.fabricFetch (par p 8 8) 64] }) ∧
  (∀ (l : Fin 1024) (d : BitVec 512) (j : ArmJob) (tiers : List Tier) (s : State),
    let u := { s with arms := s.arms.erase j }
    s.arms.find? (fun j => decide (j.l = l.val)) = some j → armCheck u l.val d = .inr tiers →
    ∃ t, exec (.lodeDescriptorFetched l d) s = .next t ∧
      lodeOf t l.val = { desc := d, st := .armed, gen := (lodeOf s l.val).gen + 1, gs := (lodeOf s l.val).gen + 1, plan := none,
                         tiers := tiers, held := !ldFabric d, slot := firstSlot d } ∧
      (∀ k, k ≠ l.val → lodeOf t k = lodeOf s k) ∧ t.arms = s.arms.erase j ∧ t.objs = (refLode d true (dropRefs l.val u)).objs ∧
      Answered j.cmd stOk 0 s t) ∧
  (∀ (l : Fin 1024) (d : BitVec 512) (j : ArmJob) (st : Status) (s : State),
    s.arms.find? (fun j => decide (j.l = l.val)) = some j → armCheck { s with arms := s.arms.erase j } l.val d = .inl st →
    exec (.lodeDescriptorFetched l d) s = .next (reply j.cmd st { s with arms := s.arms.erase j })) ∧
  (∀ (q : Fin 16) (p : Packet) (b : BitVec 384) (tiers : List Tier) (s : State), Accepted 0x11 q p s .block →
    let l := par p 0 2
    let x := lodeOf s l
    let d := withBases x.desc (par p 2 1) b
    l < 1024 → par p 2 1 < 4 → tierWorks s = true → x.st ≠ .free → ldOk d = true →
    (ldPersist x.desc = true → resolveLode (basesReleased l (taken 0x11 q p s)) d = .inr tiers →
      ∃ t, exec (.rearmLode q p b) s = .next t ∧ lodeOf t l = { x with newBases := some (b, par p 2 1, tiers) } ∧
        t.objs = (refLode d true (basesReleased l (taken 0x11 q p s))).objs ∧ Answered (cmdOf 0x11 q p s) stOk 0 s t ∧
        ∀ k, k ≠ l → lodeOf t k = lodeOf s k) ∧
    (ldPersist x.desc = false → resolveLode (lodeReleased l (taken 0x11 q p s)) d = .inr tiers →
      ∃ t, exec (.rearmLode q p b) s = .next t ∧ (lodeOf t l).desc = d ∧ (lodeOf t l).tiers = tiers ∧ (lodeOf t l).base = 0 ∧
        (lodeOf t l).next = 0 ∧ (lodeOf t l).st = .armed ∧
        (x.inflight = [] → (lodeOf t l).gen = x.gen + BitVec.ofNat 16 (stepsNow x) ∧ (lodeOf t l).stepWait = 0) ∧
        Answered (cmdOf 0x11 q p s) stOk 0 s t ∧ ∀ k, k ≠ l → lodeOf t k = lodeOf s k)) ∧
  (∀ (q : Fin 16) (p : Packet) (s : State), Accepted 0x12 q p s .block →
    let l := par p 0 2
    let x := lodeOf s l
    l < 1024 → x.st ≠ .free → x.plan = none → ∃ t, exec (.haltLode q p) s = .next t ∧
      (lodeOf t l).st = .halted ∧ (∀ k, k ≠ l → lodeOf t k = lodeOf s k) ∧
      (x.inflight ≠ [] → (lodeOf t l).haltCmd = x.haltCmd ++ [cmdOf 0x12 q p s] ∧ t.out = s.out) ∧
      (x.inflight = [] → (lodeOf t l).held = false ∧ (lodeOf t l).haltCmd = [] ∧ (x.haltCmd = [] →
        Answered (cmdOf 0x12 q p s) (if x.code = 0x0301 ∨ x.code = 0x0302 then x.code else stOk) 0 s t)))

/-- O17. A stream command for a stream that has none in progress begins at acceptance. STREAM_OPEN takes a free
context for its binding: AWAITING and answered OK at once with mode 2, otherwise OPENING, with a load of each of the
binding's tiles queued, or OPEN where no load is left. STREAM_CLOSE while the tempo is stopped frees the context,
leaves every tile of its binding INVALID and is answered OK; otherwise it waits for the boundary. STREAM_RESET enters
RESETTING, or with no load left is OPEN at position 0. STATE_MOVE freezes the source tiles, enters MOVING and records
the move. (R152, R153, R155, R158, R159, R160, R161) -/
def Obligations.StreamCommands : Prop :=
  ∀ (q : Fin 16) (p : Packet) (s : State),
    let sid := BitVec.ofNat 16 (par p 0 2)
    StreamIdle sid s →
    (∀ b k, Accepted 0x18 q p s .block → bindingOf s (par p 2 1) (par p 4 2) = some b → freeStream s = some k →
      streamBy s sid = none → par p 3 1 < 3 → bindingHeld s (par p 2 1) (par p 4 2) sid = false →
      (par p 3 1 = 1 → initCheck s (BitVec.ofNat 32 (par p 8 4)) (par p 12 4) b.tiles.length = none) →
      ∃ t, exec (.streamOpen q p) s = .next t ∧ (streamOf t k).sid = sid ∧ (streamOf t k).tiles = b.tiles ∧
        (streamOf t k).plan = par p 2 1 ∧ (streamOf t k).binding = BitVec.ofNat 16 (par p 4 2) ∧
        (par p 3 1 = 2 → (streamOf t k).st = .awaiting ∧ Answered (cmdOf 0x18 q p s) stOk 0 s t) ∧
        (par p 3 1 < 2 → ((streamOf t k).st = .opening ∨ (streamOf t k).st = .open) ∧
          ∀ x ∈ b.tiles, ∀ ph, pfenOf s x.1 = some ph →
            ∃ y ∈ t.ports, y.pfen = ph ∧ y.array = x.2.1 ∧ y.depth = x.2.2 ∧ isInit sid y.kind = true) ∧
        ∀ j, j ≠ k → streamOf t j = streamOf s j) ∧
    (∀ k, Accepted 0x19 q p s .block → streamBy s sid = some k →
      (tempoStopped s = true → ∃ t, exec (.streamClose q p) s = .next t ∧ streamOf t k = {} ∧
        Answered (cmdOf 0x19 q p s) stOk 0 s t ∧
        ∀ x ∈ (streamOf s k).tiles, ∀ ph, pfenOf s x.1 = some ph → (tileOf (fenOf t ph) x.2.1 x.2.2).invalid = true) ∧
      (tempoStopped s = false → ∃ t, exec (.streamClose q p) s = .next t ∧
        t.jobs = s.jobs ++ [.close (cmdOf 0x19 q p s) sid] ∧ t.streams = s.streams ∧ t.out = s.out)) ∧
    (∀ b k, Accepted 0x1A q p s .block → streamBy s sid = some k → streamBinding s (streamOf s k) = some b →
      (streamOf s k).st = .open → (streamOf s k).initMode ≠ 2 →
      ((streamOf s k).initMode = 1 → initCheck s (streamOf s k).initHandle (streamOf s k).initOffset.toNat b.tiles.length = none) →
      ∃ t, exec (.streamReset q p) s = .next t ∧
        ((streamOf t k).st = .resetting ∨ ((streamOf t k).st = .open ∧ (streamOf t k).position = 0)) ∧
        ∀ j, j ≠ k → streamOf t j = streamOf s j) ∧
    (∀ b k dst, Accepted 0x1B q p s .block → streamBy s sid = some k → streamBinding s (streamOf s k) = some b →
      (streamOf s k).st = .open → par p 2 1 < 2 → moveDestCheck p (streamOf s k) b (taken 0x1B q p s) = .inr dst →
      ∃ t m, exec (.stateMove q p) s = .next t ∧ t.moves = s.moves ++ [m] ∧ m.sid = sid ∧ m.src = b.tiles ∧ m.dst = dst ∧
        m.copy = decide (par p 2 1 = 1) ∧ m.dest = par p 3 1 ∧ (streamOf t k).st = .moving ∧ t.out = s.out ∧
        ∀ x ∈ b.tiles, ∀ ph, pfenOf s x.1 = some ph → (tileOf (fenOf t ph) x.2.1 x.2.2).frozen = true)

/-- O18. When the tier engine has written one tile image of a STATE_MOVE to a tier object, the move counts it. When
every source tile has been read and its image written, the move is over and its command is answered OK; unless it
copies, the local context is free again, and otherwise it is OPEN. (R155) -/
def Obligations.MoveTierWriteDone : Prop :=
  ∀ (sid : BitVec 16) (m : Move) (s : State), moveOf s sid false = some m → m.dest = 1 → 0 < m.tierWr →
    (m.writeDone + 1 < m.src.length → ∃ t, exec (.stateMoveTierWriteDone sid) s = .next t ∧
      moveOf t sid false = some { m with tierWr := m.tierWr - 1, writeDone := m.writeDone + 1 } ∧ t.streams = s.streams) ∧
    (m.src.length ≤ m.writeDone + 1 → m.src.length ≤ m.readDone → m.tierWr = 1 →
      (∀ j ∈ s.streamJobs, j.sid = sid → j.started = true) → ∃ t, exec (.stateMoveTierWriteDone sid) s = .next t ∧
      moveOf t sid false = none ∧ (∀ j, streamJobOf s sid = some j → Answered j.cmd stOk 0 s t) ∧
      ∀ k, streamBy s sid = some k → (m.copy = false → streamOf t k = {}) ∧ (m.copy = true → (streamOf t k).st = .open))

/-- O19. HOLD_OBJECT of a current handle adds one to HOLDS and RELEASE_OBJECT subtracts one, each answered OK, and
nothing else of the object table changes. HOLD_OBJECT is refused REFUSED_CONFIG at 65,535 and RELEASE_OBJECT at 0. A
handle that is not current is answered EPOCH_MISMATCH. (R436) -/
def Obligations.ObjectHolds : Prop :=
  ∀ (q : Fin 16) (p : Packet) (s : State) (k : Nat),
    (Accepted 0x22 q p s .block → objCurrent s (BitVec.ofNat 32 (par p 0 4)) = some k →
      ((objOf s k).holds < 0xFFFF → exec (.holdObject q p) s =
        .next (reply (cmdOf 0x22 q p s) stOk (modObj k (fun o => { o with holds := (objOf s k).holds + 1 }) (taken 0x22 q p s)))) ∧
      (0xFFFF ≤ (objOf s k).holds → exec (.holdObject q p) s =
        .next (reply (cmdOf 0x22 q p s) stRefusedConfig (taken 0x22 q p s)))) ∧
    (Accepted 0x23 q p s .block → objCurrent s (BitVec.ofNat 32 (par p 0 4)) = some k →
      (0 < (objOf s k).holds → exec (.releaseObject q p) s =
        .next (reply (cmdOf 0x23 q p s) stOk (modObj k (fun o => { o with holds := (objOf s k).holds - 1 }) (taken 0x23 q p s)))) ∧
      ((objOf s k).holds = 0 → exec (.releaseObject q p) s =
        .next (reply (cmdOf 0x23 q p s) stRefusedConfig (taken 0x23 q p s)))) ∧
    (objCurrent s (BitVec.ofNat 32 (par p 0 4)) = none →
      (Accepted 0x22 q p s .block → exec (.holdObject q p) s = .next (reply (cmdOf 0x22 q p s) stEpochMismatch (taken 0x22 q p s))) ∧
      (Accepted 0x23 q p s .block → exec (.releaseObject q p) s = .next (reply (cmdOf 0x23 q p s) stEpochMismatch (taken 0x23 q p s))))

/-- O20. PROMOTE of a current handle to a legal tier and address takes a hold; where no copy is there or under way, a
copy starts with nothing done, and the command waits for it; where the copy is complete the command is answered OK at
once with HOLDS after it. DEMOTE of a tier that holds no copy is answered OK. DEMOTE of a copy whose conditions hold
gives up a clean copy at once, and is answered OK where no other DEMOTE of it waits; a DIRTY copy is written back
first, the object DEMOTING. With a timeout of 0 and conditions that do not hold it is answered HELD, and with another
timeout DEFERRED, the object DEMOTING and the command waiting. (R434, R435, R437, R438) -/
def Obligations.PromoteAndDemote : Prop :=
  ∀ (q : Fin 16) (p : Packet) (s : State) (k : Nat), objCurrent s (BitVec.ofNat 32 (par p 0 4)) = some k →
    let o := objOf s k
    let toA := decide (par p 4 1 = 0)
    (Accepted 0x20 q p s .block → promoteOk o (par p 4 1) (par p 8 8) = true →
      (resAt o toA = false → pendAt o toA = false → ∃ t, exec (.promote q p) s = .next t ∧
        (objOf t k).holds = o.holds + 1 ∧ pendAt (objOf t k) toA = true ∧
        (if toA then (objOf t k).addrA = BitVec.ofNat 48 (par p 8 8) ∧ (objOf t k).doneA = 0
          else (objOf t k).addrB = BitVec.ofNat 48 (par p 8 8) ∧ (objOf t k).donePages = 0) ∧
        (objOf t k).jobs = o.jobs ++ [⟨cmdOf 0x20 q p s, true, toA, 0, true⟩] ∧
        (∀ j, j ≠ k → objOf t j = objOf s j) ∧ t = { taken 0x20 q p s with objs := t.objs }) ∧
      (resAt o toA = true → addrAt o toA = par p 8 8 → o.writeback = false → ∃ t, exec (.promote q p) s = .next t ∧
        objOf t k = { o with holds := o.holds + 1 } ∧ (∀ j, j ≠ k → objOf t j = objOf s j) ∧
        Answered (cmdOf 0x20 q p s) stOk (BitVec.ofNat 96 (k + o.epoch.toNat * 2 ^ 12 + (o.holds + 1) * 2 ^ 32)) s t)) ∧
    (Accepted 0x21 q p s .block → par p 4 1 < 2 → (if toA then o.home ≠ 0 else o.home ≠ 1) →
      ((resAt o toA || pendAt o toA) = false → exec (.demote q p) s = .next (reply (cmdOf 0x21 q p s) stOk (taken 0x21 q p s))) ∧
      ((resAt o toA || pendAt o toA) = true →
        (demoteFree s k toA = true → (toA = true → o.dirty = false) → ∃ t, exec (.demote q p) s = .next t ∧
          resAt (objOf t k) toA = false ∧ resAt (objOf t k) (!toA) = resAt o (!toA) ∧ (∀ j, j ≠ k → objOf t j = objOf s j) ∧
          ((∀ j ∈ o.jobs, j.promote = true ∨ j.toA ≠ toA) → Answered (cmdOf 0x21 q p s) stOk 0 s t)) ∧
        (demoteFree s k toA = true → toA = true → o.dirty = true → ∃ t, exec (.demote q p) s = .next t ∧
          (objOf t k).writeback = true ∧ (objOf t k).demoting = true ∧ (objOf t k).resA = o.resA ∧
          t = { taken 0x21 q p s with objs := t.objs }) ∧
        (demoteFree s k toA = false → par p 6 2 = 0 →
          exec (.demote q p) s = .next (reply (cmdOf 0x21 q p s) stHeld (taken 0x21 q p s))) ∧
        (demoteFree s k toA = false → par p 6 2 ≠ 0 → ∃ t, exec (.demote q p) s = .next t ∧ (objOf t k).demoting = true ∧
          (objOf t k).jobs = o.jobs ++ [⟨cmdOf 0x21 q p s, false, toA, s.now + 4500000 * par p 6 2, false⟩] ∧
          t.out = s.out ++ [.reply q.val ((queueOf s q.val).replies.base + 32 * (queueOf s q.val).replies.tail)
            (replyBits (cmdOf 0x21 q p s) stDeferred false (queueOf s q.val).replies.phase s.tempo.count 0)])))

/-- O21. An 8 KiB transfer of a copy to tier A copies up to two pages and advances the pages done; the last one
completes the copy. A read of it that tier B reports uncorrectable counts in TIER_READ_ERR. A copy to tier B advances
over every contiguous run of completed extents, and completes at the last. A deferred demotion whose conditions have
come to hold proceeds, a DIRTY copy by a write-back. The end of a write-back writes the copy to its home, clears
DIRTY, and gives up the copy where the conditions still hold. A deferred demotion's timeout answers HELD and changes
nothing of the object but its commands and DEMOTING. (R421, R435, R437, R438) -/
def Obligations.CopiesAdvanceAndEnd : Prop :=
  (∀ (o : Fin 4096) (bad : List Nat) (s : State),
    let x := objOf s o.val
    let src := (if x.home = 1 then x.homeAddr.toNat else x.addrB.toNat) + 4096 * x.doneA
    let n := min 2 ((if x.home = 2 ∧ x.pendB then x.donePages else x.size) - x.doneA)
    tierWorks s = true → x.pendA = true → 0 < n → anyRank s .waking (some .b) [src, src + 4096 * n - 1] = false →
    anyRank s .off (some .b) [src, src + 4096 * n - 1] = false →
    ∃ t, exec (.promotionExtentComplete o ⟨true, bad⟩) s = .next t ∧ t.tierB = s.tierB ∧
      (bad = [] → tierRead t .a (x.addrA.toNat + 4096 * x.doneA) (4096 * n) = tierRead s .b src (4096 * n)) ∧
      ((∃ k ∈ bad, 128 * k < 4096 * n) → 1 ≤ (reg t 0x6050).toNat) ∧
      (x.doneA + n ≠ x.size → (objOf t o.val).doneA = x.doneA + n ∧ (objOf t o.val).pendA = true) ∧
      (x.doneA + n = x.size → (objOf t o.val).resA = true ∧ (objOf t o.val).pendA = false)) ∧
  (∀ (o : Fin 4096) (bad : List Nat) (s : State),
    let x := objOf s o.val
    let n := runPages x.size x.extDone.length x.extDone x.donePages
    tierWorks s = true → x.pendB = true → ∃ t, exec (.promotionExtentComplete o ⟨false, bad⟩) s = .next t ∧
      (n ≠ x.size → (objOf t o.val).donePages = n ∧ (objOf t o.val).pendB = true) ∧
      (n = x.size → (objOf t o.val).resB = true ∧ (objOf t o.val).pendB = false)) ∧
  (∀ (o : Fin 4096) (j : ObjJob) (s : State),
    (objOf s o.val).jobs.find? (fun j => !j.promote && !j.started && demoteFree s o.val j.toA) = some j →
    ∃ t, exec (.demoteProceed o) s = .next t ∧
      (j.toA = true → (objOf s o.val).dirty = true → (objOf t o.val).writeback = true ∧ (objOf t o.val).demoting = true) ∧
      ((j.toA = true → (objOf s o.val).dirty = false) → resAt (objOf t o.val) j.toA = false)) ∧
  (∀ (o : Fin 4096) (bad : List Nat) (s : State),
    let x := objOf s o.val
    tierWorks s = true → x.writeback = true → ranksOn s x.homeAddr.toNat (4096 * x.size) = true →
    ∃ t, exec (.demoteWritebackDone ⟨o, bad⟩) s = .next t ∧ (objOf t o.val).dirty = false ∧ (objOf t o.val).writeback = false ∧
      (bad = [] → tierRead t .b x.homeAddr.toNat (4096 * x.size) = tierRead s .a x.addrA.toNat (4096 * x.size)) ∧
      ((∀ j ∈ x.jobs, j.promote = true → j.toA = false) → demoteFree s o.val true = true → (objOf t o.val).resA = false)) ∧
  (∀ (o : Fin 4096) (j : ObjJob) (s : State),
    let late := (objOf s o.val).jobs.filter fun j => !j.promote && !j.started && !demoteFree s o.val j.toA
    late.find? (fun j => late.all fun i => decide (j.deadline ≤ i.deadline)) = some j →
    ∃ t, exec (.demoteTimeout o) s = .next t ∧ objOf t o.val = { objOf s o.val with
        jobs := (objOf s o.val).jobs.erase j, demoting := ((objOf s o.val).jobs.erase j).any fun j => !j.promote } ∧
      (∀ k, k ≠ o.val → objOf t k = objOf s k) ∧ t.now = max s.now j.deadline ∧ Answered j.cmd stHeld 0 s t)

/-- O22. While the firmware runs and no operation waits, CREATE on an entry that is not VALID, with legal staging
words, makes it VALID with the next epoch, the staged home, size, address and format, and no hold or copy. DESTROY
with the entry's epoch clears VALID of an entry that nothing holds or references. RENEW gives such an entry, not
DIRTY, the next epoch and clears its upper-tier copies. Each leaves OK in OBJ_RESULT, and a refusal its status there
with the entry unchanged. While the firmware does not run the operation waits with BUSY set, and while one waits a
further OBJ_CMD is ignored. A read of OBJ_DATA0 samples the entry's twelve words. (R425, R427, R429, R447, R448, R518)
-/
def Obligations.ObjectCommands : Prop :=
  ∀ (e : BitVec 20) (s : State),
    let k := objSel s
    let o := objOf s k
    let x : ObjOp := ⟨1, e, k, s.objStage⟩
    let home := bitsOf (stageWord x 0) 1 0
    let addr := (stageWord x 4).toNat + 2 ^ 32 * (stageWord x 5).toNat
    let fmt := bitsOf (stageWord x 11) 3 0
    (s.objOp = none → s.mbox.fw = .running →
      (o.valid = false → createOk home (stageWord x 2).toNat addr fmt = true → ∃ t, exec (.objCreate e) s = .next t ∧
        reg t 0x6068 = 0#32 ∧ t.objOp = none ∧
        objOf t k = { home := BitVec.ofNat 2 home, valid := true, epoch := nextEpoch o.epoch, size := (stageWord x 2).toNat,
                      nsid := stageWord x 3, homeAddr := BitVec.ofNat 64 addr, fmt := BitVec.ofNat 4 fmt,
                      sc := (stageWord x 11).getLsbD 4 } ∧
        ∀ j, j ≠ k → objOf t j = objOf s j) ∧
      (o.valid = true ∨ createOk home (stageWord x 2).toNat addr fmt = false →
        exec (.objCreate e) s = .next (setReg 0x6068 (stRefusedConfig.setWidth 32) s)) ∧
      (objBusy o e = none → exec (.objDestroy e) s =
        .next (setReg 0x6068 0#32 (modObj k (fun o => { o with valid := false }) s))) ∧
      (objBusy o e = none → o.dirty = false → exec (.objRenew e) s =
        .next (setReg 0x6068 0#32 (modObj k (fun o => { o with epoch := nextEpoch o.epoch, resA := false, resB := false }) s))) ∧
      (∀ st, objBusy o e = some st → exec (.objDestroy e) s = .next (setReg 0x6068 (st.setWidth 32) s) ∧
        exec (.objRenew e) s = .next (setReg 0x6068 (st.setWidth 32) s))) ∧
    (∀ c n, (c = .objCreate e ∧ n = 1) ∨ (c = .objDestroy e ∧ n = 2) ∨ (c = .objRenew e ∧ n = 3) →
      (s.objOp = none → s.mbox.fw ≠ .running →
        exec c s = .next (orReg 0x6068 0x10000#32 { s with objOp := some ⟨n, e, k, s.objStage⟩ })) ∧
      (s.objOp ≠ none → exec c s = .next s)) ∧
    (∃ t, exec .objDataSample s = .next t ∧ t.objSample.length = 12 ∧
      (∀ n, n < 12 → t.objSample.getD n 0 = (objBits o >>> (32 * n)).setWidth 32) ∧
      t.out = s.out ++ [.readValue 0x6080 ((objBits o).setWidth 32)] ∧ t = { s with objSample := t.objSample, out := t.out })

/-- O23. TEMPO_START of a stopped tempo sets the counter and starts the tempo; in role SOLO the first boundary is
TEMPO_LEAD ahead, in role MASTER the first marker is placed there, and a follower waits for its first marker.
TEMPO_STOP of a running tempo waits for the next boundary; of a stopped one it is answered OK, and of one held by a
TEMPO_HOLD it stops the tempo at once and is answered OK. TEMPO_HOLD of a running SOLO tempo waits for the next
boundary; at a master it asks for a ring-wide hold; a follower refuses it. (R324) -/
def Obligations.TempoCommands : Prop :=
  ∀ (q : Fin 16) (p : Packet) (s : State),
    (Accepted 0x28 q p s .block → s.plant.fatal = 0 → tempoStopped s = true → ∃ t, exec (.tempoStart q p) s = .next t ∧
      t.tempo.running = true ∧ t.tempo.first = true ∧ t.tempo.slipped = false ∧
      t.tempo.startCmds = s.tempo.startCmds ++ [cmdOf 0x28 q p s] ∧ (s.tempo.holdCmds = [] → t.out = s.out) ∧
      (tempoRole s ≠ 2 → t.tempo.count = BitVec.ofNat 48 (par p 0 6) ∧ t.tempo.cmdHold = false) ∧
      (tempoRole s = 0 → s.tempo.ringHold = false → t.tempo.due = some (s.now + leadUnits s)) ∧
      (tempoRole s = 1 → s.tempo.ringHold = false → t.tempo.markFor = some (s.now + leadUnits s)) ∧
      (tempoRole s = 2 → t.tempo.awaitFirst = true)) ∧
    (Accepted 0x29 q p s .block →
      (tempoStopped s = true → exec (.tempoStop q p) s = .next (reply (cmdOf 0x29 q p s) stOk (taken 0x29 q p s))) ∧
      (tempoStopped s = false → s.tempo.awaitFirst = false → s.tempo.cmdHold = false → exec (.tempoStop q p) s =
        .next (modTempo (fun t => { t with stopCmds := t.stopCmds ++ [cmdOf 0x29 q p s] }) (taken 0x29 q p s))) ∧
      (tempoStopped s = false → s.tempo.cmdHold = true → s.tempo.ringHold = false → ∃ t, exec (.tempoStop q p) s = .next t ∧
        t.tempo.running = false ∧ t.tempo.due = none ∧ t.tempo.marks = [] ∧
        (s.tempo.stopCmds = [] → s.tempo.holdCmds = [] → s.tempo.startCmds = [] → Answered (cmdOf 0x29 q p s) stOk 0 s t))) ∧
    (Accepted 0x2A q p s .block →
      (tempoRole s = 2 → exec (.tempoHold q p) s = .next (reply (cmdOf 0x2A q p s) stRefusedConfig (taken 0x2A q p s))) ∧
      (tempoRole s = 0 → tempoStopped s = false → s.tempo.cmdHold = false → s.tempo.ringHold = false →
        exec (.tempoHold q p) s =
          .next (modTempo (fun t => { t with holdCmds := t.holdCmds ++ [cmdOf 0x2A q p s] }) (taken 0x2A q p s))) ∧
      (tempoRole s = 1 → tempoStopped s = false → s.tempo.cmdHold = false → s.tempo.ringHold = false →
        ∃ t, exec (.tempoHold q p) s = .next t ∧ t.tempo.holdCmds = s.tempo.holdCmds ++ [cmdOf 0x2A q p s] ∧
          (s.tempo.marks.any (·.hold) = false → s.tempo.atG = false → t.tempo.holdReq = true)))

/-- O24. SNAPSHOT with a legal area while the tempo runs arms a snapshot; while the tempo is stopped it freezes the
block's state at once and drains it into the area. RESTORE of a complete image while no segment runs begins, and
COMPARE of two. An image whose contexts fail their digests restores nothing, and the command is answered with the
page. When one fen's tiles have been loaded the fen is RESTORED, and the command is answered OK or MIRED: OK where
every page that holds its tiles agrees with its digest and no row was read bad. COMPARE is answered with its outcome.
A drain that completes updates the snapshot registers and answers its command with the manifest digest. (R529, R530,
R531, R533, R538, R539, R541, R542) -/
def Obligations.SnapshotCommands : Prop :=
  (∀ (q : Fin 16) (p : Packet) (s : State), Accepted 0x30 q p s .block → imgPages ≤ par p 8 4 → par p 0 8 % 4096 = 0 →
    par p 0 8 + 4096 * par p 8 4 ≤ 2 ^ 40 → ranksOn s (par p 0 8) (4096 * par p 8 4) = true → s.snap.armedCmd = none →
    (tempoStopped s = false → ∃ t, exec (.snapshot q p) s = .next t ∧
      t.snap = { s.snap with armedCmd := some (cmdOf 0x30 q p s, par p 0 8) } ∧ t.out = s.out) ∧
    (tempoStopped s = true → s.snap.draining = false → ∃ t, exec (.snapshot q p) s = .next t ∧ t.snap.draining = true ∧
      t.snap.addr = par p 0 8 ∧ t.snap.cmd = some (cmdOf 0x30 q p s) ∧ t.snap.tempo = lastTempo s ∧ t.snap.armedCmd = none)) ∧
  (∀ (q : Fin 16) (p : Packet) (s : State) (n : Nat), Accepted 0x31 q p s (.fen n) → noSegment s = true → (pfenOf s n).isSome →
    moveTouches s (some n) = false → headOk s (par p 0 8) = true → restoreOff s (some n) = false →
    exec (.restore q p) s = .next { taken 0x31 q p s with
      images := s.images ++ [⟨cmdOf 0x31 q p s, false, some n, par p 0 8, 0, false, false, 0, []⟩] }) ∧
  (∀ (q : Fin 16) (p : Packet) (s : State), Accepted 0x31 q p s .block → noSegment s = true → moveTouches s none = false →
    headOk s (par p 0 8) = true → exec (.restore q p) s = .next { taken 0x31 q p s with
      images := s.images ++ [⟨cmdOf 0x31 q p s, false, none, par p 0 8, 0, false, false, 0, []⟩] }) ∧
  (∀ (j : ImageJob) (s : State), ckRuns s = true → s.images.find? (fun j => !j.compare) = some j →
    (∀ k, (List.range 67).find? (fun k => !pageOk s j.addr1 k) = some k → exec .restoreLoadDone s =
      .next (replyWith j.cmd stCompareMismatch true (BitVec.ofNat 96 k) { s with images := s.images.erase j })) ∧
    (∀ n p, (List.range 67).find? (fun k => !pageOk s j.addr1 k) = none → j.target = some n → pfenOf s n = some p →
      (fenOf s p).pwr.st ≠ .off → ∃ t, exec .restoreLoadDone s = .next t ∧ t.images = s.images.erase j ∧
        (fenOf t p).life.restored = true ∧ (Answered j.cmd stOk 0 s t ∨ Answered j.cmd stMired 0 s t) ∧
        (j.badRows = [] → (∀ d, d < 512 → ∀ k ∈ tilePages (512 * n + d), pageOk s j.addr1 k = true) → Answered j.cmd stOk 0 s t))) ∧
  (∀ (q : Fin 16) (p : Packet) (s : State), Accepted 0x32 q p s .block → par p 16 1 < 2 → par p 17 1 < 2 →
    headOk s (par p 0 8) = true → headOk s (par p 8 8) = true →
    exec (.compare q p) s = .next { taken 0x32 q p s with
      images := s.images ++ [⟨cmdOf 0x32 q p s, true, none, par p 0 8, par p 8 8, decide (par p 16 1 = 1), decide (par p 17 1 = 1),
        if par p 20 4 = 0 then 0x35800000#32 else BitVec.ofNat 32 (par p 20 4), []⟩] }) ∧
  (∀ (j : ImageJob) (s : State), s.images.find? (fun j => j.compare) = some j → exec .compareDone s =
    .next (replyWith j.cmd (compareImages s j).1 true (compareImages s j).2 { s with images := s.images.erase j })) ∧
  (∀ s : State, s.snap.draining = true → imgRanksOn s s.snap.addr = true → s.tempo.actAt = none →
    ∃ t, exec .snapshotDrainComplete s = .next t ∧ t.snap.draining = false ∧ t.snap.snapTempo = s.snap.tempo ∧
      t.snap.lastSource = s.snap.source ∧ t.snap.lastMired = s.snap.mired ∧ t.snap.lastFailed = false ∧
      ∀ c, s.snap.cmd = some c → Answered c (if s.snap.mired then stMired else stOk)
        (BitVec.ofNat 96 (t.snap.digest.toNat + s.snap.tempo.toNat % 2 ^ 32 * 2 ^ 64)) s t)

/-- O25. FEN_RETIRE with a legal spare while a segment may run reserves the spare and waits for the boundary; while no
segment runs it takes effect at once: the map generation steps, every plan is unloaded, and the pfen that held the
number is retired and powered off where it is not OFF. Without a spare the number has no pfen and the command is
answered OK; with one the spare has the number, is stale and reserved no more, and is powered on where it is not ON.
FEN_ADMIT of a stale fen that is ON, with a new epoch, gives it the epoch and clears STALE, RESTORED and
RETENTION_FAULT, at once while no segment runs, otherwise at the boundary. FEN_POWER to the present state is answered
OK at once; to another it begins the transition, by the fence on the way to RETAIN or OFF and by the ramp otherwise,
or waits behind one in progress. (R545, R546, R547, R548, R549, R560, R561, R562) -/
def Obligations.FenLifeCommands : Prop :=
  (∀ (q : Fin 16) (p : Packet) (s : State) (n : Nat), Accepted 0x38 q p s (.fen n) → moveTouches s (some n) = false →
    (∀ x, par p 0 1 = x → x ≠ 0xFF → spareOk s x = true → noSegment s = false → ∃ t, exec (.fenRetire q p) s = .next t ∧
      t = { modFen x (fun f => { f with life := { f.life with reserved := true } }) (taken 0x38 q p s) with jobs := t.jobs } ∧
      t.jobs = s.jobs ++ [.retire (cmdOf 0x38 q p s) n (some x)]) ∧
    (∀ ph, par p 0 1 = 0xFF → noSegment s = true → pfenOf s n = some ph → ∃ t, exec (.fenRetire q p) s = .next t ∧
      pfenOf t n = none ∧ t.mapGen = s.mapGen + 1 ∧ (fenOf t ph).life.retired = true ∧
      (∀ k x, planOf t k = some x → x.unloading = true ∧ x.gone = true) ∧ ((fenOf s ph).pwr.st ≠ .off → Requested ph ⟨.off, none⟩ t) ∧
      ((∀ c k, .unload c k ∉ s.jobs) → Answered (cmdOf 0x38 q p s) stOk 0 s t)) ∧
    (∀ ph x, par p 0 1 = x → x ≠ 0xFF → spareOk s x = true → noSegment s = true → pfenOf s n = some ph → ∃ t,
      exec (.fenRetire q p) s = .next t ∧ pfenOf t n = some x ∧ t.mapGen = s.mapGen + 1 ∧ (fenOf t ph).life.retired = true ∧
      (∀ k y, planOf t k = some y → y.unloading = true ∧ y.gone = true) ∧ ((fenOf s ph).pwr.st ≠ .off → Requested ph ⟨.off, none⟩ t) ∧
      (fenOf t x).life.stale = true ∧ (fenOf t x).life.reserved = false ∧
      ((fenOf s x).pwr.st ≠ .on → Requested x ⟨.on, some (cmdOf 0x38 q p s)⟩ t))) ∧
  (∀ (q : Fin 16) (p : Packet) (s : State) (n ph : Nat), Accepted 0x39 q p s (.fen n) → pfenOf s n = some ph →
    let f := fenOf s ph
    let epoch := BitVec.ofNat 32 (par p 0 4)
    f.life.stale = true → epoch ≠ 0#32 → epoch ≠ f.life.epoch → fenReg s ph 0x310 = 0#32 → (fenReg s ph 0x718).getLsbD 0 = false →
    (f.pwr.st ≠ .on → exec (.fenAdmit q p) s = .next (reply (cmdOf 0x39 q p s) stRefusedPower (taken 0x39 q p s))) ∧
    (f.pwr.st = .on → noSegment s = true → exec (.fenAdmit q p) s =
      .next (reply (cmdOf 0x39 q p s) stOk (modFen ph (fun f => admittedFen f epoch) (taken 0x39 q p s)))) ∧
    (f.pwr.st = .on → noSegment s = false → ∃ t, exec (.fenAdmit q p) s = .next t ∧ t = { taken 0x39 q p s with jobs := t.jobs } ∧
      t.jobs = s.jobs ++ [.admitFen (cmdOf 0x39 q p s) n epoch])) ∧
  (∀ (q : Fin 16) (p : Packet) (s : State) (tgt : Target) (ph : Nat) (st : PwrSt), Accepted 0x3A q p s tgt →
    tgt = .pfen ph ∨ (∃ n, tgt = .fen n ∧ pfenOf s n = some ph) → pwrOfCode (par p 0 1) = some st →
    (st ≠ .on → fenPlanned s ph = false) →
    (st = .retain ∨ st = .off → (fenOf s ph).tiles.any (·.2.frozen) = false ∧ s.ports.any (fun x => decide (x.pfen = ph)) = false) →
    ((fenOf s ph).life.retired = true → st = .off) →
    ((fenOf s ph).pwr.job = none → (fenOf s ph).pwr.st = st →
      exec (.fenPower q p) s = .next (reply (cmdOf 0x3A q p s) stOk (taken 0x3A q p s))) ∧
    ((fenOf s ph).pwr.job = none → (fenOf s ph).pwr.st ≠ st → ∃ t, exec (.fenPower q p) s = .next t ∧
      (fenOf t ph).pwr.job = some ⟨st, some (cmdOf 0x3A q p s)⟩ ∧ (fenOf t ph).pwr.st = (fenOf s ph).pwr.st ∧
      (fenOf t ph).pwr.phase = (if st = .off ∨ (st = .retain ∧ ((fenOf s ph).pwr.st = .on ∨ (fenOf s ph).pwr.st = .idle))
        then .fenced else .ramping) ∧ (fenOf t ph).pwr.since = s.now ∧ t.out = s.out) ∧
    ((fenOf s ph).pwr.job ≠ none → ∃ t, exec (.fenPower q p) s = .next t ∧
      (fenOf t ph).pwr.queue = (fenOf s ph).pwr.queue ++ [⟨st, some (cmdOf 0x3A q p s)⟩] ∧ t.out = s.out))

/-- O26. A powering-down fen's fence ends 256 CK after it began and the buffers drain; the drain ends at once when no
lode transfer into the fen is in flight and otherwise at its limit of 4 microseconds. A transition's end puts the pfen
into its target state; one that comes up from OFF is stale. A fen reset that a write of RST_FEN begins makes the pfen
stale, drops what it has issued and ends 256 CK later, with every tile INVALID and every tag EMPTY. (R392, R545, R561,
R563, R565, R579) -/
def Obligations.FenTransitions : Prop :=
  ∀ (p : Fin 72) (s : State),
    ((fenOf s p.val).pwr.phase = .fenced → ∃ t, exec (.fenFenceEnd p) s = .next t ∧ (fenOf t p.val).pwr.phase = .draining ∧
      t.now = max s.now ((fenOf s p.val).pwr.since + 512) ∧ (fenOf t p.val).pwr.since = t.now ∧
      (∀ k, k ≠ p.val → fenOf t k = fenOf s k)) ∧
    ((fenOf s p.val).pwr.phase = .draining → ∃ t, exec (.fenDrainEnd p) s = .next t ∧ (fenOf t p.val).pwr.phase = .ramping ∧
      t.now = (if lodesInto s p.val then max s.now ((fenOf s p.val).pwr.since + 18000) else s.now)) ∧
    (∀ j rf, (fenOf s p.val).pwr.job = some j → (fenOf s p.val).pwr.phase = .ramping → (fenOf s p.val).pwr.queue = [] →
      ∃ t, exec (.fenPowerTransitionDone p rf) s = .next t ∧ (fenOf t p.val).pwr.st = j.target ∧
        (fenOf t p.val).pwr.phase = .none ∧ (fenOf t p.val).pwr.job = none ∧
        ((fenOf s p.val).pwr.st = .off → j.target = .on ∨ j.target = .idle → (fenOf t p.val).life.stale = true) ∧
        ∀ c, j.cmd = some c → Answered c stOk 0 s t) ∧
    (∀ v : Word, bitsOf v 6 0 = p.val → (fenOf s p.val).pwr.st ≠ .retain → (fenOf s p.val).pwr.st ≠ .off →
      ∃ t, exec (.rstFenWrite v) s = .next t ∧ (fenOf t p.val).resetUntil = some (s.ck + 256) ∧ (fenOf t p.val).pend = [] ∧
        (fenOf t p.val).seq = {} ∧ (fenOf t p.val).life.stale = true ∧ (∀ k, k ≠ p.val → fenOf t k = fenOf s k)) ∧
    (∀ e, (fenOf s p.val).resetUntil = some e → ∃ t, exec (.fenResetEnd p) s = .next t ∧ t.ck = max s.ck e ∧
      (fenOf t p.val).resetUntil = none ∧ (fenOf t p.val).bufW.tags = [] ∧ (fenOf t p.val).bufA.tags = [] ∧
      (fenOf t p.val).bufP.tags = [] ∧ (fenOf t p.val).bufA.rows = (fenOf s p.val).bufA.rows ∧
      (∀ a d, (tileOf (fenOf t p.val) a d).invalid = true) ∧ (∀ k, k ≠ p.val → fenOf t k = fenOf s k))

/-- O27. LINK_TRAIN of a link that has a role begins full training at phase 1, or fast retraining at phase 2 of a link
that is UP, RETRAINING or DOWN, and keeps its command; a shutdown takes the link OFF at once and is answered OK where
no other command of the link waits and no move over it fails. LINK_ROLE while the tempo is stopped sets the ring
address and the role of C2 and trains the ring links with FRESH = 1; C2 trains too where its role changes, or goes OFF
where it now has none. Phase 1 excludes at most one failed lane in each direction and goes on to phase 2; two failed
lanes of a direction in phase 1, or in phase 2 of full training, take the link DOWN with reason LANE. Phase 2 goes on
to phase 3 where no further lane fails, and a further one ends fast retraining for a full one from phase 1. Phase 3
goes on to phase 4 where the partner's CAPS meet the checks, and otherwise takes the link DOWN with the reason of the
first that fails. Phase 4 takes the least of the round trips measured. Phase 5 brings the link UP, and its command is
answered OK where it has one, that no other link keeps, and no move over it fails. A lane that fails on an UP link
that may retrain begins fast retraining, and otherwise takes it DOWN with reason LANE. (R460, R462, R463, R464, R465,
R466, R467, R468, R469) -/
def Obligations.LinkCommands : Prop :=
  (∀ (q : Fin 16) (p : Packet) (s : State), Accepted 0x40 q p s .block → par p 0 1 < 3 → par p 1 1 < 3 →
    let c := par p 0 1
    let x := cwOf s c
    (x.role ≠ 4 → par p 1 1 = 0 ∨ (par p 1 1 = 1 ∧ (x.st = .off ∨ x.st = .training)) → ∃ t, exec (.linkTrain q p) s = .next t ∧
      (cwOf t c).phase = 1 ∧ (cwOf t c).rxExcl = 0xF ∧ (cwOf t c).fast = false ∧
      (cwOf t c).st = (if linkKeeps x then .retraining else .training) ∧ (cwOf t c).cmds = x.cmds ++ [cmdOf 0x40 q p s] ∧
      (cwOf t c).phaseAt = s.now ∧ t.out = s.out ∧ ∀ k, k ≠ c → cwOf t k = cwOf s k) ∧
    (x.role ≠ 4 → par p 1 1 = 1 → x.st = .up ∨ x.st = .retraining ∨ x.st = .down → ∃ t, exec (.linkTrain q p) s = .next t ∧
      (cwOf t c).phase = 2 ∧ (cwOf t c).st = .retraining ∧ (cwOf t c).fast = true ∧ (cwOf t c).rxExcl = x.rxExcl ∧
      (cwOf t c).cmds = x.cmds ++ [cmdOf 0x40 q p s] ∧ t.out = s.out ∧ ∀ k, k ≠ c → cwOf t k = cwOf s k) ∧
    (par p 1 1 = 2 → ∃ t, exec (.linkTrain q p) s = .next t ∧ (cwOf t c).st = .off ∧ (cwOf t c).reason = 8 ∧
      (cwOf t c).fresh = true ∧ (cwOf t c).cmds = [] ∧ (x.cmds = [] → LinkAnswers c (cmdOf 0x40 q p s) s t))) ∧
  (∀ (q : Fin 16) (p : Packet) (s : State), Accepted 0x41 q p s .block → s.tempo.running = false → par p 0 1 < 16 →
    par p 2 1 ≠ 0 → par p 2 1 < 64 → par p 1 1 ≤ par p 2 1 → 2 ≤ par p 3 1 → par p 3 1 ≤ 4 → ∃ t, exec (.linkRole q p) s = .next t ∧
    t.ringId = BitVec.ofNat 4 (par p 0 1) ∧ t.ringPos = BitVec.ofNat 6 (par p 1 1) ∧ t.ringSize = BitVec.ofNat 6 (par p 2 1) ∧
    t.c2Role = BitVec.ofNat 3 (par p 3 1) ∧ (cwOf t 2).role = BitVec.ofNat 3 (par p 3 1) ∧
    (∀ c, c = 0 ∨ c = 1 → (cwOf t c).st = .training ∧ (cwOf t c).phase = 1 ∧ (cwOf t c).fresh = true) ∧
    (s.c2Role ≠ BitVec.ofNat 3 (par p 3 1) → par p 3 1 ≠ 4 →
      (cwOf t 2).st = .training ∧ (cwOf t 2).phase = 1 ∧ (cwOf t 2).fresh = true) ∧
    (s.c2Role ≠ BitVec.ofNat 3 (par p 3 1) → par p 3 1 = 4 → (cwOf t 2).st = .off ∧ (cwOf t 2).fresh = true)) ∧
  (∀ (c : Fin 3) (r : PhaseResult) (s : State),
    let x := cwOf s c.val
    let rx := exclMask x.rxExcl
    let tx := exclMask x.txExcl
    let many (m : BitVec 9) : Prop := 2 ≤ (lanesIn m).length
    (x.st = .training ∨ x.st = .retraining) → x.resetUntil = none → ∃ t, exec (.trainingPhaseEnd c r) s = .next t ∧
    (x.phase = 1 → ¬ many r.badLanes → ¬ many r.txBad → (cwOf t c.val).phase = 2 ∧ (cwOf t c.val).rxExcl = exclOf r.badLanes ∧
      (cwOf t c.val).txExcl = exclOf r.txBad ∧ (cwOf t c.val).phaseAt = s.now) ∧
    (x.phase = 1 → many r.badLanes ∨ many r.txBad → (cwOf t c.val).st = .down ∧ (cwOf t c.val).reason = 3) ∧
    (x.phase = 2 → r.badLanes = 0 → r.txBad = 0 → (cwOf t c.val).phase = 3 ∧ (cwOf t c.val).phaseAt = s.now) ∧
    (x.phase = 2 → x.fast = true → rx ||| r.badLanes ≠ rx ∨ tx ||| r.txBad ≠ tx →
      (cwOf t c.val).phase = 1 ∧ (cwOf t c.val).fast = false) ∧
    (x.phase = 2 → x.fast = false → many (rx ||| r.badLanes) ∨ many (tx ||| r.txBad) →
      (cwOf t c.val).st = .down ∧ (cwOf t c.val).reason = 3) ∧
    (∀ v, x.phase = 3 → r.caps = some v → capsFault s c.val v = none →
      (cwOf t c.val).phase = 4 ∧ (cwOf t c.val).partnerCaps = some v) ∧
    (∀ v k, x.phase = 3 → r.caps = some v → capsFault s c.val v = some k →
      (cwOf t c.val).st = .down ∧ (cwOf t c.val).reason = BitVec.ofNat 4 k) ∧
    (x.phase = 4 → x.exchanges ≠ [] → (cwOf t c.val).phase = 5 ∧ (cwOf t c.val).rtt = BitVec.ofNat 24 (leastRtt x.exchanges)) ∧
    (∀ v, x.phase = 5 → x.partnerCaps = some v → (cwOf t c.val).st = .up ∧ (cwOf t c.val).phase = 0 ∧ (cwOf t c.val).fresh = false ∧
      (cwOf t c.val).window = windowOf x.rtt.toNat ∧ (cwOf t c.val).cmds = [] ∧ ∀ k, x.cmds = [k] → LinkAnswers c.val k s t)) ∧
  (∀ (c : Fin 3) (lane : Fin 9) (why : LaneFail) (s : State), (cwOf s c.val).st = .up → laneFailed s c.val lane.val why = true →
    (regBit s (cwWin c.val 0x000) 0 = true → ∃ t, exec (.laneFailure c lane why) s = .next t ∧
      (cwOf t c.val).st = .retraining ∧ (cwOf t c.val).fast = true ∧ (cwOf t c.val).phase = 2 ∧
      ∀ k, k ≠ c.val → cwOf t k = cwOf s k) ∧
    (regBit s (cwWin c.val 0x000) 0 = false → ∃ t, exec (.laneFailure c lane why) s = .next t ∧
      (cwOf t c.val).st = .down ∧ (cwOf t c.val).reason = 3))

/-- O28. FLASH_QUEUE_BIND of an unbound queue with legal bases binds it with empty pointers, and of a bound queue with
nothing outstanding unbinds it, each answered OK; with commands outstanding the unbind is answered DEFERRED and waits.
The next extent of a copy to tier B, one that failed before a new one, gets a Read command in the next queue with a
free entry, written to the submission ring. A poll of a bound queue with commands outstanding comes FLASH_POLL MK
after the last; with no completions it changes nothing else, but for the doorbell of new commands. A completion entry
with the expected phase tag ends its command: a good one writes the extent, a failed one is read again once where that
may help, and is otherwise counted and leaves the copy mired. A command outstanding past FLASH_SLOW_MS is counted once
and logged. (R440, R441, R442, R443) -/
def Obligations.FlashQueues : Prop :=
  (∀ (q : Fin 16) (p : Packet) (s : State), Accepted 0x48 q p s .block → par p 0 1 < 8 → tierWorks s = true →
    (par p 1 1 = 1 → (flashOf s (par p 0 1)).bound = false → par p 8 4 + 4 ≤ 2 ^ 28 → par p 12 4 + 1 ≤ 2 ^ 28 →
      par p 16 4 + 16 ≤ 2 ^ 28 → ∃ t, exec (.flashQueueBind q p) s = .next t ∧ Answered (cmdOf 0x48 q p s) stOk 0 s t ∧
      flashOf t (par p 0 1) = {
        bound := true, phase := true, sqid := par p 2 2, cqid := par p 4 2, sqBase := par p 8 4,
        cqBase := par p 12 4, listBase := par p 16 4, sqdb := par p 24 8, cqdb := par p 32 8, lastPoll := s.now }) ∧
    (par p 1 1 = 0 → (flashOf s (par p 0 1)).bound = true → (flashOf s (par p 0 1)).unbinding = false →
      (flashOf s (par p 0 1)).out = [] → exec (.flashQueueBind q p) s =
        .next (reply (cmdOf 0x48 q p s) stOk (modFlash (par p 0 1) (fun _ => {}) (taken 0x48 q p s)))) ∧
    (par p 1 1 = 0 → (flashOf s (par p 0 1)).bound = true → (flashOf s (par p 0 1)).unbinding = false →
      (flashOf s (par p 0 1)).out ≠ [] → ∃ t, exec (.flashQueueBind q p) s = .next t ∧
        t.out = (replyWith (cmdOf 0x48 q p s) stDeferred false 0 s).out ∧ (flashOf t (par p 0 1)).unbinding = true ∧
        (flashOf t (par p 0 1)).unbindCmd = some (cmdOf 0x48 q p s) ∧ (flashOf t (par p 0 1)).bound = true)) ∧
  (∀ (o : Fin 4096) (q page n : Nat) (retried : Bool) (s : State),
    let y := objOf s o.val
    let x := flashOf s q
    nextExtent y = (page, n, retried) → nextFlash s = some q → tierWorks s = true → y.pendB = true → 0 < n → flashOut s < 2048 →
    ranksOn s (y.addrB.toNat + 4096 * page) (4096 * n) = true → ∃ t, exec (.flashExtentIssue o) s = .next t ∧
      objOf t o.val = (if retried then { y with extRetry := y.extRetry.drop 1 } else { y with extNext := y.extNext + n }) ∧
      flashOf t q = { x with tail := (x.tail + 1) % 256, sqUsed := x.sqUsed + 1,
                             out := x.out ++ [⟨x.tail, o.val, page, n, retried, s.now, false⟩] } ∧
      tierRead t .b (4096 * x.sqBase + 64 * x.tail) 64 = nvmeRead x.tail y.nsid (y.homeAddr.toNat + page) n
        (y.addrB.toNat + 4096 * page) (if n = 2 then y.addrB.toNat + 4096 * page + 4096 else 4096 * x.listBase + 256 * x.tail) ∧
      (∀ k, k ≠ q → flashOf t k = flashOf s k) ∧ t.flashNext = (q + 1) % 8 ∧ t.out = s.out ∧
      reg t 0x7208 = satCount (reg s 0x7208) 1) ∧
  (∀ (q : Fin 8) (s : State),
    let x := flashOf s q.val
    tierWorks s = true → x.bound = true → x.out ≠ [] → ∃ t, exec (.flashPollTick q []) s = .next t ∧
      t.now = max s.now (x.lastPoll + 9 * regBits s 0x7200 15 0) ∧ flashOf t q.val = { x with lastPoll := t.now, doorbell := x.tail } ∧
      t.out = s.out ++ (if x.tail = x.doorbell then [] else [.doorbell x.sqdb (BitVec.ofNat 32 x.tail)])) ∧
  (∀ (q : Fin 8) (e : NvmeCqe) (c : FlashCmd) (s : State),
    let x := flashOf s q.val
    let dst := (objOf s c.obj).addrB.toNat + 4096 * c.page
    tierWorks s = true → x.bound = true → x.out.find? (fun c => decide (c.cid = e.cid.val)) = some c → e.phase = x.phase →
    anyRank s .off (some .b) [4096 * x.cqBase] = false → anyRank s .waking (some .b) [4096 * x.cqBase] = false →
    (objOf s c.obj).pendB = true → ∃ t, exec (.flashPollTick q [e]) s = .next t ∧
      (e.failed = false → (objOf t c.obj).extDone = (objOf s c.obj).extDone ++ [c.page] ∧
        (objOf t c.obj).miredB = (objOf s c.obj).miredB ∧ (flashOf t q.val).out = x.out.erase c ∧
        tierRead t .b dst (4096 * c.pages) = (List.range (4096 * c.pages)).map (fun i => e.data.getD i 0#8)) ∧
      (e.failed = true → e.dnr = false → c.retried = false → reg t 0x720C = satCount (reg s 0x720C) 1 ∧
        (objOf t c.obj).extDone = (objOf s c.obj).extDone) ∧
      (e.failed = true → e.dnr = true ∨ c.retried = true → reg t 0x7210 = satCount (reg s 0x7210) 1 ∧
        (objOf t c.obj).miredB = true ∧ (objOf t c.obj).extDone = (objOf s c.obj).extDone ++ [c.page] ∧
        (flashOf t q.val).out = x.out.erase c) ∧
      (x.unbinding = false → e.failed = false → x.tail = x.doorbell →
        t.out = s.out ++ [.doorbell x.cqdb (BitVec.ofNat 32 ((x.head + 1) % 256))])) ∧
  (∀ (q : Fin 8) (cid : Fin 256) (c : FlashCmd) (s : State),
    (flashOf s q.val).out.find? (fun c => decide (c.cid = cid.val) && !c.slow) = some c → ∃ t, exec (.flashSlowTimeout q cid) s = .next t ∧
      t.now = max s.now (c.issued + 4500000 * regBits s 0x7204 15 0 + 1) ∧ reg t 0x7214 = satCount (reg s 0x7214) 1 ∧
      (flashOf t q.val).out = (flashOf s q.val).out.map (fun y => if y = c then { y with slow := true } else y) ∧
      (s.log.length < 256 → t.log.length = s.log.length + 1))

/-- O29. A read of a clear-on-read register that answers returns its value and leaves it 0, every other register as it
was; what events of the same MK cycle set or counted is not in the value returned and stays in the register for the
next read (SEQ_STALL of a fen stalled at a WAIT takes the CK of the stall up to the read first); a fen window's
register that does not answer in the fen's power state reads 0, keeps its value, and the access adds one to
REG_OFF_ACCESS; one whose fen is being reset waits for the reset's end. A read of another register changes nothing. A
read of the low word of a pair latches the high word. A read of LODE_STAT0 samples the four status words of the lode
that LODE_SEL names, and a read of COUNT_CUR samples COUNT_OLD of the same counter. (R11, R12, R415, R416, R589, R590)
-/
def Obligations.RegisterReads : Prop :=
  (∀ (off : BitVec 20) (s : State), off.toNat % 4 = 0 →
    (isRc off.toNat = false → exec (.rcRegisterRead off) s = .next s) ∧
    (isRc off.toNat = true → Answers off.toNat s → ∃ t, exec (.rcRegisterRead off) s = .next t ∧
      let u := countedTo off.toNat s
      t.out = s.out ++ [.readValue off.toNat (beforeEvents u off.toNat)] ∧
      reg t off.toNat = survivors u off.toNat ∧ (∀ o, o ≠ off.toNat → reg t o = reg s o) ∧
      (eventsOf u off.toNat = none → beforeEvents u off.toNat = reg u off.toNat ∧ survivors u off.toNat = 0#32) ∧
      t = { u with regs := t.regs, events := t.events, out := t.out, heron := t.heron } ∧
      (∀ p o, fenAt off.toNat = some (p, o) → o = 0xA08 → (fenOf s p).seq.st = .waiting → (fenOf s p).seq.stallFrom < s.ck →
        reg u off.toNat = satCount (reg s off.toNat) (s.ck - (fenOf s p).seq.stallFrom)) ∧
      ((∀ p o, fenAt off.toNat = some (p, o) → o = 0xA08 → (fenOf s p).seq.st ≠ .waiting) → u = s)) ∧
    (∀ p o, isRc off.toNat = true → fenAt off.toNat = some (p, o) → (fenOf s p).resetUntil = none → fenAnswers (fenOf s p) = false →
      exec (.rcRegisterRead off) s = .next (bump 0x20 1 (emit (.readValue off.toNat 0#32) s))) ∧
    (∀ p o e, fenAt off.toNat = some (p, o) → (fenOf s p).resetUntil = some e → isRc off.toNat = true →
      exec (.rcRegisterRead off) s = exec (.rcRegisterRead off) (fenReset p (advanceCk e s)))) ∧
  (∀ s : State, PairLatched (exec (.latchedPairRead .tempo) s) 0x1010 s.tempo.count s ∧
    PairLatched (exec (.latchedPairRead .snapTempo) s) 0x218 s.snap.snapTempo s ∧
    PairLatched (exec (.latchedPairRead .snapDigest) s) 0x220 s.snap.digest s ∧
    PairLatched (exec (.latchedPairRead .twinTempo) s) 0x248 s.twin.tempo s) ∧
  (∀ s : State, let v := lodeStatus s (regBits s 0x6000 9 0)
    ∃ t, exec .lodeStatSample s = .next t ∧ t.out = s.out ++ [.readValue 0x6004 (v.setWidth 32)] ∧
      (∀ k, k < 4 → t.lodeSample.getD k 0 = (v >>> (32 * k)).setWidth 32) ∧ t = { s with lodeSample := t.lodeSample, out := t.out }) ∧
  (∀ (p : Fin 72) (s : State), Answers (fenWin p.val 0xB20) s →
    let x := counterOf (fenOf s p.val) (bitsOf (fenReg s p.val 0xB1C) 7 0)
    ∃ t, exec (.countCurSample p) s = .next t ∧ t.out = s.out ++ [.readValue (fenWin p.val 0xB20) (countCur x)] ∧
      readReg t (fenWin p.val 0xB24) = countOld x ∧ (∀ k, k ≠ p.val → fenOf t k = fenOf s k) ∧
      t = { s with fens := t.fens, out := t.out })

/-- O30. A write of an RW register replaces its defined bits, a write of a W1C register clears the bits that the value
names but for those that an event of the same MK cycle set, and a write of an RWS register replaces its shadow copy
and not the value in force; reserved bits keep what they hold. A field that the value gives a reserved value keeps its
value, and the log takes an entry. A queue's base registers take a write only while the queue is disabled. A staging
word of OBJ_CMD takes any value. A write to SNAP_STATUS clears the busy marks of areas that it names, and one that
clears STALE_INFO's VALID, unless the report came in the same MK cycle, clears the report. A write to a fen window's
register that does not answer is ignored and counted. A write to a register that takes none changes nothing. (R11,
R12, R13, R14, R493, R510, R590) -/
def Obligations.RegisterWrites : Prop :=
  ∀ (off : BitVec 20) (v : Word) (s : State), off.toNat % 4 = 0 →
    (∀ f, formOf off.toNat = some f → Answers off.toNat s →
      (f.access = .w1c → ∃ t, exec (.registerWrite off v) s = .next t ∧ reg t off.toNat = reg s off.toNat &&& ~~~(v &&& f.mask &&& ~~~survivors s off.toNat) ∧
        (∀ o, o ≠ off.toNat → reg t o = reg s o) ∧ t = { s with regs := t.regs }) ∧
      (f.access = .rw → (fixEnums (reg s off.toNat) f.enums v).2 = false → ∃ t, exec (.registerWrite off v) s = .next t ∧
        reg t off.toNat = (reg s off.toNat &&& ~~~f.mask) ||| (v &&& f.mask) ∧
        (∀ o, o ≠ off.toNat → reg t o = reg s o) ∧ t = { s with regs := t.regs }) ∧
      (f.access = .rws → (fixEnums (fileGet s.shadow off.toNat) f.enums v).2 = false → ∃ t, exec (.registerWrite off v) s = .next t ∧
        fileGet t.shadow off.toNat = (fileGet s.shadow off.toNat &&& ~~~f.mask) ||| (v &&& f.mask) ∧
        (∀ o, o ≠ off.toNat → fileGet t.shadow o = fileGet s.shadow o) ∧ t = { s with shadow := t.shadow }) ∧
      (∀ hi lo a b, (hi, lo, a, b) ∈ f.enums → bitsOf v hi lo < a ∨ b < bitsOf v hi lo →
        ∃ t, exec (.registerWrite off v) s = .next t ∧
          (s.log.length < 256 → ∃ e, t.log = s.log ++ [e] ∧ e.kind = 0x0001) ∧
          (f.access = .rw → bitsOf (reg t off.toNat) hi lo = bitsOf (reg s off.toNat) hi lo) ∧
          (f.access = .rws → bitsOf (fileGet t.shadow off.toNat) hi lo = bitsOf (fileGet s.shadow off.toNat) hi lo))) ∧
    (∀ q o, formOf off.toNat = none → off.toNat = cqWin q o → q < 16 → o < 0x10 →
      ((queueOf s q).enabled = true → exec (.registerWrite off v) s = .next s) ∧
      ((queueOf s q).enabled = false → exec (.registerWrite off v) s =
        .next (setReg off.toNat (if o % 8 = 0 then v &&& 0xFFFFF000#32 else v) s))) ∧
    (∀ k, off.toNat = 0x6080 + 4 * k → k < 12 → ∃ t, exec (.registerWrite off v) s = .next t ∧ mapGet 0#32 t.objStage k = v ∧
      (∀ j, j ≠ k → mapGet 0#32 t.objStage j = mapGet 0#32 s.objStage j) ∧ t = { s with objStage := t.objStage }) ∧
    (∀ p o, fenAt off.toNat = some (p, o) → (fenOf s p).resetUntil = none → fenAlways o = false → fenAnswers (fenOf s p) = false →
      exec (.registerWrite off v) s = .next (bump 0x20 1 s)) ∧
    (off.toNat = 0x204 → ∃ t, exec (.registerWrite off v) s = .next t ∧ t = { s with snap := t.snap } ∧
      t.snap = { s.snap with busy0 := s.snap.busy0 && !v.getLsbD 2, busy1 := s.snap.busy1 && !v.getLsbD 3 }) ∧
    (off.toNat = 0x601C → v.getLsbD 0 = true → (survivors s 0x601C).getLsbD 0 = false → ∃ t, exec (.registerWrite off v) s = .next t ∧ t.staleSeen = [] ∧
      reg t 0x601C = 0#32 ∧ reg t 0x6020 = 0#32 ∧ reg t 0x6024 = 0#32) ∧
    (off.toNat = 0x601C → v.getLsbD 0 = false ∨ (survivors s 0x601C).getLsbD 0 = true → exec (.registerWrite off v) s = .next s) ∧
    (off.toNat = 0xD000 → v.toNat % 16 = 0 → ∃ t, exec (.registerWrite off v) s = .next t ∧ t.mbox = { s.mbox with err := false } ∧
      t = { s with mbox := t.mbox }) ∧
    (off.toNat = 0xD000 → 5 ≤ v.toNat % 16 → exec (.registerWrite off v) s = .next (logReserved 0xD000 v s)) ∧
    (off.toNat = 0x6064 → v.toNat % 4 = 0 → exec (.registerWrite off v) s = .next (logReserved 0x6064 v s)) ∧
    (∀ q o, off.toNat = cqWin q o → q < 16 → 0x10 ≤ o → o < 0x40 → exec (.registerWrite off v) s = .next s) ∧
    (formOf off.toNat = none → Answers off.toNat s → off.toNat ≠ 0x204 → off.toNat ≠ 0x601C → (off.toNat < 0x6080 ∨ 0x60B0 ≤ off.toNat) →
      (off.toNat < 0x2000 ∨ 0x2400 ≤ off.toNat) → off.toNat ≠ 0xD000 → off.toNat ≠ 0x6064 →
      exec (.registerWrite off v) s = .next s)

/-- O31. CQ_ENABLE of a disabled queue sets the command head and tail, the reply tail and RQ_HEAD to 0, the reply
phase to 1 and the expected sequence to 0, with the ring size it names, or the one it had where the value is reserved;
commands in progress keep the reply ring that they had; an enabled queue ignores it. CQ_DISABLE disables at once,
drops the commands not yet accepted and keeps those in progress. A reserved ring size is logged. A doorbell value
below the ring size sets the tail, and another is logged and ignored. RQ_HEAD takes the value written. (R493, R494,
R495) -/
def Obligations.QueueRegisters : Prop :=
  ∀ (q : Fin 16) (s : State),
    (∀ logE : BitVec 4, (queueOf s q.val).enabled = true → exec (.cqEnable q logE) s = .next s) ∧
    (∀ logE : BitVec 4, (queueOf s q.val).enabled = false → ∃ t, exec (.cqEnable q logE) s = .next t ∧
      (let x := queueOf s q.val
       let y := queueOf t q.val
       y.enabled = true ∧ y.stopped = false ∧ y.inprog = x.inprog ∧ y.head = 0 ∧ y.tail = 0 ∧ y.expSeq = 0 ∧ y.replies.tail = 0 ∧
       y.replies.phase = true ∧ y.replies.size = ringSizeOf t q.val ∧
       y.replies.base = (reg s (cqWin q.val 0x08)).toNat + (reg s (cqWin q.val 0x0C)).toNat * 2 ^ 32 ∧
       ∀ e ∈ x.inprog, e.1.gen = x.gen → repliesFor y e.1.gen = x.replies) ∧
      reg t (cqWin q.val 0x18) = 0#32 ∧ (∀ k, k ≠ q.val → queueOf t k = queueOf s k) ∧
      ringSizeOf t q.val = (if 4 ≤ logE.toNat ∧ logE.toNat ≤ 12 then 2 ^ logE.toNat else ringSizeOf s q.val) ∧
      (s.log.length < 256 → logE.toNat < 4 ∨ 12 < logE.toNat → ∃ e, t.log = s.log ++ [e] ∧ e.kind = 0x0001 ∧
        e.detail = detailOf [cqWin q.val 0x10, 2 * logE.toNat + 1]) ∧
      t = { s with queues := t.queues, regs := t.regs, events := t.events, log := t.log }) ∧
    (∀ logE : BitVec 4, ∃ t, exec (.cqDisable q logE) s = .next t ∧
      queueOf t q.val = { queueOf s q.val with enabled := false, head := (queueOf s q.val).tail } ∧
      (∀ k, k ≠ q.val → queueOf t k = queueOf s k) ∧ t.out = s.out ∧ ((queueOf s q.val).enabled = true → t.regs = s.regs)) ∧
    (∀ v : Word, bitsOf v 11 0 < ringSizeOf s q.val → ∃ t, exec (.cqDoorbellWrite q v) s = .next t ∧
      queueOf t q.val = { queueOf s q.val with tail := bitsOf v 11 0 } ∧ (∀ k, k ≠ q.val → queueOf t k = queueOf s k) ∧
      t = { s with queues := t.queues }) ∧
    (∀ v : Word, ringSizeOf s q.val ≤ bitsOf v 11 0 → ∃ t, exec (.cqDoorbellWrite q v) s = .next t ∧ t.queues = s.queues ∧
      (s.log.length < 256 → ∃ e, t.log = s.log ++ [e] ∧ e.kind = 0x0004 ∧ e.source = BitVec.ofNat 16 (0x400 + q.val))) ∧
    (∀ v : Word, ∃ t, exec (.rqHeadWrite q v) s = .next t ∧ reg t (cqWin q.val 0x18) = v &&& 0xFFF#32 ∧
      (∀ o, o ≠ cqWin q.val 0x18 → reg t o = reg s o) ∧ t = { s with regs := t.regs })

/-- O32. A write of ERR_POP while the log holds no entry changes nothing. An entry logged with an ERR_POP goes behind
the entries held, and ERR_DATA0 to ERR_DATA7 then present the oldest entry that remains. (R604) -/
def Obligations.ErrPopRules : Prop :=
  (∀ s : State, readReg s 0x4004 = 0#32 → s.log.length ≤ 256 → exec .errPopWrite s = .next s) ∧
  (∀ (k : LogKind) (source : Nat) (detail : List Nat) (e : LogEntry) (l : List LogEntry) (s : State),
    s.log = e :: l → s.log.length < 256 → ∃ t x, exec .errPopWrite s = .next t ∧
      (logAdd k source detail t).log = l ++ [x] ∧ x.kind = BitVec.ofNat 16 k.1 ∧ x.source = BitVec.ofNat 16 source ∧
      exec .errPopWrite (logAdd k source detail s) = .next { logAdd k source detail s with log := l ++ [x] } ∧
      ∀ j, j < 8 → readReg (logAdd k source detail t) (0x4020 + 4 * j) = errData { s with log := l ++ [x] } j)

/-- O33. While the firmware does not run, the control core accepts no command of any opcode and a fetch that would
fail executes nothing; a doorbell still sets the tail. Once the firmware runs a queue's readiness rests on the queue
alone. A cold or a warm reset leaves the block in BOOT with an empty image RAM, and a warm reset starts the control
core that CORE_SELECT chose. (R518) -/
def Obligations.BootAcceptsNothing : Prop :=
  (∀ (opcode : Nat) (q : Fin 16) (p : Packet) (body : Cmd → Target → State → State) (s : State), s.mbox.fw = .boot →
    acceptCmd opcode q.val p body s = s ∧ exec (.cmdFetchErr q) s = .next s ∧
    (∀ v : Word, bitsOf v 11 0 < ringSizeOf s q.val → ∃ t, exec (.cqDoorbellWrite q v) s = .next t ∧
      (queueOf t q.val).tail = bitsOf v 11 0)) ∧
  (∀ (opcode : Nat) (q : Fin 16) (p : Packet) (s : State), s.mbox.fw = .running → (queueOf s q.val).enabled = true →
    (queueOf s q.val).stopped = false → (queueOf s q.val).head ≠ (queueOf s q.val).tail → repliesOf opcode ≤ replyRoom s q.val →
    (queueOf s q.val).inprog = [] → cmdReady opcode q.val p s = true) ∧
  (∀ s : State, (∃ t, exec .rstCtrlWarm s = .next t ∧ t.mbox.fw = .boot ∧ t.mbox.image = [] ∧ t.plant.core = s.mbox.coreNext) ∧
    (∃ t, exec .warmResetInput s = .next t ∧ t.mbox.fw = .boot ∧ t.mbox.image = [] ∧ t.plant.core = s.mbox.coreNext) ∧
    (∀ input, ∃ t, exec (.blockColdReset input) s = .next t ∧ t.mbox.fw = .boot ∧ t.mbox.image = []) ∧
    ∃ t, exec .coreSelect s = .next t ∧ t.mbox.coreNext = regBit s 0xD020 0)

/-- O34. A warm reset, by register or by input, keeps the spare map, the tiers, the epochs and retirement of fens, the
epochs of objects and the generations of lodes, stops the tempo and the queues, makes every fen stale and ends 2 ms
later. A cold reset returns the block to its reset state; the cold-reset input leaves the memory of the tiers. A tier-
engine reset is ignored and logged while a plan is loaded, and otherwise frees every lode, unbinds every flash queue,
empties the weight cache, answers a command that waits in it REFUSED_CONFIG with CHECK 0xFD, and ends 10 microseconds
later. A causeway reset takes the link OFF, clears its counters, before what it loses counts in CW_LOST, and ends 1
microsecond later. (R489, R545, R579, R580, R581, R596) -/
def Obligations.ResetCommands : Prop :=
  (∀ (c : Instr) (s : State), c = .rstCtrlWarm ∨ c = .warmResetInput → ∃ t, exec c s = .next t ∧
    t.plant.resetCause = (if c = .rstCtrlWarm then 2 else 3) ∧ t.plant.resetUntil = some (s.now + 9000000) ∧
    t.spareMap = s.spareMap ∧ t.mapGen = s.mapGen ∧ t.tierA = s.tierA ∧ t.tierB = s.tierB ∧
    t.objs = mapVals {} (fun o => { epoch := o.epoch }) s.objs ∧ t.lodes = mapVals {} (fun l => { gen := l.gen }) s.lodes ∧
    t.tempo = {} ∧ t.queues = [] ∧ t.plans = [] ∧ t.streams = [] ∧ t.flash = [] ∧ t.mbox.fw = .boot ∧ t.out = s.out ∧
    (∃ l, t.log = s.log ++ l) ∧ (∀ o, warmKept o = false → reg t o = regReset o) ∧
    ∀ p, p < 72 → (fenOf t p).life.stale = true ∧ (fenOf t p).life.epoch = (fenOf s p).life.epoch ∧
      (fenOf t p).life.retired = (fenOf s p).life.retired ∧ (fenOf t p).pwr.st = startPwr s p ∧
      ∀ a d, (tileOf (fenOf t p) a d).invalid = true) ∧
  (∀ (s : State) (e : Nat), s.plant.resetUntil = some e → ∃ t, exec .warmResetEnd s = .next t ∧
    t.plant = { s.plant with resetUntil := none } ∧ t.now = max s.now e ∧ t.fens = s.fens ∧ t.out = s.out ∧
    ∀ c, c < 3 → (cwOf t c).st = if (cwOf s c).enabled ∧ (cwOf s c).role ≠ 4 then .training else (cwOf s c).st) ∧
  (∀ (input : Bool) (s : State), ∃ t, exec (.blockColdReset input) s = .next t ∧ t.plant = { resetCause := if input then 1 else 0 } ∧
    t = { State.reset with
      pending := s.pending, now := s.now, ck := s.ck, out := s.out, free := s.free, plant := t.plant,
      tierA := if input then s.tierA else [], tierB := if input then s.tierB else [] }) ∧
  (∀ s : State, plansOf s ≠ [] → exec .rstCtrlTier s = .next (logAdd lkPwrDomainBusy 0x300 [0xC004] s)) ∧
  (∀ s : State, plansOf s = [] → ∃ t, exec .rstCtrlTier s = .next t ∧ t.flash = [] ∧ t.cache = [] ∧ t.arms = [] ∧
    t.plant.tierResetUntil = some (s.now + 45000) ∧ t.plans = s.plans ∧
    (∀ o, (objOf t o).pendA = false ∧ (objOf t o).pendB = false ∧ (objOf t o).demoting = false ∧ (objOf t o).donePages = 0) ∧
    (∀ l, (lodeOf t l).st = .free ∧ (lodeOf t l).gen = (lodeOf s l).gen) ∧
    (tierCmds s = [] → t.out = s.out) ∧ ∀ c, tierCmds s = [c] → Answered c stRefusedConfig 0xFD s t) ∧
  (∀ (s : State) (e : Nat), s.plant.tierResetUntil = some e → ∃ t, exec .tierEngineResetEnd s = .next t ∧
    t.plant = { s.plant with tierResetUntil := none } ∧ t.now = max s.now e) ∧
  (∀ (c : Fin 3) (s : State), ∃ t, exec (.rstCtrlCw c) s = .next t ∧ (cwOf t c.val).st = .off ∧
    (cwOf t c.val).resetUntil = some (s.now + 4500) ∧ (cwOf t c.val).cmds = [] ∧ (cwOf t c.val).tx = [] ∧
    ∀ o, 0x040 ≤ o → o < 0x0A4 → o ≠ 0x058 → reg t (cwWin c.val o) = 0#32) ∧
  (∀ (c : Fin 3) (s : State) (e : Nat), (cwOf s c.val).resetUntil = some e → ∃ t, exec (.causewayResetEnd c) s = .next t ∧
    (cwOf t c.val).resetUntil = none ∧ t.now = max s.now e ∧
    (cwOf t c.val).st = if (cwOf s c.val).enabled then .training else (cwOf s c.val).st)

/-- O35. Each of the steps runs only when START_STEP reports the step before it. Step 2 locks the clocks; step 3 takes
over the fuses; step 4 records what BIST finds, joined with what the repair records named, and which pfens fail; step
5 builds the spare map for the 64 logical fens in ascending order, turns both domains on, puts every pfen that holds a
number ON, and makes every pfen stale. (R582, R583) -/
def Obligations.StartUpSteps : Prop :=
  ∀ s : State,
    (s.plant.step = 1 → s.plant.mkLock = false → ∃ t, exec .startupClockLock s = .next t ∧
      t.plant = { s.plant with pll0 := true, pll1 := true, mkLock := true, step := 2 } ∧ t = { s with plant := t.plant }) ∧
    (∀ f, s.plant.step = 2 → ∃ t, exec (.fuseLoad f) s = .next t ∧ t.plant = { s.plant with fuses := some f, step := 3 } ∧
      t.retiredWay = f.retiredWay ∧ t.spareTa = f.spareTaPorts ∧ t.regs = (setRepairs f.arrRepair f.sfuRepair s).regs ∧
      ∀ p, p < 72 → (fenOf t p).life.disabled = f.disable.getLsbD p) ∧
    (∀ b, s.plant.step = 3 → ∃ t, exec (.startupBist b) s = .next t ∧ t.plant.step = 4 ∧ t.plant.bist = some b ∧
      t.spareTree = b.treeOk ∧ t.spareCore = b.coreOk ∧
      ∀ p, p < 72 → (fenOf t p).life.bistFailed = bistFails b s p ∧
        (∀ a, a < 4 → fenReg t p (0x300 + 4 * a) =
          BitVec.ofNat 32 (packBad (bistArray b s p a).1 0 6 2 + packBad (bistArray b s p a).2 12 6 2) &&& 0xFFFFFF#32) ∧
        fenReg t p 0x700 = BitVec.ofNat 32 (packBad (bistLanes b s p) 0 7 4) &&& 0xFFFFFFF#32) ∧
    (s.plant.step = 4 → ∃ t, exec .spareMapBuild s = .next t ∧ t.plant.step = 5 ∧ t.plant.cacheUp = true ∧ t.plant.tierUp = true ∧
      t.mapGen = 0 ∧ t.spareMap = mapBuild (match s.plant.fuses with | some f => f.remaps | none => [])
        (fun p => !(fenOf s p).life.bistFailed && !(fenOf s p).life.disabled) (List.range 64) [] ∧
      ∀ p, p < 72 → (fenOf t p).life.stale = true ∧ (fenOf t p).pwr.st = startPwr t p ∧
        ((logicalOf t p).isSome = true → (fenOf t p).pwr.st = .on)) ∧
    (s.plant.step ≠ 1 → exec .startupClockLock s = .next s) ∧ (∀ f, s.plant.step ≠ 2 → exec (.fuseLoad f) s = .next s) ∧
    (∀ b, s.plant.step ≠ 3 → exec (.startupBist b) s = .next s) ∧ (s.plant.step ≠ 4 → exec .spareMapBuild s = .next s)

/-- O36. Turning a domain on sets its field at once and takes 20 microseconds, at whose end the status reports the
domain up, PD_CACHE with every line invalid. Turning one off that is not in use takes effect at once while the tempo
is stopped and otherwise waits for the boundary; one in use stays on, and the log takes PWR_DOMAIN_BUSY. (R559) -/
def Obligations.PowerDomains : Prop :=
  ∀ (tier : Bool) (s : State),
    let c := if tier then Instr.pwrDomainTierOn else Instr.pwrDomainCacheOn
    let b := if tier then 1 else 0
    let up := fun t : State => if tier then t.plant.tierUp else t.plant.cacheUp
    let onAt := fun t : State => if tier then t.plant.tierOnAt else t.plant.cacheOnAt
    let busy := if tier then tierBusy s else cacheBusy s
    (∃ t, exec (c true) s = .next t ∧ regBit t 0x5004 b = true ∧ regBit t 0x5004 (1 - b) = regBit s 0x5004 (1 - b) ∧ up t = up s ∧
      (up s = false → onAt s = none → onAt t = some (s.now + 90000)) ∧ (∀ o, o ≠ 0x5004 → reg t o = reg s o)) ∧
    (busy = true → exec (c false) s = .next (logAdd lkPwrDomainBusy 0x300 [0x5004] s)) ∧
    (busy = false → regBit s 0x5004 b = true → tempoStopped s = true → ∃ t, exec (c false) s = .next t ∧
      regBit t 0x5004 b = false ∧ regBit t 0x5004 (1 - b) = regBit s 0x5004 (1 - b) ∧ up t = false ∧ onAt t = none) ∧
    (busy = false → regBit s 0x5004 b = true → tempoStopped s = false → ∃ t, exec (c false) s = .next t ∧
      regBit t 0x5004 b = false ∧ up t = up s ∧ t.jobs = s.jobs ++ [.domainOff tier]) ∧
    (busy = false → regBit s 0x5004 b = false → exec (c false) s = .next s) ∧
    (∀ e, onAt s = some e → ∃ t, exec (.domainPowerUpDone tier) s = .next t ∧ up t = true ∧ onAt t = none ∧ t.now = max s.now e ∧
      t.cache = if tier then s.cache else [])

/-- O37. A write of TB_RANK_PWR fences each rank that is ON and loses its bit, wakes each that is OFF and gains it,
and leaves one in another state as it is. A fenced rank drains once TB_FENCE_US have passed; a draining one goes OFF
at once when nothing is in flight to it, otherwise at TB_DRAIN_US, and wakes when its bit has been set meanwhile; a
waking one is ON with its records written and cleared, and is fenced again when its bit has been cleared meanwhile.
(R444, R446) -/
def Obligations.TierRanks : Prop :=
  (∀ (v : Word) (s : State), ∃ t, exec (.tbRankPwrWrite v) s = .next t ∧ reg t 0x60C0 = v &&& 0xFFFF#32 ∧
    t = { s with regs := t.regs, ranks := t.ranks } ∧ (∀ o, o ≠ 0x60C0 → reg t o = reg s o) ∧
    (∀ r, 16 ≤ r → rankOf t r = rankOf s r) ∧
    ∀ r, r < 16 → rankOf t r =
      (if (rankOf s r).st = .on ∧ v.getLsbD r = false then { rankOf s r with st := .fenced, since := s.now }
       else if (rankOf s r).st = .off ∧ v.getLsbD r = true then { rankOf s r with st := .waking, since := s.now } else rankOf s r)) ∧
  (∀ (r : Fin 16) (s : State), (rankOf s r.val).st = .fenced → ∃ t, exec (.rankFenceExpiry r) s = .next t ∧
    (rankOf t r.val).st = .draining ∧ t.now = max s.now ((rankOf s r.val).since + 4500 * regBits s 0x60CC 15 0) ∧
    (rankOf t r.val).since = t.now ∧ ∀ k, k ≠ r.val → rankOf t k = rankOf s k) ∧
  (∀ (r : Fin 16) (s : State), (rankOf s r.val).st = .draining → ∃ t, exec (.rankDrainEnd r) s = .next t ∧
    (rankOf t r.val).st = (if regBit s 0x60C0 r.val then .waking else .off) ∧ (rankOf t r.val).records = (rankOf s r.val).records ∧
    t.now = (if rankBusy s r.val then max s.now ((rankOf s r.val).since + 4500 * regBits s 0x60D0 15 0) else s.now) ∧
    ∀ k, k ≠ r.val → rankOf t k = rankOf s k) ∧
  (∀ (r : Fin 16) (s : State), (rankOf s r.val).st = .waking → ∃ t, exec (.rankWakeDone r) s = .next t ∧
    (rankOf t r.val).st = (if regBit s 0x60C0 r.val then .on else .fenced) ∧ (rankOf t r.val).records = [] ∧
    ((rankOf s r.val).records = [] → t = { s with ranks := t.ranks }) ∧ ∀ k, k ≠ r.val → rankOf t k = rankOf s k)

/-- O38. FW_BEGIN in BOOT enters LOADING with an empty image and address 0; FW_END in LOADING enters CHECKING; ABORT
in either returns to BOOT with reason ABORTED; CORE_SELECT takes the core that MB_ARG names; each clears
MB_STATUS.ERR. A command in a state that does not allow it sets ERR and does nothing else. The check starts a good
image, which takes an OBJ_CMD that waits, and returns the block to BOOT with its reason for a bad one. (R28, R516,
R517, R520) -/
def Obligations.FirmwareCommands : Prop :=
  ∀ s : State,
    (s.mbox.fw = .boot → ∃ t, exec .fwBegin s = .next t ∧ t.mbox = { s.mbox with fw := .loading, reason := 0, image := [], err := false } ∧
      mbAddr t = 0 ∧ regBits t 0xD008 1 0 = 0 ∧ t.out = s.out) ∧
    (s.mbox.fw = .loading → exec .fwEnd s = .next (modMbox (fun x => { x with fw := .checking, checkAt := s.now, err := false }) s)) ∧
    (s.mbox.fw = .loading ∨ s.mbox.fw = .checking →
      exec .abort s = .next (modMbox (fun x => { x with fw := .boot, reason := 5, err := false }) s)) ∧
    exec .coreSelect s = .next (modMbox (fun x => { x with coreNext := regBit s 0xD020 0, err := false }) s) ∧
    (s.mbox.fw ≠ .boot → exec .fwBegin s = .next (modMbox (fun x => { x with err := true }) s)) ∧
    (s.mbox.fw ≠ .loading → exec .fwEnd s = .next (modMbox (fun x => { x with err := true }) s)) ∧
    (s.mbox.fw = .boot ∨ s.mbox.fw = .running → exec .abort s = .next (modMbox (fun x => { x with err := true }) s)) ∧
    (s.mbox.fw = .checking → fwFault s = none → ∃ t, exec .fwCheckDone s = .next t ∧ t.mbox.fw = .running ∧ t.mbox.reason = 0 ∧
      t.mbox.version = BitVec.ofNat 32 (leNat (((imageRam s 0 512).drop 16).take 4)) ∧
      t.mbox.size = BitVec.ofNat 32 (leNat (((imageRam s 0 512).drop 8).take 4)) ∧ t.log = s.log ∧ t.objOp = none) ∧
    (∀ r, s.mbox.fw = .checking → fwFault s = some r → exec .fwCheckDone s =
      .next (logAdd lkFwRejected 0x300 [r] (modMbox (fun x => { x with fw := .boot, reason := BitVec.ofNat 4 r }) s)))

/-- O39. A write of MB_DATA puts its word at the addressed place of the image RAM or a tier, and a read returns the
word there, each then advancing the address by 4, counting the word and taking it into the running CRC. Outside the
space, or in a rank that is OFF, a read returns a free value and a write is dropped, which is the model's choice, log
entry 15. A write of MB_ADDR_LO starts the CRC again. A word written to MB_TO_CORE sets TO_PENDING, and the running
firmware posts a word with FROM_PENDING or clears TO_PENDING. (R519, R522) -/
def Obligations.MailboxWords : Prop :=
  ∀ s : State,
    let a := mbAddr s
    (∀ v : Word, a + 4 ≤ mbSpaceSize s → mbRankOff s a = false → ∃ t, exec (.mbDataAccess (some v)) s = .next t ∧
      mbAddr t = (a + 4) % 2 ^ 64 ∧ reg t 0xD018 = satCount (reg s 0xD018) 1 ∧ t.mbox.crcFresh = false ∧
      t.mbox.crc = (leBytes 4 v.toNat).foldl crc32Byte s.mbox.crc ∧ t.out = s.out ∧
      (match mbTier s with
        | some k => tierRead t k a 4 = leBytes 4 v.toNat
        | none => imageRam t a 4 = leBytes 4 v.toNat)) ∧
    (a + 4 ≤ mbSpaceSize s → mbRankOff s a = false → ∃ t v, exec (.mbDataAccess none) s = .next t ∧
      leBytes 4 v.toNat = (match mbTier s with | some k => tierRead s k a 4 | none => imageRam s a 4) ∧
      t.out = s.out ++ [.readValue 0xD014 v] ∧ mbAddr t = (a + 4) % 2 ^ 64 ∧ t.mbox.image = s.mbox.image ∧ t.tierA = s.tierA ∧
      t.tierB = s.tierB ∧ t.mbox.crc = (leBytes 4 v.toNat).foldl crc32Byte s.mbox.crc) ∧
    (mbSpaceSize s < a + 4 ∨ mbRankOff s a = true → ∃ t, exec (.mbDataAccess none) s = .next t ∧
      t.out = s.out ++ [.readValue 0xD014 (Config.freeWord s.free)] ∧ mbAddr t = (a + 4) % 2 ^ 64 ∧ t.free = s.free + 1) ∧
    (∀ v : Word, a + 4 ≤ mbSpaceSize s → mbRankOff s a = true → ∃ t, exec (.mbDataAccess (some v)) s = .next t ∧ t.tierB = s.tierB ∧
      reg t 0x60D4 = satCount (reg s 0x60D4) 1 ∧ mbAddr t = (a + 4) % 2 ^ 64) ∧
    (∀ v : Word, mbSpaceSize s < a + 4 → ∃ t, exec (.mbDataAccess (some v)) s = .next t ∧ t.tierA = s.tierA ∧ t.tierB = s.tierB ∧
      t.mbox.image = s.mbox.image ∧ mbAddr t = (a + 4) % 2 ^ 64) ∧
    (∀ v : Word, ∃ t, exec (.mbAddrLoWrite v) s = .next t ∧ reg t 0xD00C = v &&& 0xFFFFFFFC#32 ∧ mbCrc t = 0xFFFFFFFF#32 ∧
      t.mbox.crc = 0xFFFFFFFF#32 ∧ (∀ o, o ≠ 0xD00C → reg t o = reg s o)) ∧
    (∀ v : Word, ∃ t, exec (.mbToCoreWrite v) s = .next t ∧ reg t 0xD02C = v ∧ reg t 0xD034 = reg s 0xD034 ||| 1#32 ∧
      t = { s with regs := t.regs, events := t.events }) ∧
    (s.mbox.fw = .running → (∀ v : Word, ∃ t, exec (.mbFromCoreWrite (some v)) s = .next t ∧ t.mbox.fromCore = v ∧
        reg t 0xD034 = reg s 0xD034 ||| 2#32) ∧
      ∃ t, exec (.mbFromCoreWrite none) s = .next t ∧ reg t 0xD034 = reg s 0xD034 &&& 2#32 ∧ t = { s with regs := t.regs })

/-- O40. Loss of lock of the active CK PLL stops CK, counted, and marks the tempo in progress; with the spare locked
the switch runs CK from it. Loss of lock of the active tempo generator switches to the spare at the next TK edge and
logs it. A fatal error stops the tempo, sets the cause and logs FATAL; a later one changes nothing. A droop counts in
its fen and opens a stretch window, counted, or deepens the open one; a window closes after 64 CK, or opens again at 1
microsecond where the droop persists. A fault of the fabric attach stops heartbeats. (R29, R30, R311, R312, R572,
R573, R574, R578) -/
def Obligations.ClocksAndFatal : Prop :=
  ∀ s : State,
    (s.plant.ckStopped = false → s.plant.fatal = 0 → (if s.plant.pllActive then s.plant.pll0 else s.plant.pll1) = true →
      ∃ t, exec .ckPllLockLoss s = .next t ∧ t.plant.ckStopped = true ∧ t.plant.fatal = 0 ∧
        reg t 0xC014 = satCount (reg s 0xC014) 1 ∧ (if s.plant.pllActive then t.plant.pll1 else t.plant.pll0) = false ∧
        t.tempo = { s.tempo with clockStopped := s.tempo.running }) ∧
    (s.plant.ckStopped = false → s.plant.fatal = 0 → (if s.plant.pllActive then s.plant.pll0 else s.plant.pll1) = false →
      ∃ t, exec .ckPllLockLoss s = .next t ∧ t.plant.fatal = 2 ∧ t.tempo.running = false) ∧
    (s.plant.ckStopped = true → s.plant.fatal = 0 → ∃ t, exec .clockSwitchDone s = .next t ∧
      t.plant = { s.plant with ckStopped := false, stopEnd := s.now, pllActive := !s.plant.pllActive } ∧ t = { s with plant := t.plant }) ∧
    (s.plant.genSpareOk = true → ∃ t, exec .tempoGenLockLoss s = .next t ∧ s.now < t.now ∧ t.now % 45 = 0 ∧ t.now ≤ s.now + 45 ∧
      t.plant = { s.plant with genActive := !s.plant.genActive, genSpareOk := false } ∧ t.tempo = s.tempo) ∧
    (∀ cause, s.plant.fatal ≠ 0 → exec (.fatalError cause) s = .next s) ∧
    (∀ k, s.plant.fatal = 0 → s.heron.tripped.contains k.val = true → ∃ t, exec (.fatalError (.thermal k)) s = .next t ∧
      t.plant = { s.plant with fatal := 1 } ∧ t.tempo.running = false ∧ regBit t 0x4000 0 = true ∧
      (s.log.length < 256 → ∃ e, t.log = s.log ++ [e] ∧ e.kind = 0x0080)) ∧
    (s.plant.fatal = 0 → ∃ t, exec (.fatalError .clocks) s = .next t ∧ t.plant.fatal = 2 ∧ t.plant.ckStopped = true ∧
      t.plant.pll0 = false ∧ t.plant.pll1 = false ∧ t.tempo.running = false) ∧
    (∀ p m deep, ∃ t, exec (.droopDetect p m deep) s = .next t ∧ (fenOf t p.val).droops = (fenOf s p.val).droops + 1 ∧
      reg t (fenWin p.val 0xC10) = satCount (reg s (fenWin p.val 0xC10)) 1 ∧ t.plant.stretching = true ∧
      (s.plant.stretching = true → t.plant = { s.plant with deep := s.plant.deep || deep } ∧ reg t 0x1054 = reg s 0x1054) ∧
      (s.plant.stretching = false → t.plant.deep = deep ∧ t.plant.stretchFrom = s.now ∧ reg t 0x1054 = satCount (reg s 0x1054) 1 ∧
        t.tempo.stretches = s.tempo.stretches + if s.tempo.running then 1 else 0)) ∧
    (s.plant.stretching = true → (∃ t, exec (.stretchWindowEnd false) s = .next t ∧ t.plant.stretching = false ∧
        t.now = max s.now (s.plant.stretchFrom + 128)) ∧
      ∃ t, exec (.stretchWindowEnd true) s = .next t ∧ t.plant.stretching = true ∧ t.now = max s.now (s.plant.stretchFrom + 4500) ∧
        t.plant.stretchFrom = t.now) ∧
    exec .fabricAttachFault s = .next (modPlant (fun x => { x with attachFault := true }) s)

/-- O41. A heron update that is due takes the twelve inputs and moves the score by R525. A sample takes the sensors of
the fens that it lists. A renewed rail reading clears RAIL_STALE and, outside 32 to 40 V, sets RAIL_RANGE and logs it;
10 ms without renewal set RAIL_STALE and log it, once. (R524, R525, R526, R528, R567) -/
def Obligations.HeronAndSensors : Prop :=
  (∀ s : State, regBit s 0x5100 0 = true → noSegment s = true ∨ s.heron.upDone = false → ∃ t u, exec .heronUpdate s = .next t ∧
    u = (if noSegment s then advanceTo (s.heron.upAt + 450000) s else s) ∧ t.now = u.now ∧
    t.heron.inputs = (List.range 12).map (heronInput u) ∧
    t.heron.score = heronScore s.heron.score (heronDecay (regBits s 0x5108 15 0))
      ((List.range 12).map fun i => (heronWeight s i, heronInput u i)) ∧
    (s.heron.triggered = false → (t.heron.triggered = true ↔ regBits s 0x510C 15 0 ≤ t.heron.score / 256)) ∧
    (s.heron.triggered = true → (t.heron.triggered = true ↔ regBits s 0x510C 31 16 ≤ t.heron.score / 256))) ∧
  (∀ s : State, regBit s 0x5100 0 = false ∨ (noSegment s = false ∧ s.heron.upDone = true) → exec .heronUpdate s = .next s) ∧
  (∀ (l : List FenSample) (others : List (BitVec 16)) (s : State), ∃ t, exec (.sensorSample l others) s = .next t ∧
    (∀ r x, l = r ++ [x] → (fenOf t x.pfen.val).volts = x.volts ∧ (fenOf t x.pfen.val).temps = x.temps ∧
      (fenOf t x.pfen.val).load = x.load) ∧
    t.heron.temps = (if others = [] then s.heron.temps else others) ∧ (∀ k, (∀ x ∈ l, k ≠ x.pfen.val) → fenOf t k = fenOf s k) ∧
    t = { s with fens := t.fens, heron := t.heron }) ∧
  (∀ (v : BitVec 16) (s : State), ∃ t, exec (.railReadingUpdate v) s = .next t ∧ t.heron.rail = v ∧ t.heron.railStale = false ∧
    t.heron.railAt = s.now ∧ (3200 ≤ v.toNat ∧ v.toNat ≤ 4000 → t.regs = s.regs ∧ t.log = s.log) ∧
    (v.toNat < 3200 ∨ 4000 < v.toNat → regBit t 0x5130 3 = true ∧ (s.log.length < 256 → ∃ e, t.log = s.log ++ [e] ∧ e.kind = 0x0075))) ∧
  (∀ s : State, s.heron.railStale = false → ∃ t, exec .railStaleTimeout s = .next t ∧ t.heron = { s.heron with railStale := true } ∧
    t.now = max s.now (s.heron.railAt + 45000000)) ∧
  (∀ s : State, s.heron.railStale = true → exec .railStaleTimeout s = .next s)

/-- O42. A boundary of a SOLO tempo comes at its time; where every fen has ended, or no tempo ran, nothing holds it,
otherwise the tempo is held and waits for the fens. Its actions, with nothing else to do, begin at the boundary, at
the end that it waited for or at the end of a stop of CK, and the next tempo starts 96 CK later under the next number.
Where the driver stops the tempo and what has not ended stalls at WAITs with all it has issued complete, the tempo
stops there. A master sends the marker of its next boundary TEMPO_LEAD before it. A ring-wide hold that no member
resolves sets TEMPO_EVENTS once. (R30, R218, R291, R292, R310, R314, R315, R321, R322) -/
def Obligations.BoundaryEvents : Prop :=
  (∀ (s : State) (g : Nat), s.tempo.running = true → s.tempo.slipped = false → s.tempo.awaitFirst = false → s.plant.fatal = 0 →
    tempoRole s = 0 → s.tempo.marks = [] → s.tempo.due = some g → s.tempo.atG = false → s.tempo.actAt = none →
    ∃ t, exec .tempoBoundaryDue s = .next t ∧ t.tempo.atG = true ∧ t.tempo.gTime = g ∧ t.tempo.due = none ∧ t.now = max s.now g ∧
      ((allEnded (advanceTo g s) = true ∨ s.tempo.ran = false) → t.tempo.waitF = false ∧ t.tempo.held = s.tempo.held ∧ t.regs = s.regs) ∧
      (allEnded (advanceTo g s) = false → s.tempo.ran = true → t.tempo.waitF = true ∧ t.tempo.held = true)) ∧
  (∀ s : State, s.tempo.running = false ∨ s.tempo.slipped = true ∨ s.tempo.awaitFirst = true ∨ s.plant.fatal ≠ 0 →
    exec .tempoBoundaryDue s = .next s) ∧
  (∀ s : State, s.tempo.running = true → s.tempo.atG = true → s.tempo.actAt = none → allEnded s = true → ckRuns s = true →
    tempoRole s = 0 → s.tempo.gMark = none → s.tempo.slipped = false → s.tempo.stopCmds = [] → s.tempo.holdCmds = [] → s.jobs = [] →
    s.pendSet = none → s.ports = [] → s.snap.armedCmd = none → s.snap.armedAuto = false → s.snap.draining = false →
    ∃ t, exec .boundaryActions s = .next t ∧ t.tempo.running = true ∧ t.tempo.atG = false ∧ t.tempo.first = false ∧
      t.tempo.held = false ∧ t.tempo.count = (if s.tempo.first then s.tempo.count else s.tempo.count + 1) ∧
      t.tempo.startTime = beginAt s + 192 ∧
      t.carryTree = [] ∧ t.decisions = []) ∧
  (∀ s : State, s.tempo.running = true → s.tempo.atG = true → s.tempo.actAt = none → (notEnded s).all (fenStuck s) = true →
    ckRuns s = true → tempoRole s = 0 → s.tempo.stopCmds ≠ [] → s.jobs = [] → s.pendSet = none → s.ports = [] →
    s.tempo.gMark = none → s.snap.armedCmd = none → s.snap.armedAuto = false → s.snap.draining = false →
    ∃ t, exec .boundaryActions s = .next t ∧ t.tempo.running = false ∧ t.tempo.stopCmds = [] ∧
      ∀ c, s.tempo.stopCmds = [c] → s.tempo.holdCmds = [] → s.tempo.startCmds = [] → Answered c stOk 0 s t) ∧
  (∀ s : State, s.tempo.running = false ∨ s.tempo.atG = false ∨ (allEnded s = false ∧ stopAsked s = false) →
    exec .boundaryActions s = .next s) ∧
  (∀ (s : State) (g : Nat), tempoRole s = 1 → s.tempo.running = true → s.plant.fatal = 0 → s.tempo.markFor = some g →
    ∃ t m, exec .tempoMarkerSend s = .next t ∧ t.tempo.marks = s.tempo.marks ++ [m] ∧ m.number = s.tempo.markNum ∧ m.time = g ∧
      t.tempo.markNum = s.tempo.markNum + 1 ∧ t.now = max s.now (g - leadUnits s) ∧ m.resume = (s.tempo.ringHold && s.tempo.marks.isEmpty) ∧
      m.stop = decide (s.tempo.stopCmds ≠ []) ∧ t.out = s.out) ∧
  (∀ s : State, tempoRole s = 1 → s.tempo.ringHold = true → s.tempo.ringStalled = false → ringPending s ≠ 0 →
    ∃ t, exec .ringHoldTimeout s = .next t ∧ t.tempo = { s.tempo with ringStalled := true } ∧ regBit t 0x1028 8 = true ∧
      t.now = max s.now (s.tempo.ringSince + regBits s 0x1034 15 0 * 4500000))

/-- O43. When the slack of a sluice has passed and its condition does not hold, the sluice counts once for that stall
and sets TEMPO_EVENTS. A cycle of blocked parties without progress for PERIOD is recorded, counted and logged once. A
digest of the block's own that has waited for its partner's beyond TIMEOUT is marked late and logged. (R308, R309,
R411, R412, R554) -/
def Obligations.Detectors : Prop :=
  (∀ (p : Fin 72) (s : State) (w : WaitOn),
    let u := waitAt p.val ((fenOf s p.val).seq.waitFrom + waitField (waitingDesc (fenOf s p.val)) 84 64) s
    isWaiting s p.val = true → waitSluice (waitingDesc (fenOf s p.val)) = true → (fenOf s p.val).seq.sluiceOver = false →
    waitOn (waitingDesc (fenOf s p.val)) = some w →
    (waitHolds u p.val u.ck w = true → exec (.sluiceSlackExpiry p) s = .next s) ∧
    (waitHolds u p.val u.ck w = false → ∃ t, exec (.sluiceSlackExpiry p) s = .next t ∧ (fenOf t p.val).seq.sluiceOver = true ∧
      reg t 0x105C = satCount (reg u 0x105C) 1 ∧ reg t (fenWin p.val 0x908) = satCount (reg u (fenWin p.val 0x908)) 1 ∧
      regBit t 0x1028 7 = true ∧ t.now = u.now)) ∧
  (∀ s : State, staleCycle s = none → exec .stalemateDetect s = .next s) ∧
  (∀ (s : State) (c : List Nat) (last : Nat), staleCycle s = some (c, last) → ∃ t, exec .stalemateDetect s = .next t ∧
    t.now = max s.now (last + periodUnits s) ∧ t.staleSeen = s.staleSeen ++ [c] ∧ reg t 0x6028 = satCount (reg s 0x6028) 1 ∧
    regBit t 0x601C 0 = true ∧ regBit t 0x4000 0 = true ∧ (regBit s 0x601C 0 = true → reg t 0x601C = reg s 0x601C)) ∧
  (∀ (s : State) (d : TwinDigest),
    s.twin.own.find? (fun d => !d.late && decide (d.since + regBits s 0x240 31 16 ≤ s.tempo.count.toNat)) = some d →
    ∃ t, exec .twinMissingTimeout s = .next t ∧ t.twin.missing = true ∧ t.twin.partner = s.twin.partner ∧
      t.twin.own = s.twin.own.map (fun x => if x.tempo = d.tempo then { x with late := true } else x) ∧ t.regs = (logAdd lkTwinMissing 0 [] s).regs ∧
      (s.log.length < 256 → ∃ e, t.log = s.log ++ [e] ∧ e.kind = BitVec.ofNat 16 lkTwinMissing.1))

/-- O44. An operation of the control slot changes the fen's sequencer and no register. CNOP passes to the next bundle:
the first of the innermost loop that ends here and runs again, otherwise the following one. JUMP passes to its target,
BRSEL to the address that the selected variant gives, LOOP to its body with a counter taken from the loop counts, and
END marks the segment's end. WAIT passes where its condition holds, a consuming one taking its count from the entry
that it tested, and otherwise stalls the fen from this CK on; a stalled one goes on in the first CK in which its
condition holds. (R328, R331, R338, R340, R343, R345, R332) -/
def Obligations.SequencerOps : Prop :=
  (∀ (p : Fin 72) (s : State), Issues p slotControl s →
    let u := atIssue p.val slotControl s
    let f := fenOf u p.val
    (∃ t, exec (.cnop p) s = .next t ∧ SeqOnly p.val u t ∧
      (f.seq.loops = [] → (fenOf t p.val).seq.pc = (f.seq.pc + 1) % 4096) ∧
      (∀ l ls, f.seq.loops = l :: ls → f.seq.pc = l.last → 0 < l.left → (fenOf t p.val).seq.pc = l.first ∧
        (fenOf t p.val).seq.loops = { l with left := l.left - 1 } :: ls) ∧
      (∀ l ls, f.seq.loops = l :: ls → f.seq.pc ≠ l.last → (fenOf t p.val).seq.pc = (f.seq.pc + 1) % 4096 ∧
        (fenOf t p.val).seq.loops = f.seq.loops)) ∧
    (∀ target : Fin 4096, ∃ t, exec (.jump p target) s = .next t ∧ SeqOnly p.val u t ∧ (fenOf t p.val).seq.pc = target.val) ∧
    (∀ (slot : Fin 8) (v : BitVec 2), (mapGet {} f.selects slot.val).variant = some v → ∃ t, exec (.brsel p slot) s = .next t ∧
      SeqOnly p.val u t ∧ (fenOf t p.val).seq.pc = (mapGet 0#12 f.img.variants (4 * slot.val + v.toNat)).toNat) ∧
    (∀ (level : Fin 4) (len : Fin 1024), ∃ t, exec (.loop p level len) s = .next t ∧ SeqOnly p.val u t ∧
      (fenOf t p.val).seq.pc = (f.seq.pc + 1) % 4096 ∧ (fenOf t p.val).seq.loops =
        ⟨level.val, f.seq.pc + 1, f.seq.pc + len.val + 1, (mapGet 0#16 f.lcs level.val).toNat⟩ :: f.seq.loops) ∧
    (∃ t, exec (.endSegment p) s = .next t ∧ SeqOnly p.val u t ∧ (fenOf t p.val).seq.endIssued = true) ∧
    (∀ (d : Fin 1024) (w : WaitOn), mapGet .ok f.img.waitErr d.val ≠ .ue → waitOn (mapGet 0#128 f.img.waits d.val) = some w →
      (waitHolds u p.val u.ck w = true → ∃ t, exec (.wait p d) s = .next t ∧ (fenOf t p.val).seq.st = .running ∧
        (fenOf t p.val).seq.pc = (loopNext f.seq.pc f.seq.loops).1 ∧
        ∀ g n, w = .counter g n true none →
          let x := counterOf f g
          let y := counterOf (fenOf t p.val) g
          if x.since = u.ck ∧ x.gen ≠ x.seenGen then y.cnt = x.cnt ∧ y.old = x.old - n else y.cnt = x.cnt - n ∧ y.old = x.old) ∧
      (waitHolds u p.val u.ck w = false → ∃ t, exec (.wait p d) s = .next t ∧ (fenOf t p.val).seq.st = .waiting ∧
        (fenOf t p.val).seq.waitDesc = d.val ∧ (fenOf t p.val).seq.waitFrom = u.ck ∧ (fenOf t p.val).seq.pc = f.seq.pc))) ∧
  (∀ (p : Fin 72) (s : State), (isWaiting s p.val = false → exec (.waitPass p) s = .next s) ∧
    ∀ w, isWaiting s p.val = true →
    let k := max s.ck ((fenOf s p.val).seq.waitFrom + 1)
    let u := waitAt p.val k s
    waitOn (waitingDesc (fenOf u p.val)) = some w → waitHolds u p.val u.ck w = true →
    ∃ t, exec (.waitPass p) s = .next t ∧ t.ck = u.ck ∧ (fenOf t p.val).seq.st = .running ∧
      (fenOf t p.val).seq.pc = (loopNext (fenOf u p.val).seq.pc (fenOf u p.val).seq.loops).1)

/-- O45. A fetch reads every bundle up to the one 4 ahead that the fetch unit has not read yet: each correction
counts, and an uncorrectable word is remembered. The scrubber reads one bundle, writes a correction back and counts
it, and counts and logs an uncorrectable word. A segment whose END has issued ends when everything it has issued is
complete, and FEN_SEG_END takes its length in CK; what a halted fen has issued completes likewise. (R330, R332, R373,
R374) -/
def Obligations.FetchAndSegmentEnd : Prop :=
  (∀ (p : Fin 72) (s : State), ckRuns s = true → fenIsOn (fenOf s p.val) = true → (fenOf s p.val).seq.st = .running →
    let f := fenOf s p.val
    let l := (List.range (5 - f.seq.ahead)).filterMap fun k => fetchAhead f (f.seq.ahead + k) (f.seq.pc, f.seq.loops)
    let found (e : Ecc) : List Nat := l.filter fun a => decide (mapGet .ok f.img.imemErr a = e)
    ∃ t, exec (.bundleFetch p) s = .next t ∧
      fenOf t p.val = { f with seq := { f.seq with ahead := f.seq.ahead + l.length, fetched := f.seq.fetched ++ found .ue } } ∧
      reg t (fenWin p.val 0xA10) = satCount (reg s (fenWin p.val 0xA10)) (found .ce).length ∧
      (∀ o, o ≠ fenWin p.val 0xA10 → reg t o = reg s o) ∧ ∀ k, k ≠ p.val → fenOf t k = fenOf s k) ∧
  (∀ (p : Fin 72) (s : State), ckRuns s = true → fenIsOn (fenOf s p.val) = true →
    let a := (fenOf s p.val).img.scrub
    let e := mapGet .ok (fenOf s p.val).img.imemErr a
    ∃ t, exec (.imemScrub p) s = .next t ∧ (fenOf t p.val).img.scrub = (a + 1) % 4096 ∧
      (e = .ok → t = { s with fens := t.fens }) ∧
      (e = .ce → reg t (fenWin p.val 0xA10) = satCount (reg s (fenWin p.val 0xA10)) 1 ∧ mapGet .ok (fenOf t p.val).img.imemErr a = .ok) ∧
      (e = .ue → reg t (fenWin p.val 0xA14) = satCount (reg s (fenWin p.val 0xA14)) 1 ∧ mapGet .ok (fenOf t p.val).img.imemErr a = .ue) ∧
      (fenOf t p.val).img.imem = (fenOf s p.val).img.imem ∧ ∀ k, k ≠ p.val → fenOf t k = fenOf s k) ∧
  (∀ (p : Fin 72) (s : State), ckRuns s = true → fenIsOn (fenOf s p.val) = true → (fenOf s p.val).seq.st = .running →
    (fenOf s p.val).seq.endIssued = true → ∃ t, exec (.fenSegmentEnd p) s = .next t ∧ (fenOf t p.val).seq.st = .ended ∧
      t.ck = max s.ck (max (fenDoneCk (fenOf s p.val)) (fenOf s p.val).seq.slotCk) ∧
      reg t (fenWin p.val 0x900) = BitVec.ofNat 32 (min (t.ck - (fenOf s p.val).seq.segStart) 0xFFFFFF)) ∧
  (∀ (p : Fin 72) (s : State), ckRuns s = true → fenIsOn (fenOf s p.val) = true → (fenOf s p.val).seq.st = .halted →
    ∃ t, exec (.fenSegmentEnd p) s = .next t ∧ (fenOf t p.val).seq.st = .halted ∧
      t.ck = max s.ck (max (fenDoneCk (fenOf s p.val)) (fenOf s p.val).seq.slotCk) ∧
      reg t (fenWin p.val 0x900) = reg s (fenWin p.val 0x900))

/-- O46. A frame with a good CRC that is next in its lane's sequence has the effect of its type: CREDIT none beyond
its header, DATA the write of its rows where the message is accepted, CARRY a place in its tempo's stream, TEMPO the
placing of a boundary at a follower, HOLD the request or its forwarding, DIGEST the partner's digest, CAPS the
agreement of phase 3, ECHO a reply, an ECHO's reply the end of a measurement, HEARTBEAT a renewal, MOVE_DONE and
MOVE_REJECT the end of a remote move. A sequenced frame out of its place is marked missing and dropped; a protocol
error is counted and logged; a frame with a bad CRC is counted, with the symbols corrected in it, and marked missing.
(R453, R456, R458, R459, R471, R474, R475, R479, R483, R485, R487, R553) -/
def Obligations.FramesReceived : Prop :=
  ∀ (c : Fin 3) (lane : Fin 8) (f : Frame) (s : State),
    let u := arrived c lane f s
    (Arrives c lane f s →
      (frameType f = 0 → exec (.creditFrameReceive c lane f) s = .next u) ∧
      (∀ p b row g, frameType f = frData → tsField (frameTs f) 12 2 ≠ 3 → dataCheck u (frameTs f) = some (p, b, row, g) →
        bufsOff (fenOf u p) = false → ∃ t, exec (.dataFrameReceive c lane f) s = .next t ∧
        ∀ r ∈ frameRows f, rowData (bufOf (fenOf t p) b) (bufWrap b (row + r.1)) = r.2.1) ∧
      (frameType f = frData → tsField (frameTs f) 12 2 ≠ 3 → dataCheck u (frameTs f) = none →
        ∃ t, exec (.dataFrameReceive c lane f) s = .next t ∧ t.fens = u.fens ∧
        ((rxOf (cwOf u c.val) (frameTs f)).rejected = false → reg t (cwWin c.val 0x054) = satCount (reg u (cwWin c.val 0x054)) 1)) ∧
      (frameType f = frCarry → ∃ t, exec (.carryFrameReceive c lane f) s = .next t ∧ CwOnly c.val u t ∧
        (2 ^ 15 ≤ (BitVec.ofNat 16 (tsField (frameTs f) 16 16) - carryFloor u (cwOf u c.val)).toNat → cwOf t c.val = cwOf u c.val) ∧
        ((BitVec.ofNat 16 (tsField (frameTs f) 16 16) - carryFloor u (cwOf u c.val)).toNat < 2 ^ 15 →
          (cwOf u c.val).carryTempo = BitVec.ofNat 16 (tsField (frameTs f) 16 16) → (cwOf u c.val).carryRx = [] →
          (cwOf u c.val).carryNext = tsField (frameTs f) 0 16 → (cwOf t c.val).carryNext = tsField (frameTs f) 0 16 + 1 ∧
          (cwOf t c.val).carryRx = [])) ∧
      (frameType f = frDigest → exec (.digestFrameReceive c lane f) s = .next (digestArrive f.payload u)) ∧
      (frameType f = frTempo → tempoRole u ≠ 2 ∨ c.val ≠ inLink u → exec (.tempoFrameReceive c lane f) s = .next u) ∧
      (frameType f = frTempo → tempoRole u = 2 → c.val = inLink u → u.tempo.running = true →
        16 * 64 * 2 ≤ 9 * (f.payload.toNat / 2 ^ 48 % 2 ^ 24 - (cwOf u c.val).delay.toNat) →
        (u.tempo.awaitFirst = true ∨ f.payload.getLsbD 89 = true ∨ BitVec.ofNat 48 f.payload.toNat = markExpected u.tempo) →
        ∃ t m, exec (.tempoFrameReceive c lane f) s = .next t ∧ t.tempo.marks = u.tempo.marks ++ [m] ∧
          m.number = BitVec.ofNat 48 f.payload.toNat ∧ m.hold = f.payload.getLsbD 88 ∧ t.tempo.locked = true ∧ t.tempo.missed = 0) ∧
      (frameType f = frHold → c.val ≠ 2 → tempoRole u = 1 → f.payload.getLsbD 0 = false →
        let r := f.payload.toNat / 2 % 8
        exec (.holdFrameReceive c lane f) s = .next (modTempo (fun t => { t with
          holdReq := true, reqs := if t.reqs.contains r then t.reqs else t.reqs ++ [r] }) u)) ∧
      (frameType f = frHold → c.val ≠ 2 → tempoRole u = 1 → f.payload.getLsbD 0 = true → ∃ t,
        exec (.holdFrameReceive c lane f) s = .next t ∧
        t.tempo.released = u.tempo.released ||| (1#64 <<< (f.payload.toNat / 2 ^ 4 % 64)) ∧ t = { u with tempo := t.tempo }) ∧
      (frameType f = frHold → c.val ≠ 2 → tempoRole u = 2 → c.val ≠ inLink u → ∃ t, exec (.holdFrameReceive c lane f) s = .next t ∧
        CwOnly (inLink u) u t ∧ (linkKeeps (cwOf u (inLink u)) = true →
          (cwOf t (inLink u)).tx = (cwOf u (inLink u)).tx ++ [{ kind := frHold, ts := 0, payload := f.payload }])) ∧
      (frameType f = frHold → c.val = 2 ∨ tempoRole u = 0 → exec (.holdFrameReceive c lane f) s = .next u) ∧
      (frameType f = frCtrl → frameSub f = 1 → (cwOf u c.val).phase = 3 → capsFault u c.val (f.payload.setWidth 192) = none →
        ∃ t, exec (.capsReceive c lane f) s = .next t ∧ CwOnly c.val u t ∧ (cwOf t c.val).partnerCaps = some (f.payload.setWidth 192) ∧
          (cwOf t c.val).checked = true) ∧
      (frameType f = frCtrl → frameSub f = 1 → (cwOf u c.val).phase ≠ 3 → exec (.capsReceive c lane f) s = .next u) ∧
      (frameType f = frCtrl → frameSub f = 2 → ∃ t, exec (.echoReceive c lane f) s = .next t ∧ CwOnly c.val u t ∧
        (cwOf t c.val).tx = (cwOf u c.val).tx ++ [{ kind := frCtrl, ts := BitVec.ofNat 64 (3 + 256 * u.now),
                                                     payload := (f.payload.setWidth 16).setWidth 2048 }]) ∧
      (∀ flight : BitVec 32, frameType f = frCtrl → frameSub f = 3 → (cwOf u c.val).st = .up →
        f.payload.setWidth 16 = (cwOf u c.val).echoNum - 1 → ∃ t, exec (.echoReplyReceive c lane f flight) s = .next t ∧
        CwOnly c.val u t ∧ (cwOf t c.val).echoOut = none ∧ (cwOf t c.val).rtt = (cwOf u c.val).rtt) ∧
      (∀ flight : BitVec 32, frameType f = frCtrl → frameSub f = 3 → (cwOf u c.val).st ≠ .up → (cwOf u c.val).phase = 4 →
        (f.payload.setWidth 16).toNat < 16 → (∀ e ∈ (cwOf u c.val).exchanges, e.1 ≠ f.payload.setWidth 16) →
        ∃ t, exec (.echoReplyReceive c lane f flight) s = .next t ∧ CwOnly c.val u t ∧
        (cwOf t c.val).exchanges = (cwOf u c.val).exchanges ++ [(f.payload.setWidth 16,
          BitVec.ofNat 24 (roundNs (flight.toNat - f.payload.toNat / 2 ^ 16 % 2 ^ 32)))]) ∧
      (frameType f = frCtrl → frameSub f = 4 → ∃ t, exec (.heartbeatReceive c lane f) s = .next t ∧ CwOnly c.val u t ∧
        cwOf t c.val = { cwOf u c.val with hbLost := false, hbAt := u.now, hbBoundaries := 0 }) ∧
      (frameType f = frCtrl → frameSub f = 5 → exec (.moveDoneReceive c lane f) s =
        .next (match moveAnswered u c.val f with | some m => moveDone m.sid m u | none => u)) ∧
      (frameType f = frCtrl → frameSub f = 6 → exec (.moveRejectReceive c lane f) s =
        .next (match moveAnswered u c.val f with | some m => moveFail m u | none => u))) ∧
    (frameType f = frData → crcGood f = true → f.hdr.getLsbD 4 = true → (cwOf s c.val).st = .up →
      hdrField f 8 8 ≠ (laneOf (cwOf s c.val) lane.val).rxNext.toNat → ∃ t, exec (.dataFrameReceive c lane f) s = .next t ∧
      (laneOf (cwOf t c.val) lane.val).nakMissing = true ∧
      (laneOf (cwOf t c.val) lane.val).rxNext = (laneOf (cwOf s c.val) lane.val).rxNext ∧ t.fens = s.fens) ∧
    (frameType f = 0 → crcGood f = true → lanesRun (cwOf s c.val) = true → f.hdr.getLsbD 4 = false → protoError s c.val f = true →
      ∃ t, exec (.creditFrameReceive c lane f) s = .next t ∧ reg t (cwWin c.val 0x050) = satCount (reg s (cwWin c.val 0x050)) 1 ∧
        regBit t 0x4000 0 = true ∧ t.fens = s.fens) ∧
    (frameType f = frData → crcGood f = false → lanesRun (cwOf s c.val) = true →
      exec (.dataFrameReceive c lane f) s = exec (.crcFailedFrameReceive c lane ⟨0, f.corrected⟩) s) ∧
    (∀ n k : BitVec 8, lanesRun (cwOf s c.val) = true → ∃ t, exec (.crcFailedFrameReceive c lane ⟨n, k⟩) s = .next t ∧
      reg t (cwWin c.val 0x044) = satCount (reg s (cwWin c.val 0x044)) 1 ∧
      reg t (cwWin c.val 0x040) = satCount (reg s (cwWin c.val 0x040)) n.toNat ∧
      reg t (cwWin c.val (corrReg (cwOf s c.val) lane.val)) = satCount (reg s (cwWin c.val (corrReg (cwOf s c.val) lane.val))) k.toNat ∧
      (laneOf (cwOf t c.val) lane.val).nakMissing = true ∧
      (laneOf (cwOf t c.val) lane.val).crcRun = (laneOf (cwOf s c.val) lane.val).crcRun + 1 ∧ t.fens = s.fens)

/-- O47. A frame of a sequence that is in its place moves the lane's next number on by one and returns one credit; one
outside a sequence moves neither. The frame's credits are added, and on a link that is UP the frames up to the one
that it acknowledges are kept no longer. Nothing but the causeway and its counters changes. (R458, R459, R461) -/
def Obligations.FrameHeaderTaken : Prop :=
  ∀ (c : Fin 3) (lane : Fin 8) (f : Frame) (s : State), Arrives c lane f s →
    let l := laneOf (cwOf s c.val) lane.val
    let t := arrived c lane f s
    let m := laneOf (cwOf t c.val) lane.val
    (f.hdr.getLsbD 4 = true → m.rxNext = l.rxNext + 1 ∧ m.rxCredits = l.rxCredits + 1) ∧
    (f.hdr.getLsbD 4 = false → m.rxNext = l.rxNext ∧ m.rxCredits = l.rxCredits) ∧
    m.credits = l.credits + hdrField f 24 8 ∧
    ((cwOf s c.val).st = .up →
      ∀ k, l.unacked.findIdx? (fun u => decide (u.1 = BitVec.ofNat 8 (hdrField f 16 8))) = some k →
        m.unacked = l.unacked.drop (k + 1)) ∧
    ((cwOf s c.val).st ≠ .up → m.unacked = l.unacked) ∧ m.crcRun = 0 ∧
    (∀ k, k ≠ c.val → cwOf t k = cwOf s k) ∧ t = { s with cws := t.cws, regs := t.regs, events := t.events }

/-- O48. A lane whose link carries frames sends one frame in each slot, a TEMPO marker before all else on lane 0, a
NULL frame where nothing waits. A frame not acknowledged for a round trip and 64 slots is replayed with every one
after it. A NAK is repeated after a round trip. An UP link sends an echo each CW_ECHO_MS. While the tempo is stopped
every UP link sends a heartbeat each 100 microseconds; one that hears none for 200 microseconds reports it. (R455,
R459, R461, R465, R467, R471, R487) -/
def Obligations.LaneService : Prop :=
  (∀ (c : Fin 3) (lane : Fin 8) (s : State), lanesRun (cwOf s c.val) = true →
    let x := cwOf s c.val
    ∃ t fr, exec (.frameSlotTransmit c lane) s = .next t ∧ t.out = s.out ++ [.frame c.val lane.val fr] ∧
      t.now = max s.now (laneOf x lane.val).slotAt ∧ (laneOf (cwOf t c.val) lane.val).slotAt = t.now + slotUnits x ∧
      (x.st = .up → lane.val = 0 → (x.tx.any fun f => decide (f.kind = frTempo)) = true → frameType fr = frTempo) ∧
      (x.tx = [] → x.carryTx = [] → (laneOf x lane.val).replay = [] → frameType fr = 0) ∧
      (laneOf (cwOf t c.val) lane.val).rxCredits = 0 ∧ ∀ k, k ≠ c.val → cwOf t k = cwOf s k) ∧
  (∀ (c : Fin 3) (lane : Fin 8) (s : State) (e : BitVec 8 × TxFrame × Nat) (l : List (BitVec 8 × TxFrame × Nat)),
    let x := cwOf s c.val
    x.st = .up → (laneOf x lane.val).unacked = e :: l → (laneOf x lane.val).replay = [] →
    ∃ t, exec (.replayTimeout c lane) s = .next t ∧ t.now = max s.now (e.2.2 + rttUnits x + 64 * slotUnits x) ∧
      (laneOf (cwOf t c.val) lane.val).replay = (e :: l).map (fun u => (u.1, u.2.1)) ∧
      reg t (cwWin c.val 0x048) = satCount (reg s (cwWin c.val 0x048)) 1) ∧
  (∀ (c : Fin 3) (lane : Fin 8) (s : State),
    let x := cwOf s c.val
    x.st = .up → (laneOf x lane.val).nakMissing = true → (laneOf x lane.val).nakDue = false →
    ∃ t, exec (.nakRepeat c lane) s = .next t ∧ (laneOf (cwOf t c.val) lane.val).nakDue = true ∧
      t.now = max s.now ((laneOf x lane.val).nakAt + rttUnits x)) ∧
  (∀ (c : Fin 3) (s : State), (cwOf s c.val).st = .up → ∃ t, exec (.echoInterval c) s = .next t ∧
    t.now = max s.now ((cwOf s c.val).echoAt + regBits s (cwWin c.val 0x020) 15 0 * 4500000) ∧
    (cwOf t c.val).echoNum = (cwOf s c.val).echoNum + 1 ∧ (cwOf t c.val).tx = (cwOf s c.val).tx ++
      [{ kind := frCtrl, ts := 2, payload := (cwOf s c.val).echoNum.setWidth 2048 }]) ∧
  (∀ s : State, tempoStopped s = true → beatsOn s = true → (∃ c, c < 3 ∧ (cwOf s c).st = .up) →
    ∃ t, exec .heartbeatTimer s = .next t ∧ ∀ c, c < 3 → (cwOf s c).st = .up → (cwOf t c).hbDueAt = t.now ∧
      ∃ l, (cwOf t c).tx = (cwOf s c).tx ++ { kind := frCtrl, ts := 4, payload := BitVec.ofNat 2048 s.tempo.count.toNat } :: l) ∧
  (∀ (c : Fin 3) (s : State), (cwOf s c.val).st = .up → (cwOf s c.val).hbLost = false → tempoStopped s = true →
    ∃ t, exec (.heartbeatLossTimeout c) s = .next t ∧ t.now = max s.now ((cwOf s c.val).hbAt + 900000) ∧
      (cwOf t c.val).hbLost = true ∧ reg t (cwWin c.val 0x060) = satCount (reg s (cwWin c.val 0x060)) 1 ∧ regBit t 0x4000 0 = true)

/-- O49. Each logic, shift and integer operation reads its sources when it issues and leaves one result, due 2 CK
later, 3 for IMUL, that writes the elements of active lanes. A shift by a register uses the low five bits of each
amount. An integer result is saturated to the width, or taken modulo 2 to the 32 under WRAP, and saturations of active
lanes are counted. Nothing else changes. VNOP does nothing. (R54, R263, R264, R265, R266, R267) -/
def Obligations.VectorLogicAndInteger : Prop :=
  ∀ (p : Fin 72) (h : VHead) (s : State), Issues p slotVector s →
  let f := fenOf (atIssue p.val slotVector s) p.val
  let a : Nat → Word := elemAt (tileReg f h.va.val)
  let b : Nat → Word := elemAt (tileReg f h.vb.val)
  let ab := [h.va.val, h.vb.val]
  exec (.vnop p) s = .next (atIssue p.val slotVector s) ∧
  VecRuns p h 2 ab (fun e => eltOf (a e &&& b e)) (.vAnd p h) s ∧
  VecRuns p h 2 ab (fun e => eltOf (a e ||| b e)) (.vOr p h) s ∧
  VecRuns p h 2 ab (fun e => eltOf (a e ^^^ b e)) (.vXor p h) s ∧
  VecRuns p h 2 ab (fun e => eltOf (a e &&& ~~~(b e))) (.vAndn p h) s ∧
  VecRuns p h 2 [h.va.val] (fun e => eltOf (~~~(a e))) (.vNot p h) s ∧
  (∀ n : Fin 32, VecRuns p h 2 [h.va.val] (fun e => eltOf (a e <<< n.val)) (.shl p h (some n)) s ∧
    VecRuns p h 2 [h.va.val] (fun e => eltOf (a e >>> n.val)) (.shr p h (some n)) s ∧
    VecRuns p h 2 [h.va.val] (fun e => eltOf ((a e).sshiftRight n.val)) (.sar p h (some n)) s) ∧
  VecRuns p h 2 ab (fun e => eltOf (a e <<< ((b e).toNat % 32))) (.shl p h none) s ∧
  VecRuns p h 2 ab (fun e => eltOf (a e >>> ((b e).toNat % 32))) (.shr p h none) s ∧
  VecRuns p h 2 ab (fun e => eltOf ((a e).sshiftRight ((b e).toNat % 32))) (.sar p h none) s ∧
  ∀ w : IWid,
    VecRuns p h 2 ab (fun e => satInt w (intAt w (a e) + intAt w (b e))) (.iadd p h w false) s ∧
    VecRuns p h 2 ab (fun e => eltOf (BitVec.ofInt 32 (intAt w (a e) + intAt w (b e)))) (.iadd p h w true) s ∧
    VecRuns p h 2 ab (fun e => satInt w (intAt w (a e) - intAt w (b e))) (.isub p h w false) s ∧
    VecRuns p h 2 ab (fun e => eltOf (BitVec.ofInt 32 (intAt w (a e) - intAt w (b e)))) (.isub p h w true) s ∧
    VecRuns p h 2 ab (fun e => satInt w (min (intAt w (a e)) (intAt w (b e)))) (.imin p h w) s ∧
    VecRuns p h 2 ab (fun e => satInt w (max (intAt w (a e)) (intAt w (b e)))) (.imax p h w) s ∧
    VecRuns p h 2 [h.va.val] (fun e => satInt w ((intAt w (a e)).natAbs : Int)) (.iabs p h w) s ∧
    VecRuns p h 3 ab (fun e => satInt w (intAt w (a e) * intAt w (b e))) (.imul p h w) s

/-- O50. FADD, FSUB, FMUL and FMA write the exact sum, difference, product or product plus VC rounded once, 4 CK after
issue; under ZCLAMP a negative result or minus zero becomes plus zero. FMIN, FMAX, FABS and FNEG come 4 CK after
issue, LCOMP, LMIN, LMAX, SEL, VBCAST and VPERM 2, TRN 3. SEL takes VA where its predicate is set and VB elsewhere;
VBCAST copies an element, a row, a column or a vector; VPERM takes for each vector the vector of VA that VB selects;
TRN writes element (r, c) from (c, r). (R263, R264, R265, R268, R269, R270, R271) -/
def Obligations.VectorFloatAndMoves : Prop :=
  ∀ (p : Fin 72) (h : VHead) (s : State), Issues p slotVector s →
  let f := fenOf (atIssue p.val slotVector s) p.val
  let a : Nat → Word := elemAt (tileReg f h.va.val)
  let b : Nat → Word := elemAt (tileReg f h.vb.val)
  let ab := [h.va.val, h.vb.val]
  (∀ zc : Bool,
    VecRuns p h 4 ab (fun e => zclamp zc (f32Elt (numAdd (f32v (a e)) (f32v (b e))))) (.fadd p h zc) s ∧
    VecRuns p h 4 ab (fun e => zclamp zc (f32Elt (numSub (f32v (a e)) (f32v (b e))))) (.fsub p h zc) s ∧
    ∀ vc : Fin 32, VecRuns p h 4 [h.va.val, h.vb.val, vc.val] (fun e =>
      zclamp zc (f32Elt (numAdd (numMul (f32v (a e)) (f32v (b e))) (f32v (elemAt (tileReg f vc.val) e))))) (.fma p h vc zc) s) ∧
  VecRuns p h 4 ab (fun e => f32Elt (numMul (f32v (a e)) (f32v (b e)))) (.fmul p h) s ∧
  VecRuns p h 4 ab (fun e => eltOf (fMin (a e) (b e))) (.fmin p h) s ∧
  VecRuns p h 4 ab (fun e => eltOf (fMax (a e) (b e))) (.fmax p h) s ∧
  VecRuns p h 4 [h.va.val] (fun e => eltOf (fAbs (a e))) (.fabs p h) s ∧
  VecRuns p h 4 [h.va.val] (fun e => eltOf (fNeg (a e))) (.fneg p h) s ∧
  VecRuns p h 2 ab (fun e => lComp (a e) (b e)) (.lcomp p h) s ∧
  VecRuns p h 2 ab (fun e => eltOf (if (b e).toInt < (a e).toInt then b e else a e)) (.lmin p h) s ∧
  VecRuns p h 2 ab (fun e => eltOf (if (a e).toInt < (b e).toInt then b e else a e)) (.lmax p h) s ∧
  (∀ ps : Fin 8, VecRuns p h 2 ab (fun e => eltOf (if (predOf f ps.val).getLsbD e then a e else b e)) (.sel p h ps) s) ∧
  (∀ i : Fin 256,
    VecRuns p h 2 [h.va.val] (fun _ => eltOf (a i.val)) (.vbcast p h .element i) s ∧
    VecRuns p h 2 [h.va.val] (fun e => eltOf (a (16 * (i.val % 16) + e % 16))) (.vbcast p h .row i) s ∧
    VecRuns p h 2 [h.va.val] (fun e => eltOf (a (16 * (e / 16) + i.val % 16))) (.vbcast p h .column i) s ∧
    VecRuns p h 2 [h.va.val] (fun e => eltOf (a (32 * (i.val % 8) + e % 32))) (.vbcast p h .vector i) s) ∧
  VecRuns p h 2 ab (fun e => eltOf (a (32 * ((b (32 * (e / 32))).toNat % 8) + e % 32))) (.vperm p h) s ∧
  VecRuns p h 3 [h.va.val] (fun e => eltOf (a (16 * (e % 16) + e / 16))) (.trn p h) s

/-- O51. P0 is all ones. CMP and the operations on predicate tiles leave one result on its way, CMP's due 2 CK later
and the others' 1 CK later, that writes the bits of active lanes of the destination; one that names P0 writes nothing
and adds one to VEC_HAZARD. CMP compares I32 values and L32 codes as two's-complement integers and F32 values with
every condition but NE false for a NaN. (R262, R263, R265, R270) -/
def Obligations.PredicateOps : Prop :=
  (∀ f : Fen, predOf f 0 = BitVec.allOnes 256) ∧
  ∀ (p : Fin 72) (h : VHead) (s : State), Issues p slotVector s →
  let f := fenOf (atIssue p.val slotVector s) p.val
  let a : Nat → Word := elemAt (tileReg f h.va.val)
  let b : Nat → Word := elemAt (tileReg f h.vb.val)
  let pa := predOf f (h.va.val % 8)
  let pb := predOf f (h.vb.val % 8)
  (∀ (c : Cond) (ty : ETy), PredRuns p h 2 (fun e => cmpElt ty c (a e) (b e)) (.cmp p h c ty) s) ∧
  (∀ ty : ETy, ty = .i32 ∨ ty = .l32 →
    PredRuns p h 2 (fun e => decide ((a e).toInt < (b e).toInt)) (.cmp p h .lt ty) s ∧
    PredRuns p h 2 (fun e => decide ((a e).toInt ≤ (b e).toInt)) (.cmp p h .le ty) s ∧
    PredRuns p h 2 (fun e => decide (a e = b e)) (.cmp p h .eq ty) s) ∧
  (∀ (c : Cond) (x y : Word), f32v x = .nan ∨ f32v y = .nan → cmpElt .f32 c x y = decide (c = .ne)) ∧
  PredRuns p h 1 (fun e => pa.getLsbD e && pb.getLsbD e) (.pand p h) s ∧
  PredRuns p h 1 (fun e => pa.getLsbD e || pb.getLsbD e) (.por p h) s ∧
  PredRuns p h 1 (fun e => xor (pa.getLsbD e) (pb.getLsbD e)) (.pxor p h) s ∧
  PredRuns p h 1 (fun e => !pa.getLsbD e) (.pnot p h) s

/-- O52. RED writes into every active element of a row, a column or the tile the reduction of its group, in which
inactive elements enter as the identity, 5 CK after issue, 7 for the tile. PFX writes the prefix of each active
element from the last mark, 5 CK after issue, 9 for the tile. CVT writes the converted code 4 CK after issue, and with
stochastic rounding every lane's generator advances. When a result comes, time moves to its CK and the register takes
the elements written; a lane that fails then mires the vector it writes until a fen reset. The model's readings of
prefixes are in log entry 70. (R78, R264, R265, R271, R272, R273, R284) -/
def Obligations.ReductionsAndConversion : Prop :=
  (∀ (p : Fin 72) (h : VHead) (op : ROp) (ext : Extent) (ty : ETy) (s : State), Issues p slotVector s →
    let u := atIssue p.val slotVector s
    let f := fenOf u p.val
    let act := predOf f h.pred.val
    let res : List Nat → Elt := fun g =>
      reduceElems op ty (g.any fun e => act.getLsbD e) (g.map fun e => if act.getLsbD e then elemAt (tileReg f h.va.val) e else redIdent op ty)
    ∃ t val, exec (.red p h op ext ty) s = .next t ∧
      VecIssued p.val h (if ext = .tile then 7 else 5) [h.va.val] val (((extentGroups ext).map fun g => (res g).f32Sat).sum)
        (evSum ((extentGroups ext).map fun g => (res g).ev)) f.gens u t ∧
      ∀ g ∈ extentGroups ext, ∀ e ∈ g, val e = (res g).val) ∧
  (∀ (p : Fin 72) (h : VHead) (op : ROp) (ext : Extent) (ty : ETy) (marks : Option (Fin 8)) (s : State), Issues p slotVector s →
    let u := atIssue p.val slotVector s
    let f := fenOf u p.val
    let act := predOf f h.pred.val
    let part : List Nat → Nat → List Nat := fun g k => match marks with
      | none => g.take (k + 1)
      | some m => sincePrefix (fun e => (predOf f m.val).getLsbD e) g k
    ∃ t val sat ev, exec (.pfx p h op ext ty marks) s = .next t ∧
      VecIssued p.val h (if ext = .tile then 9 else 5) [h.va.val] val sat ev f.gens u t ∧
      ∀ g ∈ extentGroups ext, ∀ k, k < g.length → act.getLsbD (g.getD k 0) = true →
        val (g.getD k 0) = (prefixElems op ty ((part g k).map fun e =>
          if act.getLsbD e then elemAt (tileReg f h.va.val) e else redIdent op ty)).val) ∧
  (∀ (p : Fin 72) (h : VHead) (d : Cvt) (src : CvtSrc) (s : State), Issues p slotVector s →
    let u := atIssue p.val slotVector s
    let f := fenOf u p.val
    ∃ t sat ev, exec (.cvt p h d src) s = .next t ∧
      VecIssued p.val h 4 [h.va.val] (fun e => regCode d.target (convert d.target (if d.stoch then some (genDraw f e) else none) d.ovf
        (cvtSource src (elemAt (tileReg f h.va.val) e))).1) sat ev (fenOf t p.val).gens u t ∧
      (d.stoch = false → (fenOf t p.val).gens = f.gens) ∧
      (d.stoch = true → ∀ i, i < 256 → genOf (fenOf t p.val) i = srAdvance (genOf f i))) ∧
  (∀ (p : Fin 72) (s : State),
    (∀ x, (∀ w ∈ (fenOf s p.val).pend, w.cls ≠ .vector) → exec (.vectorResultWrite p x) s = .next s) ∧
    ∀ due r vals taint, OnlyPending p.val due .vector (.vreg r vals taint) s →
      (∃ t, exec (.vectorResultWrite p none) s = .next t ∧ ResultAt p.val due s t ∧
        tileReg (fenOf t p.val) r = overlay (tileReg (fenOf s p.val) r) vals ∧
        mapGet 0#8 (fenOf t p.val).vMire r = mireAfter (mapGet 0#8 (fenOf s p.val).vMire r) vals taint ∧
        (∀ k, k ≠ r → tileReg (fenOf t p.val) k = tileReg (fenOf s p.val) k) ∧
        ((tileReg (fenOf s p.val) r).length = 256 → vals.length = 256 → ∀ e, e < 256 →
          elemAt (tileReg (fenOf t p.val) r) e = (vals.getD e none).getD (elemAt (tileReg (fenOf s p.val) r) e))) ∧
      ∀ x : VecFault, ∃ t, exec (.vectorResultWrite p (some x)) s = .next t ∧ t.ck = max s.ck due ∧ x.lane.val ∈ (fenOf t p.val).vecBad ∧
        regBit t 0x4000 0 = true ∧ tileReg (fenOf t p.val) r = overlay (tileReg (fenOf s p.val) r) vals ∧
        ((vals.getD x.lane.val none).isSome = true → taint.length = 8 → (taint.getD (x.lane.val / 32) none).isSome = true →
          vecMire (fenOf t p.val) r (x.lane.val / 32) = true))

/-- O53. An operation of the unit that issues before the unit accepts it is not executed and adds one to VEC_HAZARD.
Otherwise the unit is occupied for the operation's time and its results are on their way: an activation of P
primitives occupies it for 16 P CK, a primitive for 16, a fused epilogue for its activation's time or 16, a phase of
RMS normalisation for 4, a softmax step for 20, its end for 4, a pass of a bounded range for 16 and 20. An activation
without primitives writes 2 CK later. A row in progress and a query row change when the phase's result comes, not at
its issue. The results are those of the sequences of chapter 06, with the model's readings and free values of log
entries 21, 23, 65, 66, 67 and 68. (R242, R246, R248, R249, R252, R254, R255, R256, R274, R275, R276, R356) -/
def Obligations.SpecialFunctions : Prop :=
  (∀ (p : Fin 72) (h : VHead) (s : State), Issues p slotVector s →
  let u := atIssue p.val slotVector s
  let f := fenOf u p.val
  let q := 4 * u.ck + 1
  let a : Nat → Word := elemAt (tileReg f h.va.val)
  let b : Nat → Word := elemAt (tileReg f h.vb.val)
  let act := predOf f h.pred.val
  let x := mapGet {} f.pts (h.va.val % 16)
  (∀ c : Instr, (∃ k d, actUsesUnit k = true ∧ c = .act p h k d) ∨ (∃ pr d, c = .sfn p h pr d) ∨
      (∃ src fmt row clr, c = .nrmKmax p h src fmt row clr) ∨ (∃ src fmt row, c = .nrmSq p h src fmt row) ∨
      (∃ row part mrg, c = .nrmFin p h row part mrg) ∨ (∃ src fmt row, c = .nrmApply p h src fmt row) ∨
      (∃ k, c = .smxOnline p h k) ∨ (∃ k, c = .smxOnlineFin p h k) ∨ (∃ k clr, c = .smxRangePass0 p h k clr) ∨
      (∃ k, c = .smxRangePass1 p h k) →
    u.ck < f.sfuFree → exec c s = .next (fenBump p.val 0x800 1 u)) ∧
  (∀ (k : Act) (d : Cvt), actUsesUnit k = false → ∃ t taint, exec (.act p h k d) s = .next t ∧ FenOnly p.val u t ∧
    (fenOf t p.val).sfuFree = f.sfuFree ∧ OnItsWay p.val (u.ck + 2) q .vector
      (.vreg h.vd.val (activeVals f h.pred.val fun e => (actElem u.service k d (genDraw f e) (a e) (b e)).1) taint) t) ∧
  (∀ (k : Act) (d : Cvt), actUsesUnit k = true → f.sfuFree ≤ u.ck → ∃ t taint, exec (.act p h k d) s = .next t ∧ FenOnly p.val u t ∧
    (fenOf t p.val).sfuFree = u.ck + 16 * (actPrims k).length ∧
    OnItsWay p.val (u.ck + 16 * (actPrims k).length + ((actPrims k).map primLatency).sum + 2) q .sfu
      (.vreg h.vd.val (activeVals f h.pred.val fun e => (actElem u.service k d (genDraw f e) (a e) (b e)).1) taint) t) ∧
  (∀ (pr : Prim) (d : Cvt), f.sfuFree ≤ u.ck → ∃ t taint, exec (.sfn p h pr d) s = .next t ∧ FenOnly p.val u t ∧
    (fenOf t p.val).sfuFree = u.ck + 16 ∧ OnItsWay p.val (u.ck + 16 + primLatency pr + 2) q .sfu
      (.vreg h.vd.val (activeVals f h.pred.val fun e =>
        (unitElem u.service d (genDraw f e) (primEval pr (f32v (a e))) (primEval pr (f32v (a e)))).1) taint) t) ∧
  (∀ (n : Fin 64) (d : Epi), mapGet .ok f.img.epiErr n.val = .ok → epiOfBits (mapGet 0#64 f.img.epis n.val) = some d →
    d.conv.scale = false →
    let src := mapGet {} f.pts d.src
    let dst := mapGet {} f.pts d.dst
    let per := fmtPerRow d.conv.target
    let rows := (256 + per - 1) / per
    let occ := if actUsesUnit d.act then 16 * (actPrims d.act).length else 16
    let lat := if actUsesUnit d.act then 16 * (actPrims d.act).length + ((actPrims d.act).map primLatency).sum + 10 else 12
    (u.ck < f.sfuFree → exec (.epi p h n) s = .next (fenBump p.val 0x800 1 u)) ∧
    (f.sfuFree ≤ u.ck → ∃ t, exec (.epi p h n) s = .next t ∧ FenOnly p.val u t ∧ (fenOf t p.val).sfuFree = u.ck + occ ∧
      OnItsWay p.val (u.ck + 1) q .move (.ptr d.src (ptrAt src.buf (ptrRow src + 16))) t ∧
      OnItsWay p.val (u.ck + 1) q .move (.ptr d.dst (ptrAt dst.buf (ptrRow dst + rows))) t ∧
      ∀ e, e < 256 → ∃ codes mire, OnItsWay p.val (u.ck + lat) q .sfu
          (.rowPart dst.buf ((rowsFrom false dst.buf rows (ptrRow dst)).1.getD (e / per) 0) d.conv.target 0 codes mire
            (some (per * (e / per), codes.length, actUsesUnit d.act))) t ∧
        codes.getD (e % per) 0 = (convert d.conv.target (if d.conv.stoch then some (genDraw f e) else none) d.conv.ovf
          (numScale 0 (epiValue u.service d (BitVec.ofNat 40 (rowElem .w40
            (rowData (bufOf f src.buf) ((rowsFrom false src.buf 16 (ptrRow src)).1.getD (e / 16) 0)) (e % 16))) (a e) (b e)).1)).1)) ∧
  (∀ (src : NrmSrc) (fmt : Fmt) (row : Fin 32), f.sfuFree ≤ u.ck →
    let l := normElems f src fmt h.va.val
    let extra := if src = .reg then 0 else 3
    let n := normOf f row.val
    let live := l.any fun x => !numIsZero x.1
    let bad := l.any (·.2.1) || !decide (f.sfuBad = [])
    (∀ clr : Bool, ∃ t, exec (.nrmKmax p h src fmt row clr) s = .next t ∧ FenOnly p.val u t ∧ (fenOf t p.val).sfuFree = u.ck + 4 ∧
      (fenOf t p.val).norms = f.norms ∧ OnItsWay p.val (u.ck + 6 + extra) q .sfu
        (.norm row.val (.kmax clr (l.foldl (fun k x => expMax k (elemExp x)) none)) live bad) t) ∧
    (∃ t, exec (.nrmSq p h src fmt row) s = .next t ∧ FenOnly p.val u t ∧ (fenOf t p.val).sfuFree = u.ck + 4 ∧
      (fenOf t p.val).norms = f.norms ∧ OnItsWay p.val (u.ck + 8 + extra) q .sfu
        (.norm row.val (.sq (n.k.getD 0) (l.map (·.1))) live bad) t) ∧
    (∃ t taint, exec (.nrmApply p h src fmt row) s = .next t ∧ FenOnly p.val u t ∧ (fenOf t p.val).sfuFree = u.ck + 4 ∧
      OnItsWay p.val (u.ck + 8 + extra) q .sfu (.vreg h.vd.val (activeVals f h.pred.val fun e =>
        if zeroRow n then 0#32 else BitVec.ofNat 32 (convert .f32 none false
          (numMul (numMul (numScale (-(n.k.getD 0)) (l.getD e (.nan, false, none)).1) (f32v n.r)) (f32v (b e)))).1) taint) t)) ∧
  (∀ (row : Fin 32) (part mrg : Bool), f.sfuFree ≤ u.ck →
    let o := normOf f row.val
    let c := combinePairs (mergePairs ((rowsFrom false x.buf 2 (ptrRow x)).1.map (rowData (bufOf f x.buf))))
    let k := if mrg then c.1 else o.k
    let sq := if mrg then c.2.1 else o.q
    let pair := if mrg then some (k, sq) else none
    let lat := if mrg then 40 else 24
    let d := roundW40 (numAdd (w40v (meanOf sq (b 0).toInt).1) (numScale (-2 * k.getD 0) (f32v (b 1))))
    let v := primRsqrt (decodeFmt .f32 (convert .f32 none false (w40v d.1)).1)
    let r : Word := BitVec.ofNat 32 (unitResult u.service .f32 none false v v).1
    ∃ t live mire, exec (.nrmFin p h row part mrg) s = .next t ∧ FenOnly p.val u t ∧ (fenOf t p.val).sfuFree = u.ck + 4 ∧
      (fenOf t p.val).norms = f.norms ∧
      (part = true → OnItsWay p.val (u.ck + lat) q .sfu (.norm row.val (.fin pair none) live mire) t ∧
        OnItsWay p.val (u.ck + lat) q .sfu (.rowPart x.buf (ptrRow x) .w40 0 [sq.toNat, (roundW40 (numOfInt (k.getD 0))).1.toNat]
          mire (some (0, 64, true))) t) ∧
      (part = false → OnItsWay p.val (u.ck + lat) q .sfu (.norm row.val (.fin pair (some r)) live mire) t ∧
        ∃ vals taint, OnItsWay p.val (u.ck + lat) q .sfu (.vreg h.vd.val vals taint) t ∧
          (act.getLsbD 0 = true → vals.getD 0 none = some (BitVec.ofInt 32 (k.getD 0))) ∧
          (act.getLsbD 1 = true → vals.getD 1 none = some r) ∧ ∀ e, 2 ≤ e → vals.getD e none = none)) ∧
  (∀ k : Fin 4, f.sfuFree ≤ u.ck →
    let st : Nat → Nat → Word := fun v i => elemAt (tileReg f h.vd.val) (32 * v + 8 * k.val + i)
    let r : Nat → OnlineRow := fun i => onlineRow u.service (vecOf f h.va.val i) (st 0 i) (st 1 i)
    (∃ t stats t1 weights t2, exec (.smxOnline p h k) s = .next t ∧ FenOnly p.val u t ∧ (fenOf t p.val).sfuFree = u.ck + 20 ∧
      OnItsWay p.val (u.ck + 52) q .sfu (.vreg h.vd.val stats t1) t ∧ OnItsWay p.val (u.ck + 52) q .sfu (.vreg h.vb.val weights t2) t ∧
      ∀ i, i < 8 → (act.getLsbD (8 * k.val + i) = true → stats.getD (8 * k.val + i) none = some (r i).m) ∧
        (act.getLsbD (32 + 8 * k.val + i) = true → stats.getD (32 + 8 * k.val + i) none = some (r i).l) ∧
        (act.getLsbD (64 + 8 * k.val + i) = true → stats.getD (64 + 8 * k.val + i) none = some (r i).corr) ∧
        ∀ j, j < (r i).p.length → act.getLsbD (32 * i + j) = true → weights.getD (32 * i + j) none = some ((r i).p.getD j 0#32)) ∧
    (∃ t stats t1, exec (.smxOnlineFin p h k) s = .next t ∧ FenOnly p.val u t ∧ (fenOf t p.val).sfuFree = u.ck + 4 ∧
      OnItsWay p.val (u.ck + 20) q .sfu (.vreg h.vd.val stats t1) t ∧
      ∀ i, i < 32 →
        let l := f32v (elemAt (tileReg f h.vd.val) (32 + i))
        (act.getLsbD (64 + i) = true → stats.getD (64 + i) none = some (if numIsZero l then l32Cut else l32One)) ∧
        (act.getLsbD (96 + i) = true → stats.getD (96 + i) none =
          some (if numIsZero l then 0x3F800000#32 else BitVec.ofNat 32 (unitResult u.service .f32 none false (primRcp l) (primRcp l)).1))) ∧
    (∀ clr : Bool, ∃ t rows, exec (.smxRangePass0 p h k clr) s = .next t ∧ FenOnly p.val u t ∧ (fenOf t p.val).sfuFree = u.ck + 16 ∧
      (fenOf t p.val).ranges = f.ranges ∧ OnItsWay p.val (u.ck + 34) q .sfu (.range (8 * k.val) clr rows) t ∧
      rows.map (·.1) = (List.range 8).map fun i => (vecOf f h.va.val i).map fun z =>
        ((exp2W40 u.service (f32v z)).1, (exp2W40 u.service (f32v z)).2.1)) ∧
    (∃ t weights t2, exec (.smxRangePass1 p h k) s = .next t ∧ FenOnly p.val u t ∧ (fenOf t p.val).sfuFree = u.ck + 20 ∧
      OnItsWay p.val (u.ck + 70) q .sfu (.vreg h.vb.val weights t2) t ∧
      ∀ i, i < 8 → ∀ j, j < (vecOf f h.va.val i).length → act.getLsbD (32 * i + j) = true →
        let l := w40v (mapGet {} f.ranges (8 * k.val + i)).l
        weights.getD (32 * i + j) none = some (if numIsZero l then 0#32
          else (rangeWeight u.service (hold34 (primLog2 l)) (a (32 * i + j))).1)))) ∧
  (∀ (p : Fin 72) (s : State), (∀ y, (∀ w ∈ (fenOf s p.val).pend, w.cls ≠ .sfu) → exec (.sfuResultWrite p y) s = .next s) ∧
    (∀ due row upd live mire, OnlyPending p.val due .sfu (.norm row upd live mire) s →
      let n := normOf (fenOf s p.val) row
      ∃ t, exec (.sfuResultWrite p none) s = .next t ∧ ResultAt p.val due s t ∧
        (∀ i, i ≠ row → normOf (fenOf t p.val) i = normOf (fenOf s p.val) i) ∧
        (∀ clr k, upd = .kmax clr k →
          let n0 := if clr then { n with k := none, q := 0, live := false, mire := false } else n
          normOf (fenOf t p.val) row = { n0 with k := expMax n0.k k, live := n0.live || live, mire := n0.mire || mire }) ∧
        (∀ k l, upd = .sq k l →
          normOf (fenOf t p.val) row = { n with q := (addSquares k n.q l).1, live := n.live || live, mire := n.mire || mire }) ∧
        ∀ pair r, upd = .fin pair r → (normOf (fenOf t p.val) row).r = r.getD n.r ∧
          (normOf (fenOf t p.val) row).k = (pair.map (·.1)).getD n.k ∧ (normOf (fenOf t p.val) row).q = (pair.map (·.2)).getD n.q) ∧
    (∀ due first clr rows, OnlyPending p.val due .sfu (.range first clr rows) s →
      ∃ t, exec (.sfuResultWrite p none) s = .next t ∧ ResultAt p.val due s t ∧ ∀ i, i < rows.length →
        let old : RangeRow := if clr then {} else mapGet {} (fenOf s p.val).ranges (first + i)
        let z := rows.getD i ([], false)
        mapGet {} (fenOf t p.val).ranges (first + i) =
          { (rangeAdd old z.1).1 with mire := (rangeAdd old z.1).1.mire || z.2 }) ∧
    (∀ due b row fmt codes mire src, OnlyPending p.val due .sfu (.rowPart b row fmt 0 codes mire src) s →
      codes.length = fmtPerRow fmt → ∃ t, exec (.sfuResultWrite p none) s = .next t ∧ ResultAt p.val due s t ∧
        rowRead (bufOf (fenOf t p.val) b) row = (packRow fmt codes, mire)) ∧
    ∀ due r vals taint, OnlyPending p.val due .sfu (.vreg r vals taint) s →
      (∃ t, exec (.sfuResultWrite p none) s = .next t ∧ ResultAt p.val due s t ∧
        tileReg (fenOf t p.val) r = overlay (tileReg (fenOf s p.val) r) vals) ∧
      ∀ y : SfuFault, ∃ t, exec (.sfuResultWrite p (some y)) s = .next t ∧ t.ck = max s.ck due ∧
        y.lane.val ∈ (fenOf t p.val).sfuBad ∧ regBit t 0x4000 0 = true ∧ regBit t (fenWin p.val 0x718) 0 = true ∧
        tileReg (fenOf t p.val) r = overlay (tileReg (fenOf s p.val) r) vals)

/-- O54. MNOP does nothing. VLD puts the elements of a row's group on their way to a vector, readable 4 CK later; VST
a vector's elements to a row, written in CK 2; either advances its pointer under INC. PSET, CSET and LCSET take effect
1 CK later, tags and masks 2, and RELEASE_CHAIN injects its credit at CK 4; a slot outside the buffer names nothing. A
SEND reads its rows and joins the port, which takes no ninth that has not begun; it begins at once when the port is
free. A SEND that arrives writes its rows, fills their slots and counts once, and a credit that arrives is counted at
the previous stage's link. The model's readings are in log entries 3, 62 and 63. (R360, R361, R363, R364, R365, R366,
R368, R369, R384, R390) -/
def Obligations.MoveSlotOps : Prop :=
  (∀ (p : Fin 72) (s : State), Issues p slotMove s →
    let u := atIssue p.val slotMove s
    let f := fenOf u p.val
    let q := 4 * u.ck + 2
    let one : FenWr → Nat → State := fun w lat => addPend p.val ⟨u.ck + lat, q, .move, w⟩ u
    exec (.mnop p) s = .next u ∧
    (∀ (pt : Fin 16) (b : BufId) (slot : Fin 512) (row : Fin 32), exec (.pset p pt b slot row) s =
      .next (if slot.val < bufSlots b then one (.ptr pt.val ⟨b, slot.val, row.val⟩) 1 else u)) ∧
    (∀ (sc : Fin 16) (vb : Fin 32) (ab : Bool) (r : RetKind), exec (.cset p sc vb ab r) s = .next (one (.ctx ⟨sc, vb, ab, r⟩) 1)) ∧
    (∀ (l : Fin 4) (n : BitVec 16), exec (.lcset p l n) s = .next (one (.lc l.val n) 1)) ∧
    (∀ (b : BufId) (slot : Fin 512),
      (slot.val < bufSlots b → exec (.tagSetFull p b slot) s = .next (one (.tag b slot.val true) 2) ∧
        exec (.tagSetEmpty p b slot) s = .next (one (.tag b slot.val false) 2) ∧
        ∀ l : Fin 4, exec (.tagReleaseChain p b slot l) s =
          .next (addPend p.val ⟨u.ck + 4, q, .move, .credit l.val⟩ (one (.tag b slot.val false) 2))) ∧
      (bufSlots b ≤ slot.val → exec (.tagSetFull p b slot) s = .next u ∧ exec (.tagSetEmpty p b slot) s = .next u ∧
        ∀ l : Fin 4, exec (.tagReleaseChain p b slot l) s = .next u)) ∧
    (∀ m rp cp : Fin 8, exec (.maskld p m rp cp) s =
      .next (one (.mask m.val ((predOf f rp.val).setWidth 32) ((predOf f cp.val).setWidth 32)) 2)) ∧
    (∀ (v : Fin 32) (m : Fin 8) (pt : Fin 16) (inc : Bool) (fmt : Fmt) (g : Fin 8), vecFmtOk fmt g.val = true →
      let x := mapGet {} f.pts pt.val
      let row := rowData (bufOf f x.buf) (ptrRow x)
      (∃ t, exec (.vld p v m pt inc fmt g) s = .next t ∧ FenOnly p.val u t ∧
        OnItsWay p.val (u.ck + 4) q .move (.vec v.val m.val ((List.range 32).map fun i =>
            if fmt = .w40 then (if i / 16 = g.val then some (BitVec.ofNat 32 (convert .f32 none false (decodeFmt .w40 (rowElem .w40 row (i % 16)))).1) else none)
            else some (regCode fmt (rowElem fmt row (32 * g.val + i)))) (rowRead (bufOf f x.buf) (ptrRow x)).2) t ∧
        (inc = true → OnItsWay p.val (u.ck + 1) q .move (.ptr pt.val (ptrAt x.buf (ptrRow x + 1))) t)) ∧
      ∃ t, exec (.vst p v m pt inc fmt g) s = .next t ∧ FenOnly p.val u t ∧
        OnItsWay p.val (u.ck + 3) q .move (.rowPart x.buf (ptrRow x) fmt (if fmt = .w40 then 0 else 32 * g.val)
          ((if fmt = .w40 then ((vecOf f v.val m.val).drop (16 * g.val)).take 16 else vecOf f v.val m.val).map fun e => (storeElem fmt e).1)
          (vecMire f v.val m.val) none) t ∧
        (inc = true → OnItsWay p.val (u.ck + 1) q .move (.ptr pt.val (ptrAt x.buf (ptrRow x + 1))) t)) ∧
    (∀ (pt : Fin 16) (n : Fin 32) (route : Fin 16) (r0 : Route), mapGet .ok f.img.routeErr route.val = .ok →
      routeOf (mapGet 0#64 f.img.routes route.val) = some r0 →
      let r := routeTaken f r0
      let x := mapGet {} f.pts pt.val
      let rows := (List.range (n.val + 1)).map fun k => rowRead (bufOf f x.buf) (bufWrap x.buf (ptrRow x + k))
      (8 ≤ f.sends.length → ∃ t, exec (.send p pt n route) s = .next t ∧ t.fens = u.fens ∧
        reg t (fenWin p.val 0xA0C) = satCount (reg u (fenWin p.val 0xA0C)) 1) ∧
      (∀ dst, f.sends.length < 8 → sendDest f route.val r = some dst → ∃ t, exec (.send p pt n route) s = .next t ∧
        ((fenOf t p.val).net ++ (fenOf t p.val).sends).map asQueued =
          (f.net ++ f.sends).map asQueued ++ [⟨u.ck, none, n.val + 1, rows, dst⟩] ∧
        OnItsWay p.val (u.ck + 1) q .move (.ptr pt.val (ptrAt x.buf (ptrRow x + n.val + 1))) t ∧
        (f.sends = [] → f.sendEnd ≤ u.ck → (fenOf t p.val).sends = [] ∧ (fenOf t p.val).sendEnd = u.ck + n.val + 1) ∧
        (r.kind = 1 → 0 < (linkOf f r.link).credit → (linkOf (fenOf t p.val) r.link).credit = (linkOf f r.link).credit - 1) ∧
        (r.auto = true → mapGet r.row (fenOf t p.val).img.routeRow route.val =
          bufWrap r.buf (mapGet r.row f.img.routeRow route.val + n.val + 1))))) ∧
  (∀ (p : Fin 72) (s : State), ((fenOf s p.val).sends = [] → exec (.sendBegin p) s = .next s) ∧
    ∀ x l, (fenOf s p.val).sends = x :: l → ckRuns s = true → ∃ t rest, exec (.sendBegin p) s = .next t ∧
      t.ck = max s.ck (max x.issued (fenOf s p.val).sendEnd) ∧
      (fenOf t p.val).net = (fenOf s p.val).net ++ { x with start := some (max x.issued (fenOf s p.val).sendEnd) } :: rest) ∧
  (∀ (p : Fin 72) (s : State), (ckRuns s = false → exec (.networkRowDelivery p) s = .next s) ∧
    (ckRuns s = true →
    let u := settle p.val s
    ((fenOf u p.val).net = [] → exec (.networkRowDelivery p) s = .next u) ∧
    ∀ x l, (fenOf u p.val).net = x :: l →
      (∀ c block n b row g, x.dest = .remote c block n b row g → ∃ t, exec (.networkRowDelivery p) s = .next t ∧
        (fenOf t p.val).net = l ∧ t.ck = max s.ck (x.start.getD x.issued + 52 + x.n) ∧
        (linkKeeps (cwOf s c) = true → (cwOf t c).tx = (cwOf s c).tx ++ msgFrames
          { pos := block, fen := n, buf := bufCode b, slot := row / 32, row := row % 32, group := g } (cwOf s c).nextMsg x.rows)) ∧
      ∀ n b row g k, x.dest = .fen n b row g → pfenOf s n = some k → bufsOff (fenOf s k) = false → x.rows.length ≤ 32 →
        ∃ t, exec (.networkRowDelivery p) s = .next t ∧ t.ck = max s.ck (x.start.getD x.issued + 52 + x.n) ∧
          (∀ i, i < x.rows.length → rowData (bufOf (fenOf t k) b) (bufWrap b (row + i)) = (x.rows.getD i (0, false)).1 ∧
            rowMire (bufOf (fenOf t k) b) (bufWrap b (row + i)) = (x.rows.getD i (0, false)).2 ∧
            (tagOf (fenOf t k) b (bufWrap b (row + i) / 32)).full = true) ∧
          ((counterOf (fenOf s k) g).cnt < 0xFFFF → (counterOf (fenOf t k) g).cnt = (counterOf (fenOf s k) g).cnt + 1))) ∧
  ∀ (p : Fin 72) (i : Fin 4) (s : State),
    ((fenOf s p.val).creditsOut.contains i.val = false → (∀ w ∈ (fenOf s p.val).pend, w.wr ≠ .credit i.val) →
      exec (.chainCreditArrival p i) s = .next s) ∧
    ((fenOf s p.val).creditsOut.contains i.val = true → ∃ t, exec (.chainCreditArrival p i) s = .next t ∧ t.ck = s.ck ∧
      (fenOf t p.val).creditsOut = (fenOf s p.val).creditsOut.erase i.val ∧
      ∀ k, (linkOf (fenOf s p.val) i.val).hasPrev = true → pfenOf s (linkOf (fenOf s p.val) i.val).prevFen = some k →
        (linkOf (fenOf t k) (linkOf (fenOf s p.val) i.val).prevLink).credit =
          (linkOf (fenOf s k) (linkOf (fenOf s p.val) i.val).prevLink).credit + 1)

/-- O55. A TLOAD joins the queue of the load bus, which takes no fifth that has not started, and starts at once when
the bus is free. A TMUL multiplies with the front plane, after the exchange under SWAP, and its rows of the P-buffer
are written 8 CK later. TOPA adds k times v to each active entry, TDECAY and TSCALE scale it, TSTEP decays and adds,
all written 4 CK later, 5 with COMP; TREAD reads the state as it is and TSTEP as it becomes, with outputs 7 CK later,
8 for a TSTEP with COMP. When a result comes, time moves to its CK and it is written; a failed check that it reports
shows in ARR_FAULT and ERR_STATUS. (R88, R94, R104, R105, R106, R108, R110, R111, R112, R113, R115, R118) -/
def Obligations.ArrayOps : Prop :=
  (∀ (p : Fin 72) (s : State), Issues p slotArray s →
    let u := atIssue p.val slotArray s
    let f := fenOf u p.val
    exec (.anop p) s = .next u ∧
    (∀ op : TLoadOp, bufSlots .w ≤ op.wslot.val → exec (.tload p op) s = .next u) ∧
    (∀ op : TLoadOp, op.wslot.val < bufSlots .w →
      (4 ≤ (f.loads.filter fun j => decide (j.start = none)).length → ∃ t, exec (.tload p op) s = .next t ∧ t.fens = u.fens ∧
        reg t (fenWin p.val 0x318) = satCount (reg u (fenWin p.val 0x318)) 1) ∧
      ((f.loads.filter fun j => decide (j.start = none)).length < 4 → f.loads ≠ [] → ∃ t, exec (.tload p op) s = .next t ∧
        FenOnly p.val u t ∧ (fenOf t p.val).loads = f.loads ++ [⟨op, u.ck, none, 0⟩]) ∧
      (f.loads = [] → f.busFree ≤ u.ck → ∃ t, exec (.tload p op) s = .next t ∧ FenOnly p.val u t ∧
        (fenOf t p.val).loads = [⟨op, u.ck, some u.ck, 0⟩] ∧ (fenOf t p.val).busFree = u.ck + loadCk op)) ∧
    (∀ op : TMulOp,
      let go := freeArrays u p.val op.amask false
      let m := maskOf f op.mp.val
      let plane : Nat → Plane := fun a => if op.swap then { (arrOf f a).back with loading := none } else (arrOf f a).front
      let outs := go.flatMap fun a => tmulOuts op p.val a (plane a) m.1 m.2 f.bufA
      ∃ t, exec (.tmul p op) s = .next t ∧
        (∀ r ∈ outs.map (·.1), OnItsWay p.val (u.ck + 8) (4 * u.ck) .tmul
          (.prow r ((outs.filter fun o => decide (o.1 = r)).map (·.2)) op.acc
            (if op.acc then some (rowRead f.bufP r) else none)) t) ∧
        (∀ a ∈ go, op.swap = true → (arrOf (fenOf t p.val) a).front = plane a ∧
          ∃ n, (arrOf (fenOf t p.val) a).back = { id := n, mire := (arrOf f a).front.mire }) ∧
        (op.swap = false → t.free = u.free ∧ ∀ a, arrOf (fenOf t p.val) a = arrOf f a)) ∧
    (∀ (h : StHead) (dax axis : Bool) (dst : ODst),
      let x : Nat → StateArgs := stateArgs f h
      let m := maskOf f h.mp.val
      let kv : Nat → Nat → Machine.Num := fun a e => numMul (f32v (elemAt (x a).k (e / 32))) (f32v (elemAt (x a).v (e % 32)))
      let fac : Nat → Nat → Word := fun a e => elemAt (x a).f (if dax then e % 32 else e / 32)
      let decayed : Nat → Nat → Machine.Num → Machine.Num := fun a e v => if fac a e = l32Cut then .fin false 0 0 else numMul (decayFactor (fac a e)) v
      let old : Nat → Nat → Entry := fun a e => entryOf (tileOf f a h.depth.val) e
      let stepped : Nat → Nat → Entry := fun a e => entryBy h.comp (fun v => numAdd (decayed a e v) (kv a e)) (old a e)
      (∃ t, exec (.topa p h) s = .next t ∧
        StateUpdates p h (fun a e => entryBy h.comp (fun v => numAdd v (kv a e)) (old a e)) u t) ∧
      (∃ t, exec (.tdecay p h dax) s = .next t ∧ StateUpdates p h (fun a e => entryBy h.comp (decayed a e) (old a e)) u t) ∧
      (∃ t, exec (.tscale p h dax) s = .next t ∧
        StateUpdates p h (fun a e => entryBy h.comp (numMul (f32v (fac a e))) (old a e)) u t) ∧
      (∃ t, exec (.tread p h axis dst) s = .next t ∧ StateReads p h axis dst (u.ck + 7) (fun a e => entryW (old a e)) u t ∧
        ∀ a d, (tileOf (fenOf t p.val) a d).ent = (tileOf f a d).ent) ∧
      (∃ t, exec (.tstep p h dax axis dst) s = .next t ∧ StateUpdates p h stepped u t ∧
        StateReads p h axis dst (u.ck + (if h.comp then 8 else 7)) (fun a e =>
          entryW (if (tileOf f a h.depth.val).frozen = false ∧ e ∈ activeCells m.1 m.2 then stepped a e else old a e)) u t))) ∧
  (∀ (p : Fin 72) (s : State), ((∀ j ∈ (fenOf s p.val).loads, j.start ≠ none) → exec (.tloadReadStart p) s = .next s) ∧
    (∀ j : LoadJob, (fenOf s p.val).loads.find? (fun j => decide (j.start = none)) = some j → ckRuns s = true →
      ∃ t, exec (.tloadReadStart p) s = .next t ∧ t.ck = max s.ck (max j.issued (fenOf s p.val).busFree)) ∧
    ∀ j : LoadJob, (fenOf s p.val).loads = [j] → j.start = none → ckRuns s = true → s.ck ≤ max j.issued (fenOf s p.val).busFree →
      let k := max j.issued (fenOf s p.val).busFree
      ∃ t, exec (.tloadReadStart p) s = .next t ∧ t.ck = k ∧ (fenOf t p.val).loads = [⟨j.op, j.issued, some k, 0⟩] ∧
        (fenOf t p.val).busFree = k + loadCk j.op) ∧
  ∀ (p : Fin 72) (due : Nat) (s : State),
    (∀ row outs acc base, OnlyPending p.val due .tmul (.prow row outs acc base) s → outs.length = 16 →
      let old : Row := (base.map (·.1)).getD (rowData (fenOf s p.val).bufP row)
      ∃ t, exec (.arrayResultWrite p none) s = .next t ∧ ResultAt p.val due s t ∧
        rowData (fenOf t p.val).bufP row = packRow .w40 (outs.map fun o =>
          (if acc then accumulate (BitVec.ofNat 40 (rowElem .w40 old o.pos)) o.sums else sumGroups o.sums).1.toNat)) ∧
    (∀ tile vals mire, OnlyPending p.val due .state (.entries tile vals mire) s → (fenOf s p.val).faults = [] →
      ∃ t, exec (.stateEntryWrite p none) s = .next t ∧ ResultAt p.val due s t ∧
        mapGet {} (fenOf t p.val).tiles tile = { tileWrite (mapGet {} (fenOf s p.val).tiles tile) vals with
          mire := (mapGet {} (fenOf s p.val).tiles tile).mire || (mire && decide (vals ≠ [])) }) ∧
    (∀ r v outs, OnlyPending p.val due .stread (.pvec r v outs) s → v < 8 → (tileReg (fenOf s p.val) r).length = 256 →
      ∃ t, exec (.treadTstepResultWrite p none) s = .next t ∧ ResultAt p.val due s t ∧
        ∀ o ∈ outs, o.pos < 32 → (∀ o' ∈ outs, o'.pos = o.pos → o' = o) →
          elemAt (tileReg (fenOf t p.val) r) (32 * v + o.pos) =
            BitVec.ofNat 32 (convert .f32 none false (o.sums.headD (.fin false 0 0))).1) ∧
    ∀ (c : WrCls) (y : ArrFault) (w : PendWr) (l : List PendWr), (fenOf s p.val).pend = w :: l → w.cls = c → ckRuns s = true →
      ∀ e, (c = .tmul ∧ e = Instr.arrayResultWrite p (some y)) ∨ (c = .state ∧ e = .stateEntryWrite p (some y)) ∨
          (c = .stread ∧ e = .treadTstepResultWrite p (some y)) →
        ∃ t, exec e s = .next t ∧ t.ck = max s.ck w.due ∧ reg t (fenWin p.val 0x310) ≠ 0#32 ∧ regBit t 0x4000 0 = true

/-- O56. CPUSH puts each array's carry on its way to the leaf, complete 40 CK later; CPULL takes an array's oldest
delivery, whose write of the tile is due 40 CK later, and with none counts a hazard. A push that arrives is held by
the leaf, 56 CK or more after the one before, and the leaf sends its aggregate up when its last push has come; one
that its plan's scans do not declare, or that comes too late, is dropped and counts a hazard. A node sends its
children's composition up and keeps the earlier part, and passes a prefix down, to the later child composed with what
it kept. The root starts the down-sweep with the identity. A leaf delivers each push its prefix, before or after its
own carry as it asked, each delivery 56 CK after the one before. A ring carry that passes the checks is stored,
reaches the leaves 336 CK after the root has sent it down, and corrects what each leaf kept; one that does not pass is
counted. The model's readings are in log entries 64, 69 and 94. (R193, R197, R201, R205, R206, R207, R208, R209, R214,
R215, R216, R613) -/
def Obligations.CarryOps : Prop :=
  (∀ (p : Fin 72) (am : BitVec 4) (d : Fin 128) (base : Fin 512) (s : State), Issues p slotMove s →
    let u := atIssue p.val slotMove s
    let f := fenOf u p.val
    let x : Nat → Tile := fun a => tileOf f a d.val
    (∃ t, exec (.cpush p am d base) s = .next t ∧
      (fenOf t p.val).pushes = f.pushes ++ (arraysOf am).map (fun a => ⟨u.ck + 40, a, f.ctx.scan.val, base.val + a, f.ctx.ret,
        ⟨(if f.ctx.abs then List.replicate 32 l32Cut else vecOf f f.ctx.vbase.val (2 * a)),
          (if f.ctx.abs then List.replicate 32 l32One else vecOf f f.ctx.vbase.val (2 * a + 1)),
          (List.range 1024).map (fun e => (roundW40 (entryValue (entryOf (x a) e))).1),
          (x a).mire || (x a).err.any (fun e => decide (e.2 = .ue)) || (x a).invalid⟩⟩) ∧
      ∀ a ∈ arraysOf am, (arrOf (fenOf t p.val) a).portTo = max (arrOf f a).portTo (u.ck + 40)) ∧
    ∀ (add : Bool) (vb : Option (Fin 32)), ∃ t, exec (.cpull p am d add vb) s = .next t ∧
      ∀ a ∈ arraysOf am, (arrOf (fenOf t p.val) a).portTo = max (arrOf f a).portTo (u.ck + 40) ∧
        (∀ (y : Delivery) (l : List Delivery), mapGet [] f.deliveries a = y :: l → y.since ≤ u.ck → mapGet [] (fenOf t p.val).deliveries a = l ∧
          OnItsWay p.val (u.ck + 40) (4 * u.ck + 2) .move (.pull (tileIx a d.val) (some y.carry) add (tileComp u p.val a d.val)) t ∧
          ∀ v, vb = some v →
            OnItsWay p.val (u.ck + 40) (4 * u.ck + 2) .move (.vec v.val (2 * a) (y.carry.lr.map some) y.carry.mired) t ∧
            OnItsWay p.val (u.ck + 40) (4 * u.ck + 2) .move (.vec v.val (2 * a + 1) (y.carry.lc.map some) y.carry.mired) t) ∧
        ((∀ y ∈ (mapGet [] f.deliveries a).head?, u.ck < y.since) →
          mapGet [] (fenOf t p.val).deliveries a = mapGet [] f.deliveries a ∧ reg t (fenWin p.val 0x608) ≠ 0#32 ∧
          OnItsWay p.val (u.ck + 40) (4 * u.ck + 2) .move (.pull (tileIx a d.val) none add (tileComp u p.val a d.val)) t)) ∧
  (∀ (p : Fin 72) (a : Fin 4) (k : Option TreeFault) (s : State), (fenOf s p.val).pushes.find? (fun x => decide (x.array = a.val)) = none →
    exec (.leafPushReceive p a k) s = .next s) ∧
  (∀ (p : Fin 72) (a : Fin 4) (x : PushJob) (n : Nat) (s : State), ckRuns s = true → logicalOf s p.val = some n →
    (fenOf s p.val).pushes.find? (fun x => decide (x.array = a.val)) = some x →
    let decl := (planOfFen s p.val).bind fun pl => pl.scans.find? fun d => decide (d.scan = x.scan)
    let lt := leafOf s n x.scan x.tile
    let pushes := lt.pushes ++ [⟨x.array, x.ret, x.carry, false⟩]
    let ok := ∃ d, decl = some d ∧ d.leaves.getLsbD n = true ∧ x.tile < d.tiles ∧ lt.sent = false
    let want := decl.bind fun d => (d.expect.find? fun e => decide (e.1 = n ∧ e.2.1 = x.tile)).map (·.2.2)
    ∃ t, exec (.leafPushReceive p a none) s = .next t ∧ t.ck = max s.ck (max x.due (freeCk s (64 + n) 0)) ∧
      (fenOf t p.val).pushes = (fenOf s p.val).pushes.erase x ∧
      (¬ ok → t.leaves = s.leaves ∧ t.carryTree = s.carryTree ∧
        reg t (fenWin p.val 0x614) = satCount (reg s (fenWin p.val 0x614)) 1) ∧
      (ok → want ≠ some pushes.length → leafOf t n x.scan x.tile = { lt with pushes := pushes } ∧ t.carryTree = s.carryTree) ∧
      (ok → want = some pushes.length → leafOf t n x.scan x.tile = { lt with pushes := pushes, sent := true } ∧
        let cell : TreeCell := mapGet {} t.carryTree (treeKey ((64 + n) / 2) x.scan x.tile)
        (n % 2 = 0 → cell.left = some (composedPushes pushes)) ∧ (n % 2 = 1 → cell.right = some (composedPushes pushes)))) ∧
  (∀ (node : Fin 64) (st : ScanTile) (d : ScanDecl) (s : State), ckRuns s = true → scanOf s st.scan.val = some d → 2 ≤ node.val →
    let k := treeKey node.val st.scan.val st.tile.val
    let x : TreeCell := mapGet {} s.carryTree k
    (∀ e later, x.upDone = false → cellInputs d node.val none x = some (e, later) →
      ∃ t, exec (.nodeUp node st none) s = .next t ∧ t.ck = max s.ck (hopCk s node.val 0 x.since) ∧
        (mapGet {} t.carryTree k).upDone = true ∧ (mapGet {} t.carryTree k).keep = (match later with | some _ => some e | none => x.keep) ∧
        let c : Carry := match later with
          | some l => (composeCarry l e).1
          | none => e
        let cell : TreeCell := mapGet {} t.carryTree (treeKey (node.val / 2) st.scan.val st.tile.val)
        (node.val % 2 = 0 → cell.left = some c) ∧ (node.val % 2 = 1 → cell.right = some c)) ∧
    (∀ c, x.down = some c → x.downDone = false → ∃ t, exec (.nodeDown node st none) s = .next t ∧
      t.ck = max s.ck (hopCk s node.val 1 x.downAt) ∧ (mapGet {} t.carryTree k).downDone = true ∧
      let child : Nat → TreeCell := fun i => mapGet {} t.carryTree (treeKey (2 * node.val + i) st.scan.val st.tile.val)
      let first := if d.dir then 1 else 0
      (takesPart d (2 * node.val) = true → takesPart d (2 * node.val + 1) = true → (child first).down = some c ∧
        (child (1 - first)).down = some (match x.keep with | some e => (composeCarry e c).1 | none => c)) ∧
      (takesPart d (2 * node.val) = true → takesPart d (2 * node.val + 1) = false → (child 0).down = some c) ∧
      (takesPart d (2 * node.val) = false → takesPart d (2 * node.val + 1) = true → (child 1).down = some c))) ∧
  (∀ (st : ScanTile) (d : ScanDecl) (ring : Option TreeFault) (s : State), ckRuns s = true → scanOf s st.scan.val = some d →
    let k := treeKey 1 st.scan.val st.tile.val
    let x : TreeCell := mapGet {} s.carryTree k
    ∀ e later, x.upDone = false → cellInputs d 1 none x = some (e, later) →
      ∃ t, exec (.rootAggregate st ⟨none, ring⟩) s = .next t ∧ t.ck = max s.ck (max (hopCk s 1 0 x.since) (hopCk s 1 1 x.since)) ∧
        (mapGet {} t.carryTree k).upDone = true ∧ (mapGet {} t.carryTree k).downDone = true ∧
        (∀ l, later = some l →
          let child : Nat → TreeCell := fun i => mapGet {} t.carryTree (treeKey (2 + i) st.scan.val st.tile.val)
          let first := if d.dir then 1 else 0
          (child first).down = some carryIdent ∧ (child (1 - first)).down = some (composeCarry e carryIdent).1) ∧
        (d.ring = false → t.ring = s.ring ∧ t.cws = s.cws) ∧
        (d.ring = true → (ringEnds s d).1 = false → (ringCell t st.scan.val st.tile.val).bind (·.g) =
          some (match later with | some l => (composeCarry l e).1 | none => e))) ∧
  (∀ (n : Fin 64) (st : ScanTile) (d : ScanDecl) (c : Carry) (p : Nat) (s : State), ckRuns s = true →
    scanOf s st.scan.val = some d → pfenOf s n.val = some p →
    let x : TreeCell := mapGet {} s.carryTree (treeKey (64 + n.val) st.scan.val st.tile.val)
    x.down = some c → (leafOf s n.val st.scan.val st.tile.val).delivered = false →
    ∃ t, exec (.leafDelivery n st none) s = .next t ∧ t.ck = max s.ck (hopCk s (64 + n.val) 1 x.downAt) ∧
      (leafOf t n.val st.scan.val st.tile.val).delivered = true ∧
      (d.ring = false ∨ (ringEnds s d).1 = true → (fenOf t p).kept = (fenOf s p).kept) ∧
      ∀ y : LeafPush, (leafOf s n.val st.scan.val st.tile.val).pushes = [y] →
        (d.ring = true → (ringEnds s d).1 = false → y.ret = .excl →
          (fenOf t p).kept = (fenOf s p).kept ++ [⟨st.scan.val, st.tile.val, y.array, c.lr, c.lc⟩]) ∧
        mapGet [] (fenOf t p).deliveries y.array = mapGet [] (fenOf s p).deliveries y.array ++ ((match y.ret with
          | .none => []
          | .excl => [⟨c, t.ck⟩]
          | .incl => [⟨(composeCarry y.carry c).1, t.ck⟩]
          | .both => [⟨c, t.ck⟩, ⟨(composeCarry y.carry c).1, t.ck + 56⟩]) : List Delivery)) ∧
  (∀ (c : Fin 3) (k : Option TreeFault) (s : State), ((cwOf s c.val).carryReady = [] → exec (.ringCarryReceive ⟨c, k⟩) s = .next s) ∧
    ∀ rows l, (cwOf s c.val).carryReady = rows :: l → ∃ t, exec (.ringCarryReceive ⟨c, k⟩) s = .next t ∧ (cwOf t c.val).carryReady = l ∧ t.ck = s.ck ∧
      (ringAccept s c.val (rows.getD 0 0) = none → reg t 0x110 = satCount (reg s 0x110) 1 ∧ t.ring = s.ring) ∧
      ∀ d, ringAccept s c.val (rows.getD 0 0) = some d →
        (ringCell t d.scan (rowField (rows.getD 0 0) 4 9)).bind (·.h) = some (carryOfRows rows)) ∧
  (∀ (st : ScanTile) (x : RingCell) (bad : List (Fin 128)) (s : State), ckRuns s = true → ringCell s st.scan.val st.tile.val = some x →
    x.h.isSome = true → x.broadcast = false → ∃ t, exec (.ringHBroadcast ⟨st, bad⟩) s = .next t ∧
      t.ck = max s.ck (max x.since (freeCk s 1 1) + 336) ∧
      ringCell t st.scan.val st.tile.val = some { x with broadcast := true, since := t.ck, bad := bad.map (·.val) }) ∧
  ∀ (n : Fin 64) (st : ScanTile) (x : RingCell) (h : Carry) (p : Nat) (s : State), ckRuns s = true →
    ringCell s st.scan.val st.tile.val = some x → x.h = some h → x.broadcast = true → pfenOf s n.val = some p →
    let mine := (fenOf s p).kept.filter fun k => decide (k.scan = st.scan.val ∧ k.tile = st.tile.val)
    (mine = [] → exec (.ringCorrection n st none) s = .next s) ∧
    (mine ≠ [] → ∃ t, exec (.ringCorrection n st none) s = .next t ∧ t.ck = max s.ck (hopCk s (64 + n.val) 1 x.since) ∧
      (∀ y ∈ (fenOf t p).kept, ¬ (y.scan = st.scan.val ∧ y.tile = st.tile.val)) ∧
      ∀ k : KeptPart, mine = [k] → mapGet [] (fenOf t p).deliveries k.array = mapGet [] (fenOf s p).deliveries k.array ++
        [⟨(composeCarry (carryOfDecay k.lr k.lc) (markedCarry (x.bad.any fun i => (nodeLeaves i).contains n.val) h)).1, t.ck⟩])

/-- O57. SUMMARY writes no register: one flit with the number, the value, the low 8 bits of the tempo counter and a
mire mark goes out, reaching the light path 8 CK later. A summary that arrives from a source of its decision in this
tempo for the first time is taken in ascending order of fens; the last one chooses the variant, which each target's
slot then takes. Any other is counted and ignored. A mired summary forces variant 0. The model's readings are in log
entry 72. (R278, R280, R281, R282) -/
def Obligations.Decisions : Prop :=
  (∀ (p : Fin 72) (h : VHead) (d : Fin 64) (op : SumOp) (s : State), Issues p slotVector s →
    let u := atIssue p.val slotVector s
    let f := fenOf u p.val
    let act := predOf f h.pred.val
    let el : Nat → Word := elemAt (tileReg f h.va.val)
    let ty := ((decisionOf u p.val d.val).map decType).getD .i32
    ∃ t v, exec (.summary p h d op) s = .next t ∧ FenOnly p.val u t ∧ (fenOf t p.val).v = f.v ∧
      (fenOf t p.val).flits = f.flits ++ [(u.ck + 8, d.val, v, u.tempo.count.setWidth 8,
        (activeElems act).any fun e => vecMire f h.va.val (e / 32))] ∧
      OnItsWay p.val (u.ck + 8) (4 * u.ck + 1) .vector .done t ∧
      reg t (fenWin p.val 0x80C) = satCount (reg u (fenWin p.val 0x80C)) 1 ∧
      (op = .or → v = (activeElems act).foldl (fun x e => x ||| el e) 0#32) ∧
      (op = .min → v = (reduceElems .min ty true ((List.range 256).map fun e => if act.getLsbD e then el e else redIdent .min ty)).val) ∧
      (op = .max → v = (reduceElems .max ty true ((List.range 256).map fun e => if act.getLsbD e then el e else redIdent .max ty)).val) ∧
      (op = .sum → ty = .i32 → v = (satInt .w32 ((activeElems act).map fun e => (el e).toInt).sum).val) ∧
      (op = .sum → ty = .l32 → v = (compAll ((activeElems act).map el)).val)) ∧
  (∀ (p : Fin 72) (s : State), ((fenOf s p.val).flits = [] → exec (.summaryFlitArrival p) s = .next s) ∧
    ∀ x l n, (fenOf s p.val).flits = x :: l → logicalOf s p.val = some n → ckRuns s = true →
    let key := decKey ((fenOf s p.val).img.plan.getD 0) x.2.1
    let got := (mapGet {} s.decisions key).got
    ∃ t, exec (.summaryFlitArrival p) s = .next t ∧ t.ck = max s.ck x.1 ∧ (fenOf t p.val).flits = l ∧
      ∀ dd, decisionOf s p.val x.2.1 = some dd →
        (x.2.2.2.1 ≠ s.tempo.count.setWidth 8 ∨ (∃ g ∈ got, g.1 = n) ∨ (decSources dd).getLsbD n = false →
          reg t 0x140 = satCount (reg s 0x140) 1 ∧ t.decisions = s.decisions ∧ t.selPending = s.selPending) ∧
        (x.2.2.2.1 = s.tempo.count.setWidth 8 → (∀ g ∈ got, g.1 ≠ n) → (decSources dd).getLsbD n = true →
          let now := gotInsert (n, x.2.2.1, x.2.2.2.2) got
          (mapGet {} t.decisions key).got = now ∧
          ((∀ k, k < 64 → (decSources dd).getLsbD k = true → ∃ g ∈ now, g.1 = k) →
            (mapGet {} t.decisions key).chosen = some (chooseVariant dd now).1 ∧
            (∀ g ∈ now, g.2.2 = true → (mapGet {} t.decisions key).chosen = some 0) ∧
            ∀ k, k < 64 → (decTargets dd).getLsbD k = true → (key, k) ∈ t.selPending) ∧
          ((∃ k, k < 64 ∧ (decSources dd).getLsbD k = true ∧ ∀ g ∈ now, g.1 ≠ k) → t.selPending = s.selPending))) ∧
  ∀ (n d : Fin 64) (s : State), (pfenOf s n.val = none → exec (.selectSlotWrite n d) s = .next s) ∧
    ∀ p v dd, pfenOf s n.val = some p →
    let key := decKey ((fenOf s p).img.plan.getD 0) d.val
    (mapGet {} s.decisions key).chosen = some v → decisionOf s p d.val = some dd →
    (s.selPending.contains (key, n.val) = false → exec (.selectSlotWrite n d) s = .next s) ∧
    (s.selPending.contains (key, n.val) = true → ∃ t, exec (.selectSlotWrite n d) s = .next t ∧
      mapGet {} (fenOf t p).selects (decSlot dd) = ⟨some (BitVec.ofNat 2 v), s.ck⟩ ∧ t.selPending = s.selPending.erase (key, n.val) ∧
      t = { s with fens := t.fens, selPending := t.selPending } ∧ ∀ k, k ≠ p → fenOf t k = fenOf s k)

/-- O58. A lode whose tags forbid its next transfer is BLOCKED; otherwise the transfer is in flight, and a write lode
on the fabric has written its rows. A read transfer from the fabric that completes writes its row, fills the slots it
is the last to move and counts once. Generation steps that wait are taken one after the other, each as soon as no
transfer of the generation before the present one is in flight. A transfer through a state port takes it for 40 CK and
then has its effect. The scrubber of an array works in a CK in which its state file and port are idle; a scrubber
reads one depth or row in a CK, mires it where the read is uncorrectable, and writes back in a later one what it
corrected. The model's readings and the times that it gives events are in log entries 3 and 52. (R138, R139, R146,
R147, R150, R381, R384, R390, R395, R397, R398, R400) -/
def Obligations.LodesPortsAndScrubs : Prop :=
  (∀ (l : Fin 1024) (s : State),
    let x := lodeOf s l.val
    (lodePfen s x = none ∨ lodeReady s x = false → exec (.lodeTransferIssue l) s = .next s) ∧
    ∀ p, lodePfen s x = some p → lodeReady s x = true →
    let u := settle p (advanceTo (max (fkUp (s.tempo.startTime + 2 * ldStart x.desc)) ((x.issuedAt.map fkAfter).getD 0)) s)
    let y := nextXfer u x
    (tagsAllow u p x = false → ∃ t, exec (.lodeTransferIssue l) s = .next t ∧ (lodeOf t l.val).st = .blocked ∧
      (lodeOf t l.val).inflight = x.inflight ∧ t.out = s.out) ∧
    (tagsAllow u p x = true → pagesThere u y = true →
      anyRank u .waking y.tier ((y.rows.filter fun r => needsTier u x.desc y.handle r.2).map fun r => y.origin + r.2) = false →
      ∃ t, exec (.lodeTransferIssue l) s = .next t ∧ (lodeOf t l.val).inflight = x.inflight ++ [y] ∧
        (lodeOf t l.val).issuedAt = some u.now ∧
        (ldRead x.desc = true → t.out = s.out) ∧
        ∀ b, ldRead x.desc = false → ldFabric x.desc = true → ldBuf x.desc = some b →
          t.out = s.out ++ y.rows.map fun r => .fabricWrite r.2 (rowBytes (rowData (bufOf (fenOf u p) b) r.1)))) ∧
  (∀ (l : Fin 1024) (ret : XferReturn) (s : State),
    let x := lodeOf s l.val
    (x.inflight = [] → exec (.lodeTransferComplete l ret) s = .next s) ∧
    ∀ y rest p b row off, x.inflight = y :: rest → lodePfen s x = some p → ldBuf x.desc = some b → s.plant.tierUp = true →
      s.plant.tierResetUntil = none → (fenOf s p).resetUntil = none → bufsOff (fenOf s p) = false → ldRead x.desc = true →
      y.tier = none → y.rows = [(row, off)] → y.flushed = [] →
      ∃ t, exec (.lodeTransferComplete l ret) s = .next t ∧ (lodeOf t l.val).inflight = rest ∧
        (ret.error = false → rowData (bufOf (fenOf t p) b) row = ret.rows.getD 0 0) ∧
        (ret.error = true → rowMire (bufOf (fenOf t p) b) row = true) ∧
        (∀ k ∈ y.lastOfSlot, (tagOf (fenOf t p) b k).full = true) ∧
        let c := counterOf (fenOf s p) (ldGroup x.desc)
        (c.gen = y.gen → c.cnt < 0xFFFF → (counterOf (fenOf t p) (ldGroup x.desc)).cnt = c.cnt + 1)) ∧
  (∀ (l : Fin 1024) (s : State),
    let x := lodeOf s l.val
    (tierWorks s = false ∨ x.stepWait = 0 ∨ (∃ y ∈ x.inflight, y.gen = x.gen - 1) → exec (.lodeGenStep l) s = .next s) ∧
    (tierWorks s = true → 0 < x.stepWait → (∀ y ∈ x.inflight, y.gen ≠ x.gen - 1) → ∃ t k, exec (.lodeGenStep l) s = .next t ∧
      0 < k ∧ k ≤ x.stepWait ∧ (k < x.stepWait → ∃ y ∈ x.inflight, y.gen = x.gen + BitVec.ofNat 16 k - 1) ∧
      (lodeOf t l.val).gen = x.gen + BitVec.ofNat 16 k ∧ (lodeOf t l.val).stepWait = x.stepWait - k ∧ (lodeOf t l.val).done = 0 ∧
      ∀ p, lodePfen s x = some p → (counterOf (fenOf t p) (ldGroup x.desc)).gen = x.gen + BitVec.ofNat 16 k ∧
        (counterOf (fenOf t p) (ldGroup x.desc)).cnt = 0)) ∧
  (∀ (p : Fin 72) (a : Fin 4) (s : State),
    (regBit s (fenWin p.val 0x510) 0 = false → exec (.stateScrub p a) s = .next s) ∧
    (regBit s (fenWin p.val 0x510) 0 = true → ckRuns s = true → (fenOf s p.val).pwr.st ≠ .retain → (fenOf s p.val).pwr.st ≠ .off →
      (fenOf s p.val).resetUntil = none →
      let c := scrubCk s (fenOf s p.val) a.val
      let u := settle p.val (advanceCk c s)
      let x := arrOf (fenOf u p.val) a.val
      let errs := (tileOf (fenOf u p.val) a.val x.scrub).err
      let fixed := (errs.filter fun e => decide (e.2 = .ce)).map (·.1)
      (arrOf (fenOf s p.val) a.val).portTo ≤ c ∧ (arrOf (fenOf s p.val) a.val).scrubAt ≤ c ∧ c ∉ stateCks (fenOf s p.val) a.val ∧
      ∃ t, exec (.stateScrub p a) s = .next t ∧ t.ck = max s.ck c ∧ (arrOf (fenOf t p.val) a.val).scrubAt = t.ck + 1 ∧
        (x.scrubRead = none → (∃ e ∈ errs, e.2 = .ue) → (tileOf (fenOf t p.val) a.val x.scrub).mire = true) ∧
        (x.scrubRead = none → fixed ≠ [] → (arrOf (fenOf t p.val) a.val).scrub = x.scrub ∧ (arrOf (fenOf t p.val) a.val).scrubRead = some fixed) ∧
        (x.scrubRead = none → fixed = [] → (arrOf (fenOf t p.val) a.val).scrub = (x.scrub + 1) % 128 ∧ (arrOf (fenOf t p.val) a.val).scrubRead = none) ∧
        ∀ l, x.scrubRead = some l → (arrOf (fenOf t p.val) a.val).scrub = (x.scrub + 1) % 128 ∧ (arrOf (fenOf t p.val) a.val).scrubRead = none ∧
          ∀ e ∈ l, mapGet .ok (tileOf (fenOf t p.val) a.val x.scrub).err e = .ok)) ∧
  (∀ (p : Fin 72) (b : BufId) (s : State),
    (regBit s (fenWin p.val 0xB08) 0 = false → exec (.bufferScrub p b) s = .next s) ∧
    (regBit s (fenWin p.val 0xB08) 0 = true → ckRuns s = true → bufsOff (fenOf s p.val) = false → (fenOf s p.val).resetUntil = none →
      let f := fenOf s p.val
      let row := (bufOf f b).scrub
      let c := bankFree f b row (1 + f.pend.length + (f.loads.map fun j => loadCk j.op).sum) (max s.ck (bufOf f b).scrubAt)
      let x := bufOf (fenOf (settle p.val (advanceCk c s)) p.val) b
      let after := if row + 1 = 32 * bufSlots b then 0 else row + 1
      let fixed := (List.range 8).filter fun w => decide (mapGet .ok x.err (8 * row + w) = .ce)
      (bufOf f b).scrubAt ≤ c ∧
      ∃ t, exec (.bufferScrub p b) s = .next t ∧ t.ck = max s.ck c ∧ (bufOf (fenOf t p.val) b).scrubAt = t.ck + 1 ∧
        (bufOf (fenOf t p.val) b).rows = x.rows ∧
        (x.scrubRead = none → fixed ≠ [] → (bufOf (fenOf t p.val) b).scrub = x.scrub ∧
          (bufOf (fenOf t p.val) b).scrubRead = some (fixed.map fun w => 8 * row + w)) ∧
        (x.scrubRead = none → fixed = [] → (bufOf (fenOf t p.val) b).scrub = after ∧ (bufOf (fenOf t p.val) b).scrubRead = none) ∧
        (x.scrubRead = none → rowBad x row = true → rowMire (bufOf (fenOf t p.val) b) row = true) ∧
        ∀ l, x.scrubRead = some l → (bufOf (fenOf t p.val) b).scrub = after ∧ (bufOf (fenOf t p.val) b).scrubRead = none ∧
          ∀ w ∈ l, mapGet .ok (bufOf (fenOf t p.val) b).err w = .ok)) ∧
  (∀ (p : Fin 72) (s : State),
    (s.ports.find? (fun x => decide (x.pfen = p.val) && decide (x.start = none)) = none → exec (.statePortTransferStart p) s = .next s) ∧
    ∀ x, s.ports.find? (fun x => decide (x.pfen = p.val) && decide (x.start = none)) = some x →
      (portNoImage x.kind = true ∨ portStart s x = none → exec (.statePortTransferStart p) s = .next s) ∧
      ∀ k, ckRuns s = true → (fenOf s p.val).pwr.st ≠ .off → (fenOf s p.val).pwr.phase = .none → portNoImage x.kind = false →
      portStart s x = some k → ∃ t, exec (.statePortTransferStart p) s = .next t ∧ t.ck = max s.ck k ∧
        t.ports = s.ports.map (fun y => if y = x then { y with start := some k } else y) ∧ t.ck + 40 ≤ (arrOf (fenOf t p.val) x.array).portTo) ∧
  ∀ (p : Fin 72) (bad : List Nat) (s : State),
    (s.ports.find? (fun x => decide (x.pfen = p.val) && x.start.isSome) = none → exec (.statePortTransferDone p bad) s = .next s) ∧
    ∀ x k, s.ports.find? (fun x => decide (x.pfen = p.val) && x.start.isSome) = some x → x.start = some k →
      (ckRuns s = false → exec (.statePortTransferDone p bad) s = .next s) ∧
      (ckRuns s = true → ∃ t, exec (.statePortTransferDone p bad) s = .next t ∧
        ∀ sid image, x.kind = .init sid image → s.streamJobs = [] → (x.due = true → portsOver (portEnd x bad s) = false) →
          t.ck = max s.ck (k + 40) ∧ t.ports = s.ports.erase x ∧
          tileOf (fenOf t p.val) x.array x.depth = tileLoaded (initImage s sid image bad))

/-- O59. Bytes written to a tier at an address are read back there as written; every byte outside them, and the other
tier, is as before. A write keeps the canonical form of the memory. (R418) -/
def Obligations.TierMemoryReadsBack : Prop :=
  ∀ (ti : Tier) (addr : Nat) (data : List Byte) (s : State),
    let t := tierWrite ti addr data s
    tierRead t ti addr data.length = data ∧
    (∀ other b n, b + n ≤ addr ∨ addr + data.length ≤ b → tierRead t other b n = tierRead s other b n) ∧
    (ti = .a → t.tierB = s.tierB) ∧ (ti ≠ .a → t.tierA = s.tierA) ∧
    (Memory.wf s.tierA = true → Memory.wf s.tierB = true → Memory.wf t.tierA = true ∧ Memory.wf t.tierB = true) ∧
    t = { s with tierA := t.tierA, tierB := t.tierB }

/-- O60. An operation of the array, the vector or the move slot of a fen changes nothing outside that fen but
registers of its window, the error log with its status and overflow count, the note of what events did in the present
MK cycle, time and the free values used: no other fen, no tier, no queue, no lode, no causeway and no other register
of the block. In a fen with nothing on its way, none of its tile registers, predicates, masks, pointers, loop counts
or buffer data has changed when the operation has issued: what it computes is written later. (R109, R262, R335, R377)
-/
def Obligations.SlotFrame : Prop :=
  ∀ (c : Instr) (p : Fin 72) (s t : State), slotOpFen c = some p → exec c s = .next t →
    t = { s with fens := t.fens, regs := t.regs, events := t.events, log := t.log, now := t.now, ck := t.ck, free := t.free } ∧
    (∀ k, k ≠ p.val → fenOf t k = fenOf s k) ∧
    (∀ off, off ≠ 0x4000 → off ≠ 0x400C → (∀ o, o < 0x1000 → off ≠ fenWin p.val o) → reg t off = reg s off) ∧
    (∃ l, t.log = s.log ++ l) ∧
    ((fenOf s p.val).pend = [] → (fenOf s p.val).v = (fenOf t p.val).v ∧ (fenOf s p.val).vMire = (fenOf t p.val).vMire ∧
      (fenOf s p.val).pr = (fenOf t p.val).pr ∧ (fenOf s p.val).masks = (fenOf t p.val).masks ∧ (fenOf s p.val).pts = (fenOf t p.val).pts ∧
      (fenOf s p.val).lcs = (fenOf t p.val).lcs ∧ (fenOf s p.val).ctx = (fenOf t p.val).ctx ∧
      ∀ b, (bufOf (fenOf t p.val) b).rows = (bufOf (fenOf s p.val) b).rows ∧ (bufOf (fenOf t p.val) b).tags = (bufOf (fenOf s p.val) b).tags)
end

