-- ==== Sys2Proof/Laws/Map.lean ====
section
/-!
SUPPORT. The laws of the sparse maps: reading after a write, what other keys read as, and the canonical form.
-/

namespace Sys2Proof.Machine

variable {β : Type}

theorem mapGet_nil (d : β) (i : Nat) : mapGet d [] i = d := rfl

theorem mapGet_mapDropTo (d : β) (i j : Nat) (m : SMap β) (h : i < j) : mapGet d (mapDropTo i m) j = mapGet d m j := by
  induction m with
  | nil => rfl
  | cons e m ih =>
    obtain ⟨k, v⟩ := e
    simp only [mapDropTo]
    split
    · rw [ih]; simp only [mapGet]; rw [if_neg (by omega), if_neg (by omega)]
    · rfl

theorem mapGet_mapDropTo_same (d : β) (i : Nat) (m : SMap β) : mapGet d (mapDropTo i m) i = d := by
  induction m with
  | nil => rfl
  | cons e m ih =>
    obtain ⟨k, v⟩ := e
    simp only [mapDropTo]
    split
    · exact ih
    · simp only [mapGet]; rw [if_neg (by omega), if_pos (by omega)]

/-- A read of the key that was written gives the value. -/
@[simp] theorem mapGet_mapPut_same [DecidableEq β] (d : β) (m : SMap β) (i : Nat) (b : β) : mapGet d (mapPut d m i b) i = b := by
  induction m with
  | nil => simp only [mapPut]; split <;> simp_all [mapGet]
  | cons e m ih =>
    obtain ⟨k, v⟩ := e
    simp only [mapPut]
    split
    · split
      · next hb => subst hb; simp only [mapGet]; rw [if_neg (by omega), if_pos (by omega)]
      · simp [mapGet]
    · split
      · split
        · next hb => subst hb; exact mapGet_mapDropTo_same ..
        · simp [mapGet]
      · simp only [mapGet]; rw [if_neg (by omega), if_neg (by omega)]; exact ih

/-- A read of another key gives what it gave. -/
theorem mapGet_mapPut_ne [DecidableEq β] (d : β) (m : SMap β) (i j : Nat) (b : β) (h : j ≠ i) :
    mapGet d (mapPut d m i b) j = mapGet d m j := by
  induction m with
  | nil =>
    simp only [mapPut]
    split
    · rfl
    · simp only [mapGet]; rw [if_neg (by omega)]; split <;> rfl
  | cons e m ih =>
    obtain ⟨k, v⟩ := e
    simp only [mapPut]
    split
    · split
      · rfl
      · simp only [mapGet]
        rw [if_neg (by omega)]
        split
        · rw [if_neg (by omega), if_pos (by omega)]
        · rfl
    · split
      · next hk =>
        subst hk
        split
        · by_cases hj : i < j
          · rw [mapGet_mapDropTo d i j m hj]; simp only [mapGet]; rw [if_neg (by omega), if_neg (by omega)]
          · simp only [mapGet]
            rw [if_neg (by omega), if_pos (by omega)]
            have : ∀ l : SMap β, mapGet d (mapDropTo i l) j = d := by
              intro l
              induction l with
              | nil => rfl
              | cons e l ih' =>
                obtain ⟨k', v'⟩ := e
                simp only [mapDropTo]
                split
                · exact ih'
                · simp only [mapGet]; rw [if_neg (by omega), if_pos (by omega)]
            exact this m
        · simp only [mapGet]; rw [if_neg (Ne.symm h), if_neg (Ne.symm h)]
      · simp only [mapGet]
        split
        · rfl
        · split
          · rfl
          · exact ih

/-- A read after a write, at any key. -/
theorem mapGet_mapPut [DecidableEq β] (d : β) (m : SMap β) (i j : Nat) (b : β) :
    mapGet d (mapPut d m i b) j = if j = i then b else mapGet d m j := by
  split
  · next h => rw [h, mapGet_mapPut_same]
  · next h => rw [mapGet_mapPut_ne d m i j b h]

theorem mapWfFrom_mono [DecidableEq β] (d : β) (lo lo' : Option Nat) (m : SMap β)
    (hl : ∀ a, lo' = some a → ∃ b, lo = some b ∧ a ≤ b) (h : mapWfFrom d lo m = true) : mapWfFrom d lo' m = true := by
  cases m with
  | nil => rfl
  | cons e m =>
    obtain ⟨k, v⟩ := e
    simp only [mapWfFrom, Bool.and_eq_true] at h ⊢
    refine ⟨⟨?_, h.1.2⟩, h.2⟩
    cases lo' with
    | none => rfl
    | some a =>
      obtain ⟨b, hb, hab⟩ := hl a rfl
      rw [hb] at h
      simp only [decide_eq_true_eq] at h ⊢
      omega

theorem mapWfFrom_mapDropTo [DecidableEq β] (d : β) (lo : Option Nat) (i : Nat) (m : SMap β)
    (h : mapWfFrom d lo m = true) : mapWfFrom d lo (mapDropTo i m) = true := by
  induction m generalizing lo with
  | nil => rfl
  | cons e m ih =>
    obtain ⟨k, v⟩ := e
    simp only [mapDropTo]
    split
    · have h2 := h
      simp only [mapWfFrom, Bool.and_eq_true] at h
      refine ih lo (mapWfFrom_mono d (some k) lo m ?_ h.2)
      intro a ha
      refine ⟨k, rfl, ?_⟩
      rw [ha] at h
      simp only [decide_eq_true_eq] at h
      omega
    · exact h

theorem mapWfFrom_mapPut [DecidableEq β] (d : β) (lo : Option Nat) (m : SMap β) (i : Nat) (b : β)
    (hi : ∀ a, lo = some a → a < i) (h : mapWfFrom d lo m = true) : mapWfFrom d lo (mapPut d m i b) = true := by
  induction m generalizing lo with
  | nil =>
    simp only [mapPut]
    split
    · rfl
    · next hb =>
      simp only [mapWfFrom, Bool.and_eq_true]
      refine ⟨⟨?_, by simp [hb]⟩, trivial⟩
      cases lo with
      | none => rfl
      | some a => simpa using hi a rfl
  | cons e m ih =>
    obtain ⟨k, v⟩ := e
    have h' := h
    simp only [mapWfFrom, Bool.and_eq_true] at h
    simp only [mapPut]
    split
    · next hik =>
      split
      · exact h'
      · next hb =>
        simp only [mapWfFrom, Bool.and_eq_true]
        refine ⟨⟨?_, by simp [hb]⟩, ⟨by simpa using hik, h.1.2⟩, h.2⟩
        cases lo with
        | none => rfl
        | some a => simpa using hi a rfl
    · split
      · next hik =>
        subst hik
        split
        · refine mapWfFrom_mapDropTo d lo i m (mapWfFrom_mono d (some i) lo m ?_ h.2)
          intro a ha
          exact ⟨i, rfl, Nat.le_of_lt (hi a ha)⟩
        · next hb =>
          simp only [mapWfFrom, Bool.and_eq_true]
          exact ⟨⟨h.1.1, by simp [hb]⟩, h.2⟩
      · simp only [mapWfFrom, Bool.and_eq_true]
        refine ⟨h.1, ih (some k) ?_ h.2⟩
        intro a ha
        cases ha
        omega

/-- A write keeps the canonical form. -/
theorem mapWf_mapPut [DecidableEq β] (d : β) (m : SMap β) (i : Nat) (b : β) (h : mapWf d m = true) :
    mapWf d (mapPut d m i b) = true := mapWfFrom_mapPut d none m i b (fun _ ha => by cases ha) h

/-- A run of writes keeps the canonical form. -/
theorem mapWf_mapPutRun [DecidableEq β] (d : β) (m : SMap β) (i : Nat) (l : List β) (h : mapWf d m = true) :
    mapWf d (mapPutRun d m i l) = true := by
  induction l generalizing m i with
  | nil => exact h
  | cons b l ih => exact ih _ _ (mapWf_mapPut d m i b h)

/-- What a key reads as after a run of writes. -/
theorem mapGet_mapPutRun [DecidableEq β] (d : β) (m : SMap β) (i j : Nat) (l : List β) :
    mapGet d (mapPutRun d m i l) j = if i ≤ j ∧ j < i + l.length then l.getD (j - i) d else mapGet d m j := by
  induction l generalizing m i with
  | nil => simp only [mapPutRun, List.length_nil]; rw [if_neg (by omega)]
  | cons b l ih =>
    simp only [mapPutRun, List.length_cons]
    rw [ih, mapGet_mapPut]
    by_cases hj : j = i
    · subst hj; rw [if_neg (by omega), if_pos rfl, if_pos (by omega)]; simp
    · by_cases hr : i + 1 ≤ j ∧ j < i + 1 + l.length
      · rw [if_pos hr, if_pos (by omega)]
        obtain ⟨n, rfl⟩ : ∃ n, j = i + 1 + n := ⟨j - (i + 1), by omega⟩
        rw [show i + 1 + n - (i + 1) = n by omega, show i + 1 + n - i = n + 1 by omega]
        rfl
      · rw [if_neg hr, if_neg hj, if_neg (by omega)]

end Sys2Proof.Machine
end

