-- ==== Sys2Proof/Laws/State.lean ====
section
/-!
SUPPORT. What each update of State leaves: one lemma for each field that it does not change, and what the readers of the
fields that it changes give after it.
-/

namespace Sys2Proof.Machine

/-! ## setReg -/

section

variable {off : Nat} {v : Word} {s : State}

@[simp] theorem setReg_pending : (setReg off v s).pending = s.pending := rfl
@[simp] theorem setReg_now : (setReg off v s).now = s.now := rfl
@[simp] theorem setReg_ck : (setReg off v s).ck = s.ck := rfl
@[simp] theorem setReg_fens : (setReg off v s).fens = s.fens := rfl
@[simp] theorem setReg_events : (setReg off v s).events = s.events := rfl
@[simp] theorem setReg_shadow : (setReg off v s).shadow = s.shadow := rfl
@[simp] theorem setReg_pendSet : (setReg off v s).pendSet = s.pendSet := rfl
@[simp] theorem setReg_latch : (setReg off v s).latch = s.latch := rfl
@[simp] theorem setReg_staleSeen : (setReg off v s).staleSeen = s.staleSeen := rfl
@[simp] theorem setReg_lodeSample : (setReg off v s).lodeSample = s.lodeSample := rfl
@[simp] theorem setReg_objSample : (setReg off v s).objSample = s.objSample := rfl
@[simp] theorem setReg_objStage : (setReg off v s).objStage = s.objStage := rfl
@[simp] theorem setReg_objOp : (setReg off v s).objOp = s.objOp := rfl
@[simp] theorem setReg_log : (setReg off v s).log = s.log := rfl
@[simp] theorem setReg_service : (setReg off v s).service = s.service := rfl
@[simp] theorem setReg_spareMap : (setReg off v s).spareMap = s.spareMap := rfl
@[simp] theorem setReg_mapGen : (setReg off v s).mapGen = s.mapGen := rfl
@[simp] theorem setReg_spareFens : (setReg off v s).spareFens = s.spareFens := rfl
@[simp] theorem setReg_spareTree : (setReg off v s).spareTree = s.spareTree := rfl
@[simp] theorem setReg_spareCore : (setReg off v s).spareCore = s.spareCore := rfl
@[simp] theorem setReg_spareWay : (setReg off v s).spareWay = s.spareWay := rfl
@[simp] theorem setReg_spareTa : (setReg off v s).spareTa = s.spareTa := rfl
@[simp] theorem setReg_retiredWay : (setReg off v s).retiredWay = s.retiredWay := rfl
@[simp] theorem setReg_wayPending : (setReg off v s).wayPending = s.wayPending := rfl
@[simp] theorem setReg_tierA : (setReg off v s).tierA = s.tierA := rfl
@[simp] theorem setReg_tierB : (setReg off v s).tierB = s.tierB := rfl
@[simp] theorem setReg_cache : (setReg off v s).cache = s.cache := rfl
@[simp] theorem setReg_objs : (setReg off v s).objs = s.objs := rfl
@[simp] theorem setReg_lodes : (setReg off v s).lodes = s.lodes := rfl
@[simp] theorem setReg_arms : (setReg off v s).arms = s.arms := rfl
@[simp] theorem setReg_plans : (setReg off v s).plans = s.plans := rfl
@[simp] theorem setReg_loads : (setReg off v s).loads = s.loads := rfl
@[simp] theorem setReg_streams : (setReg off v s).streams = s.streams := rfl
@[simp] theorem setReg_streamJobs : (setReg off v s).streamJobs = s.streamJobs := rfl
@[simp] theorem setReg_moves : (setReg off v s).moves = s.moves := rfl
@[simp] theorem setReg_ports : (setReg off v s).ports = s.ports := rfl
@[simp] theorem setReg_decisions : (setReg off v s).decisions = s.decisions := rfl
@[simp] theorem setReg_selPending : (setReg off v s).selPending = s.selPending := rfl
@[simp] theorem setReg_carryTree : (setReg off v s).carryTree = s.carryTree := rfl
@[simp] theorem setReg_leaves : (setReg off v s).leaves = s.leaves := rfl
@[simp] theorem setReg_treeBusy : (setReg off v s).treeBusy = s.treeBusy := rfl
@[simp] theorem setReg_ring : (setReg off v s).ring = s.ring := rfl
@[simp] theorem setReg_cws : (setReg off v s).cws = s.cws := rfl
@[simp] theorem setReg_ringId : (setReg off v s).ringId = s.ringId := rfl
@[simp] theorem setReg_ringPos : (setReg off v s).ringPos = s.ringPos := rfl
@[simp] theorem setReg_ringSize : (setReg off v s).ringSize = s.ringSize := rfl
@[simp] theorem setReg_c2Role : (setReg off v s).c2Role = s.c2Role := rfl
@[simp] theorem setReg_tempo : (setReg off v s).tempo = s.tempo := rfl
@[simp] theorem setReg_snap : (setReg off v s).snap = s.snap := rfl
@[simp] theorem setReg_twin : (setReg off v s).twin = s.twin := rfl
@[simp] theorem setReg_heron : (setReg off v s).heron = s.heron := rfl
@[simp] theorem setReg_mbox : (setReg off v s).mbox = s.mbox := rfl
@[simp] theorem setReg_plant : (setReg off v s).plant = s.plant := rfl
@[simp] theorem setReg_queues : (setReg off v s).queues = s.queues := rfl
@[simp] theorem setReg_flash : (setReg off v s).flash = s.flash := rfl
@[simp] theorem setReg_flashNext : (setReg off v s).flashNext = s.flashNext := rfl
@[simp] theorem setReg_ranks : (setReg off v s).ranks = s.ranks := rfl
@[simp] theorem setReg_jobs : (setReg off v s).jobs = s.jobs := rfl
@[simp] theorem setReg_images : (setReg off v s).images = s.images := rfl
@[simp] theorem setReg_queries : (setReg off v s).queries = s.queries := rfl
@[simp] theorem setReg_out : (setReg off v s).out = s.out := rfl
@[simp] theorem setReg_free : (setReg off v s).free = s.free := rfl

end

/-! ## setFenReg -/

section

variable {p o : Nat} {v : Word} {s : State}

@[simp] theorem setFenReg_pending : (setFenReg p o v s).pending = s.pending := rfl
@[simp] theorem setFenReg_now : (setFenReg p o v s).now = s.now := rfl
@[simp] theorem setFenReg_ck : (setFenReg p o v s).ck = s.ck := rfl
@[simp] theorem setFenReg_fens : (setFenReg p o v s).fens = s.fens := rfl
@[simp] theorem setFenReg_events : (setFenReg p o v s).events = s.events := rfl
@[simp] theorem setFenReg_shadow : (setFenReg p o v s).shadow = s.shadow := rfl
@[simp] theorem setFenReg_pendSet : (setFenReg p o v s).pendSet = s.pendSet := rfl
@[simp] theorem setFenReg_latch : (setFenReg p o v s).latch = s.latch := rfl
@[simp] theorem setFenReg_staleSeen : (setFenReg p o v s).staleSeen = s.staleSeen := rfl
@[simp] theorem setFenReg_lodeSample : (setFenReg p o v s).lodeSample = s.lodeSample := rfl
@[simp] theorem setFenReg_objSample : (setFenReg p o v s).objSample = s.objSample := rfl
@[simp] theorem setFenReg_objStage : (setFenReg p o v s).objStage = s.objStage := rfl
@[simp] theorem setFenReg_objOp : (setFenReg p o v s).objOp = s.objOp := rfl
@[simp] theorem setFenReg_log : (setFenReg p o v s).log = s.log := rfl
@[simp] theorem setFenReg_service : (setFenReg p o v s).service = s.service := rfl
@[simp] theorem setFenReg_spareMap : (setFenReg p o v s).spareMap = s.spareMap := rfl
@[simp] theorem setFenReg_mapGen : (setFenReg p o v s).mapGen = s.mapGen := rfl
@[simp] theorem setFenReg_spareFens : (setFenReg p o v s).spareFens = s.spareFens := rfl
@[simp] theorem setFenReg_spareTree : (setFenReg p o v s).spareTree = s.spareTree := rfl
@[simp] theorem setFenReg_spareCore : (setFenReg p o v s).spareCore = s.spareCore := rfl
@[simp] theorem setFenReg_spareWay : (setFenReg p o v s).spareWay = s.spareWay := rfl
@[simp] theorem setFenReg_spareTa : (setFenReg p o v s).spareTa = s.spareTa := rfl
@[simp] theorem setFenReg_retiredWay : (setFenReg p o v s).retiredWay = s.retiredWay := rfl
@[simp] theorem setFenReg_wayPending : (setFenReg p o v s).wayPending = s.wayPending := rfl
@[simp] theorem setFenReg_tierA : (setFenReg p o v s).tierA = s.tierA := rfl
@[simp] theorem setFenReg_tierB : (setFenReg p o v s).tierB = s.tierB := rfl
@[simp] theorem setFenReg_cache : (setFenReg p o v s).cache = s.cache := rfl
@[simp] theorem setFenReg_objs : (setFenReg p o v s).objs = s.objs := rfl
@[simp] theorem setFenReg_lodes : (setFenReg p o v s).lodes = s.lodes := rfl
@[simp] theorem setFenReg_arms : (setFenReg p o v s).arms = s.arms := rfl
@[simp] theorem setFenReg_plans : (setFenReg p o v s).plans = s.plans := rfl
@[simp] theorem setFenReg_loads : (setFenReg p o v s).loads = s.loads := rfl
@[simp] theorem setFenReg_streams : (setFenReg p o v s).streams = s.streams := rfl
@[simp] theorem setFenReg_streamJobs : (setFenReg p o v s).streamJobs = s.streamJobs := rfl
@[simp] theorem setFenReg_moves : (setFenReg p o v s).moves = s.moves := rfl
@[simp] theorem setFenReg_ports : (setFenReg p o v s).ports = s.ports := rfl
@[simp] theorem setFenReg_decisions : (setFenReg p o v s).decisions = s.decisions := rfl
@[simp] theorem setFenReg_selPending : (setFenReg p o v s).selPending = s.selPending := rfl
@[simp] theorem setFenReg_carryTree : (setFenReg p o v s).carryTree = s.carryTree := rfl
@[simp] theorem setFenReg_leaves : (setFenReg p o v s).leaves = s.leaves := rfl
@[simp] theorem setFenReg_treeBusy : (setFenReg p o v s).treeBusy = s.treeBusy := rfl
@[simp] theorem setFenReg_ring : (setFenReg p o v s).ring = s.ring := rfl
@[simp] theorem setFenReg_cws : (setFenReg p o v s).cws = s.cws := rfl
@[simp] theorem setFenReg_ringId : (setFenReg p o v s).ringId = s.ringId := rfl
@[simp] theorem setFenReg_ringPos : (setFenReg p o v s).ringPos = s.ringPos := rfl
@[simp] theorem setFenReg_ringSize : (setFenReg p o v s).ringSize = s.ringSize := rfl
@[simp] theorem setFenReg_c2Role : (setFenReg p o v s).c2Role = s.c2Role := rfl
@[simp] theorem setFenReg_tempo : (setFenReg p o v s).tempo = s.tempo := rfl
@[simp] theorem setFenReg_snap : (setFenReg p o v s).snap = s.snap := rfl
@[simp] theorem setFenReg_twin : (setFenReg p o v s).twin = s.twin := rfl
@[simp] theorem setFenReg_heron : (setFenReg p o v s).heron = s.heron := rfl
@[simp] theorem setFenReg_mbox : (setFenReg p o v s).mbox = s.mbox := rfl
@[simp] theorem setFenReg_plant : (setFenReg p o v s).plant = s.plant := rfl
@[simp] theorem setFenReg_queues : (setFenReg p o v s).queues = s.queues := rfl
@[simp] theorem setFenReg_flash : (setFenReg p o v s).flash = s.flash := rfl
@[simp] theorem setFenReg_flashNext : (setFenReg p o v s).flashNext = s.flashNext := rfl
@[simp] theorem setFenReg_ranks : (setFenReg p o v s).ranks = s.ranks := rfl
@[simp] theorem setFenReg_jobs : (setFenReg p o v s).jobs = s.jobs := rfl
@[simp] theorem setFenReg_images : (setFenReg p o v s).images = s.images := rfl
@[simp] theorem setFenReg_queries : (setFenReg p o v s).queries = s.queries := rfl
@[simp] theorem setFenReg_out : (setFenReg p o v s).out = s.out := rfl
@[simp] theorem setFenReg_free : (setFenReg p o v s).free = s.free := rfl

end

/-! ## noteEvents -/

section

variable {off : Nat} {v : Word × Word} {s : State}

@[simp] theorem noteEvents_pending : (noteEvents off v s).pending = s.pending := rfl
@[simp] theorem noteEvents_now : (noteEvents off v s).now = s.now := rfl
@[simp] theorem noteEvents_ck : (noteEvents off v s).ck = s.ck := rfl
@[simp] theorem noteEvents_fens : (noteEvents off v s).fens = s.fens := rfl
@[simp] theorem noteEvents_regs : (noteEvents off v s).regs = s.regs := rfl
@[simp] theorem noteEvents_shadow : (noteEvents off v s).shadow = s.shadow := rfl
@[simp] theorem noteEvents_pendSet : (noteEvents off v s).pendSet = s.pendSet := rfl
@[simp] theorem noteEvents_latch : (noteEvents off v s).latch = s.latch := rfl
@[simp] theorem noteEvents_staleSeen : (noteEvents off v s).staleSeen = s.staleSeen := rfl
@[simp] theorem noteEvents_lodeSample : (noteEvents off v s).lodeSample = s.lodeSample := rfl
@[simp] theorem noteEvents_objSample : (noteEvents off v s).objSample = s.objSample := rfl
@[simp] theorem noteEvents_objStage : (noteEvents off v s).objStage = s.objStage := rfl
@[simp] theorem noteEvents_objOp : (noteEvents off v s).objOp = s.objOp := rfl
@[simp] theorem noteEvents_log : (noteEvents off v s).log = s.log := rfl
@[simp] theorem noteEvents_service : (noteEvents off v s).service = s.service := rfl
@[simp] theorem noteEvents_spareMap : (noteEvents off v s).spareMap = s.spareMap := rfl
@[simp] theorem noteEvents_mapGen : (noteEvents off v s).mapGen = s.mapGen := rfl
@[simp] theorem noteEvents_spareFens : (noteEvents off v s).spareFens = s.spareFens := rfl
@[simp] theorem noteEvents_spareTree : (noteEvents off v s).spareTree = s.spareTree := rfl
@[simp] theorem noteEvents_spareCore : (noteEvents off v s).spareCore = s.spareCore := rfl
@[simp] theorem noteEvents_spareWay : (noteEvents off v s).spareWay = s.spareWay := rfl
@[simp] theorem noteEvents_spareTa : (noteEvents off v s).spareTa = s.spareTa := rfl
@[simp] theorem noteEvents_retiredWay : (noteEvents off v s).retiredWay = s.retiredWay := rfl
@[simp] theorem noteEvents_wayPending : (noteEvents off v s).wayPending = s.wayPending := rfl
@[simp] theorem noteEvents_tierA : (noteEvents off v s).tierA = s.tierA := rfl
@[simp] theorem noteEvents_tierB : (noteEvents off v s).tierB = s.tierB := rfl
@[simp] theorem noteEvents_cache : (noteEvents off v s).cache = s.cache := rfl
@[simp] theorem noteEvents_objs : (noteEvents off v s).objs = s.objs := rfl
@[simp] theorem noteEvents_lodes : (noteEvents off v s).lodes = s.lodes := rfl
@[simp] theorem noteEvents_arms : (noteEvents off v s).arms = s.arms := rfl
@[simp] theorem noteEvents_plans : (noteEvents off v s).plans = s.plans := rfl
@[simp] theorem noteEvents_loads : (noteEvents off v s).loads = s.loads := rfl
@[simp] theorem noteEvents_streams : (noteEvents off v s).streams = s.streams := rfl
@[simp] theorem noteEvents_streamJobs : (noteEvents off v s).streamJobs = s.streamJobs := rfl
@[simp] theorem noteEvents_moves : (noteEvents off v s).moves = s.moves := rfl
@[simp] theorem noteEvents_ports : (noteEvents off v s).ports = s.ports := rfl
@[simp] theorem noteEvents_decisions : (noteEvents off v s).decisions = s.decisions := rfl
@[simp] theorem noteEvents_selPending : (noteEvents off v s).selPending = s.selPending := rfl
@[simp] theorem noteEvents_carryTree : (noteEvents off v s).carryTree = s.carryTree := rfl
@[simp] theorem noteEvents_leaves : (noteEvents off v s).leaves = s.leaves := rfl
@[simp] theorem noteEvents_treeBusy : (noteEvents off v s).treeBusy = s.treeBusy := rfl
@[simp] theorem noteEvents_ring : (noteEvents off v s).ring = s.ring := rfl
@[simp] theorem noteEvents_cws : (noteEvents off v s).cws = s.cws := rfl
@[simp] theorem noteEvents_ringId : (noteEvents off v s).ringId = s.ringId := rfl
@[simp] theorem noteEvents_ringPos : (noteEvents off v s).ringPos = s.ringPos := rfl
@[simp] theorem noteEvents_ringSize : (noteEvents off v s).ringSize = s.ringSize := rfl
@[simp] theorem noteEvents_c2Role : (noteEvents off v s).c2Role = s.c2Role := rfl
@[simp] theorem noteEvents_tempo : (noteEvents off v s).tempo = s.tempo := rfl
@[simp] theorem noteEvents_snap : (noteEvents off v s).snap = s.snap := rfl
@[simp] theorem noteEvents_twin : (noteEvents off v s).twin = s.twin := rfl
@[simp] theorem noteEvents_heron : (noteEvents off v s).heron = s.heron := rfl
@[simp] theorem noteEvents_mbox : (noteEvents off v s).mbox = s.mbox := rfl
@[simp] theorem noteEvents_plant : (noteEvents off v s).plant = s.plant := rfl
@[simp] theorem noteEvents_queues : (noteEvents off v s).queues = s.queues := rfl
@[simp] theorem noteEvents_flash : (noteEvents off v s).flash = s.flash := rfl
@[simp] theorem noteEvents_flashNext : (noteEvents off v s).flashNext = s.flashNext := rfl
@[simp] theorem noteEvents_ranks : (noteEvents off v s).ranks = s.ranks := rfl
@[simp] theorem noteEvents_jobs : (noteEvents off v s).jobs = s.jobs := rfl
@[simp] theorem noteEvents_images : (noteEvents off v s).images = s.images := rfl
@[simp] theorem noteEvents_queries : (noteEvents off v s).queries = s.queries := rfl
@[simp] theorem noteEvents_out : (noteEvents off v s).out = s.out := rfl
@[simp] theorem noteEvents_free : (noteEvents off v s).free = s.free := rfl

end

/-! ## eventReg -/

section

variable {off : Nat} {f : Word → Word} {s : State}

@[simp] theorem eventReg_pending : (eventReg off f s).pending = s.pending := rfl
@[simp] theorem eventReg_now : (eventReg off f s).now = s.now := rfl
@[simp] theorem eventReg_ck : (eventReg off f s).ck = s.ck := rfl
@[simp] theorem eventReg_fens : (eventReg off f s).fens = s.fens := rfl
@[simp] theorem eventReg_shadow : (eventReg off f s).shadow = s.shadow := rfl
@[simp] theorem eventReg_pendSet : (eventReg off f s).pendSet = s.pendSet := rfl
@[simp] theorem eventReg_latch : (eventReg off f s).latch = s.latch := rfl
@[simp] theorem eventReg_staleSeen : (eventReg off f s).staleSeen = s.staleSeen := rfl
@[simp] theorem eventReg_lodeSample : (eventReg off f s).lodeSample = s.lodeSample := rfl
@[simp] theorem eventReg_objSample : (eventReg off f s).objSample = s.objSample := rfl
@[simp] theorem eventReg_objStage : (eventReg off f s).objStage = s.objStage := rfl
@[simp] theorem eventReg_objOp : (eventReg off f s).objOp = s.objOp := rfl
@[simp] theorem eventReg_log : (eventReg off f s).log = s.log := rfl
@[simp] theorem eventReg_service : (eventReg off f s).service = s.service := rfl
@[simp] theorem eventReg_spareMap : (eventReg off f s).spareMap = s.spareMap := rfl
@[simp] theorem eventReg_mapGen : (eventReg off f s).mapGen = s.mapGen := rfl
@[simp] theorem eventReg_spareFens : (eventReg off f s).spareFens = s.spareFens := rfl
@[simp] theorem eventReg_spareTree : (eventReg off f s).spareTree = s.spareTree := rfl
@[simp] theorem eventReg_spareCore : (eventReg off f s).spareCore = s.spareCore := rfl
@[simp] theorem eventReg_spareWay : (eventReg off f s).spareWay = s.spareWay := rfl
@[simp] theorem eventReg_spareTa : (eventReg off f s).spareTa = s.spareTa := rfl
@[simp] theorem eventReg_retiredWay : (eventReg off f s).retiredWay = s.retiredWay := rfl
@[simp] theorem eventReg_wayPending : (eventReg off f s).wayPending = s.wayPending := rfl
@[simp] theorem eventReg_tierA : (eventReg off f s).tierA = s.tierA := rfl
@[simp] theorem eventReg_tierB : (eventReg off f s).tierB = s.tierB := rfl
@[simp] theorem eventReg_cache : (eventReg off f s).cache = s.cache := rfl
@[simp] theorem eventReg_objs : (eventReg off f s).objs = s.objs := rfl
@[simp] theorem eventReg_lodes : (eventReg off f s).lodes = s.lodes := rfl
@[simp] theorem eventReg_arms : (eventReg off f s).arms = s.arms := rfl
@[simp] theorem eventReg_plans : (eventReg off f s).plans = s.plans := rfl
@[simp] theorem eventReg_loads : (eventReg off f s).loads = s.loads := rfl
@[simp] theorem eventReg_streams : (eventReg off f s).streams = s.streams := rfl
@[simp] theorem eventReg_streamJobs : (eventReg off f s).streamJobs = s.streamJobs := rfl
@[simp] theorem eventReg_moves : (eventReg off f s).moves = s.moves := rfl
@[simp] theorem eventReg_ports : (eventReg off f s).ports = s.ports := rfl
@[simp] theorem eventReg_decisions : (eventReg off f s).decisions = s.decisions := rfl
@[simp] theorem eventReg_selPending : (eventReg off f s).selPending = s.selPending := rfl
@[simp] theorem eventReg_carryTree : (eventReg off f s).carryTree = s.carryTree := rfl
@[simp] theorem eventReg_leaves : (eventReg off f s).leaves = s.leaves := rfl
@[simp] theorem eventReg_treeBusy : (eventReg off f s).treeBusy = s.treeBusy := rfl
@[simp] theorem eventReg_ring : (eventReg off f s).ring = s.ring := rfl
@[simp] theorem eventReg_cws : (eventReg off f s).cws = s.cws := rfl
@[simp] theorem eventReg_ringId : (eventReg off f s).ringId = s.ringId := rfl
@[simp] theorem eventReg_ringPos : (eventReg off f s).ringPos = s.ringPos := rfl
@[simp] theorem eventReg_ringSize : (eventReg off f s).ringSize = s.ringSize := rfl
@[simp] theorem eventReg_c2Role : (eventReg off f s).c2Role = s.c2Role := rfl
@[simp] theorem eventReg_tempo : (eventReg off f s).tempo = s.tempo := rfl
@[simp] theorem eventReg_snap : (eventReg off f s).snap = s.snap := rfl
@[simp] theorem eventReg_twin : (eventReg off f s).twin = s.twin := rfl
@[simp] theorem eventReg_heron : (eventReg off f s).heron = s.heron := rfl
@[simp] theorem eventReg_mbox : (eventReg off f s).mbox = s.mbox := rfl
@[simp] theorem eventReg_plant : (eventReg off f s).plant = s.plant := rfl
@[simp] theorem eventReg_queues : (eventReg off f s).queues = s.queues := rfl
@[simp] theorem eventReg_flash : (eventReg off f s).flash = s.flash := rfl
@[simp] theorem eventReg_flashNext : (eventReg off f s).flashNext = s.flashNext := rfl
@[simp] theorem eventReg_ranks : (eventReg off f s).ranks = s.ranks := rfl
@[simp] theorem eventReg_jobs : (eventReg off f s).jobs = s.jobs := rfl
@[simp] theorem eventReg_images : (eventReg off f s).images = s.images := rfl
@[simp] theorem eventReg_queries : (eventReg off f s).queries = s.queries := rfl
@[simp] theorem eventReg_out : (eventReg off f s).out = s.out := rfl
@[simp] theorem eventReg_free : (eventReg off f s).free = s.free := rfl

end

/-! ## clearRead -/

section

variable {off : Nat} {s : State}

@[simp] theorem clearRead_pending : (clearRead off s).pending = s.pending := by unfold clearRead; dsimp only; split <;> rfl
@[simp] theorem clearRead_now : (clearRead off s).now = s.now := by unfold clearRead; dsimp only; split <;> rfl
@[simp] theorem clearRead_ck : (clearRead off s).ck = s.ck := by unfold clearRead; dsimp only; split <;> rfl
@[simp] theorem clearRead_fens : (clearRead off s).fens = s.fens := by unfold clearRead; dsimp only; split <;> rfl
@[simp] theorem clearRead_shadow : (clearRead off s).shadow = s.shadow := by unfold clearRead; dsimp only; split <;> rfl
@[simp] theorem clearRead_pendSet : (clearRead off s).pendSet = s.pendSet := by unfold clearRead; dsimp only; split <;> rfl
@[simp] theorem clearRead_latch : (clearRead off s).latch = s.latch := by unfold clearRead; dsimp only; split <;> rfl
@[simp] theorem clearRead_staleSeen : (clearRead off s).staleSeen = s.staleSeen := by unfold clearRead; dsimp only; split <;> rfl
@[simp] theorem clearRead_lodeSample : (clearRead off s).lodeSample = s.lodeSample := by unfold clearRead; dsimp only; split <;> rfl
@[simp] theorem clearRead_objSample : (clearRead off s).objSample = s.objSample := by unfold clearRead; dsimp only; split <;> rfl
@[simp] theorem clearRead_objStage : (clearRead off s).objStage = s.objStage := by unfold clearRead; dsimp only; split <;> rfl
@[simp] theorem clearRead_objOp : (clearRead off s).objOp = s.objOp := by unfold clearRead; dsimp only; split <;> rfl
@[simp] theorem clearRead_log : (clearRead off s).log = s.log := by unfold clearRead; dsimp only; split <;> rfl
@[simp] theorem clearRead_service : (clearRead off s).service = s.service := by unfold clearRead; dsimp only; split <;> rfl
@[simp] theorem clearRead_spareMap : (clearRead off s).spareMap = s.spareMap := by unfold clearRead; dsimp only; split <;> rfl
@[simp] theorem clearRead_mapGen : (clearRead off s).mapGen = s.mapGen := by unfold clearRead; dsimp only; split <;> rfl
@[simp] theorem clearRead_spareFens : (clearRead off s).spareFens = s.spareFens := by unfold clearRead; dsimp only; split <;> rfl
@[simp] theorem clearRead_spareTree : (clearRead off s).spareTree = s.spareTree := by unfold clearRead; dsimp only; split <;> rfl
@[simp] theorem clearRead_spareCore : (clearRead off s).spareCore = s.spareCore := by unfold clearRead; dsimp only; split <;> rfl
@[simp] theorem clearRead_spareWay : (clearRead off s).spareWay = s.spareWay := by unfold clearRead; dsimp only; split <;> rfl
@[simp] theorem clearRead_spareTa : (clearRead off s).spareTa = s.spareTa := by unfold clearRead; dsimp only; split <;> rfl
@[simp] theorem clearRead_retiredWay : (clearRead off s).retiredWay = s.retiredWay := by unfold clearRead; dsimp only; split <;> rfl
@[simp] theorem clearRead_wayPending : (clearRead off s).wayPending = s.wayPending := by unfold clearRead; dsimp only; split <;> rfl
@[simp] theorem clearRead_tierA : (clearRead off s).tierA = s.tierA := by unfold clearRead; dsimp only; split <;> rfl
@[simp] theorem clearRead_tierB : (clearRead off s).tierB = s.tierB := by unfold clearRead; dsimp only; split <;> rfl
@[simp] theorem clearRead_cache : (clearRead off s).cache = s.cache := by unfold clearRead; dsimp only; split <;> rfl
@[simp] theorem clearRead_objs : (clearRead off s).objs = s.objs := by unfold clearRead; dsimp only; split <;> rfl
@[simp] theorem clearRead_lodes : (clearRead off s).lodes = s.lodes := by unfold clearRead; dsimp only; split <;> rfl
@[simp] theorem clearRead_arms : (clearRead off s).arms = s.arms := by unfold clearRead; dsimp only; split <;> rfl
@[simp] theorem clearRead_plans : (clearRead off s).plans = s.plans := by unfold clearRead; dsimp only; split <;> rfl
@[simp] theorem clearRead_loads : (clearRead off s).loads = s.loads := by unfold clearRead; dsimp only; split <;> rfl
@[simp] theorem clearRead_streams : (clearRead off s).streams = s.streams := by unfold clearRead; dsimp only; split <;> rfl
@[simp] theorem clearRead_streamJobs : (clearRead off s).streamJobs = s.streamJobs := by unfold clearRead; dsimp only; split <;> rfl
@[simp] theorem clearRead_moves : (clearRead off s).moves = s.moves := by unfold clearRead; dsimp only; split <;> rfl
@[simp] theorem clearRead_ports : (clearRead off s).ports = s.ports := by unfold clearRead; dsimp only; split <;> rfl
@[simp] theorem clearRead_decisions : (clearRead off s).decisions = s.decisions := by unfold clearRead; dsimp only; split <;> rfl
@[simp] theorem clearRead_selPending : (clearRead off s).selPending = s.selPending := by unfold clearRead; dsimp only; split <;> rfl
@[simp] theorem clearRead_carryTree : (clearRead off s).carryTree = s.carryTree := by unfold clearRead; dsimp only; split <;> rfl
@[simp] theorem clearRead_leaves : (clearRead off s).leaves = s.leaves := by unfold clearRead; dsimp only; split <;> rfl
@[simp] theorem clearRead_treeBusy : (clearRead off s).treeBusy = s.treeBusy := by unfold clearRead; dsimp only; split <;> rfl
@[simp] theorem clearRead_ring : (clearRead off s).ring = s.ring := by unfold clearRead; dsimp only; split <;> rfl
@[simp] theorem clearRead_cws : (clearRead off s).cws = s.cws := by unfold clearRead; dsimp only; split <;> rfl
@[simp] theorem clearRead_ringId : (clearRead off s).ringId = s.ringId := by unfold clearRead; dsimp only; split <;> rfl
@[simp] theorem clearRead_ringPos : (clearRead off s).ringPos = s.ringPos := by unfold clearRead; dsimp only; split <;> rfl
@[simp] theorem clearRead_ringSize : (clearRead off s).ringSize = s.ringSize := by unfold clearRead; dsimp only; split <;> rfl
@[simp] theorem clearRead_c2Role : (clearRead off s).c2Role = s.c2Role := by unfold clearRead; dsimp only; split <;> rfl
@[simp] theorem clearRead_tempo : (clearRead off s).tempo = s.tempo := by unfold clearRead; dsimp only; split <;> rfl
@[simp] theorem clearRead_snap : (clearRead off s).snap = s.snap := by unfold clearRead; dsimp only; split <;> rfl
@[simp] theorem clearRead_twin : (clearRead off s).twin = s.twin := by unfold clearRead; dsimp only; split <;> rfl
@[simp] theorem clearRead_heron : (clearRead off s).heron = s.heron := by unfold clearRead; dsimp only; split <;> rfl
@[simp] theorem clearRead_mbox : (clearRead off s).mbox = s.mbox := by unfold clearRead; dsimp only; split <;> rfl
@[simp] theorem clearRead_plant : (clearRead off s).plant = s.plant := by unfold clearRead; dsimp only; split <;> rfl
@[simp] theorem clearRead_queues : (clearRead off s).queues = s.queues := by unfold clearRead; dsimp only; split <;> rfl
@[simp] theorem clearRead_flash : (clearRead off s).flash = s.flash := by unfold clearRead; dsimp only; split <;> rfl
@[simp] theorem clearRead_flashNext : (clearRead off s).flashNext = s.flashNext := by unfold clearRead; dsimp only; split <;> rfl
@[simp] theorem clearRead_ranks : (clearRead off s).ranks = s.ranks := by unfold clearRead; dsimp only; split <;> rfl
@[simp] theorem clearRead_jobs : (clearRead off s).jobs = s.jobs := by unfold clearRead; dsimp only; split <;> rfl
@[simp] theorem clearRead_images : (clearRead off s).images = s.images := by unfold clearRead; dsimp only; split <;> rfl
@[simp] theorem clearRead_queries : (clearRead off s).queries = s.queries := by unfold clearRead; dsimp only; split <;> rfl
@[simp] theorem clearRead_out : (clearRead off s).out = s.out := by unfold clearRead; dsimp only; split <;> rfl
@[simp] theorem clearRead_free : (clearRead off s).free = s.free := by unfold clearRead; dsimp only; split <;> rfl

end

/-! ## orReg -/

section

variable {off : Nat} {v : Word} {s : State}

@[simp] theorem orReg_pending : (orReg off v s).pending = s.pending := rfl
@[simp] theorem orReg_now : (orReg off v s).now = s.now := rfl
@[simp] theorem orReg_ck : (orReg off v s).ck = s.ck := rfl
@[simp] theorem orReg_fens : (orReg off v s).fens = s.fens := rfl
@[simp] theorem orReg_shadow : (orReg off v s).shadow = s.shadow := rfl
@[simp] theorem orReg_pendSet : (orReg off v s).pendSet = s.pendSet := rfl
@[simp] theorem orReg_latch : (orReg off v s).latch = s.latch := rfl
@[simp] theorem orReg_staleSeen : (orReg off v s).staleSeen = s.staleSeen := rfl
@[simp] theorem orReg_lodeSample : (orReg off v s).lodeSample = s.lodeSample := rfl
@[simp] theorem orReg_objSample : (orReg off v s).objSample = s.objSample := rfl
@[simp] theorem orReg_objStage : (orReg off v s).objStage = s.objStage := rfl
@[simp] theorem orReg_objOp : (orReg off v s).objOp = s.objOp := rfl
@[simp] theorem orReg_log : (orReg off v s).log = s.log := rfl
@[simp] theorem orReg_service : (orReg off v s).service = s.service := rfl
@[simp] theorem orReg_spareMap : (orReg off v s).spareMap = s.spareMap := rfl
@[simp] theorem orReg_mapGen : (orReg off v s).mapGen = s.mapGen := rfl
@[simp] theorem orReg_spareFens : (orReg off v s).spareFens = s.spareFens := rfl
@[simp] theorem orReg_spareTree : (orReg off v s).spareTree = s.spareTree := rfl
@[simp] theorem orReg_spareCore : (orReg off v s).spareCore = s.spareCore := rfl
@[simp] theorem orReg_spareWay : (orReg off v s).spareWay = s.spareWay := rfl
@[simp] theorem orReg_spareTa : (orReg off v s).spareTa = s.spareTa := rfl
@[simp] theorem orReg_retiredWay : (orReg off v s).retiredWay = s.retiredWay := rfl
@[simp] theorem orReg_wayPending : (orReg off v s).wayPending = s.wayPending := rfl
@[simp] theorem orReg_tierA : (orReg off v s).tierA = s.tierA := rfl
@[simp] theorem orReg_tierB : (orReg off v s).tierB = s.tierB := rfl
@[simp] theorem orReg_cache : (orReg off v s).cache = s.cache := rfl
@[simp] theorem orReg_objs : (orReg off v s).objs = s.objs := rfl
@[simp] theorem orReg_lodes : (orReg off v s).lodes = s.lodes := rfl
@[simp] theorem orReg_arms : (orReg off v s).arms = s.arms := rfl
@[simp] theorem orReg_plans : (orReg off v s).plans = s.plans := rfl
@[simp] theorem orReg_loads : (orReg off v s).loads = s.loads := rfl
@[simp] theorem orReg_streams : (orReg off v s).streams = s.streams := rfl
@[simp] theorem orReg_streamJobs : (orReg off v s).streamJobs = s.streamJobs := rfl
@[simp] theorem orReg_moves : (orReg off v s).moves = s.moves := rfl
@[simp] theorem orReg_ports : (orReg off v s).ports = s.ports := rfl
@[simp] theorem orReg_decisions : (orReg off v s).decisions = s.decisions := rfl
@[simp] theorem orReg_selPending : (orReg off v s).selPending = s.selPending := rfl
@[simp] theorem orReg_carryTree : (orReg off v s).carryTree = s.carryTree := rfl
@[simp] theorem orReg_leaves : (orReg off v s).leaves = s.leaves := rfl
@[simp] theorem orReg_treeBusy : (orReg off v s).treeBusy = s.treeBusy := rfl
@[simp] theorem orReg_ring : (orReg off v s).ring = s.ring := rfl
@[simp] theorem orReg_cws : (orReg off v s).cws = s.cws := rfl
@[simp] theorem orReg_ringId : (orReg off v s).ringId = s.ringId := rfl
@[simp] theorem orReg_ringPos : (orReg off v s).ringPos = s.ringPos := rfl
@[simp] theorem orReg_ringSize : (orReg off v s).ringSize = s.ringSize := rfl
@[simp] theorem orReg_c2Role : (orReg off v s).c2Role = s.c2Role := rfl
@[simp] theorem orReg_tempo : (orReg off v s).tempo = s.tempo := rfl
@[simp] theorem orReg_snap : (orReg off v s).snap = s.snap := rfl
@[simp] theorem orReg_twin : (orReg off v s).twin = s.twin := rfl
@[simp] theorem orReg_heron : (orReg off v s).heron = s.heron := rfl
@[simp] theorem orReg_mbox : (orReg off v s).mbox = s.mbox := rfl
@[simp] theorem orReg_plant : (orReg off v s).plant = s.plant := rfl
@[simp] theorem orReg_queues : (orReg off v s).queues = s.queues := rfl
@[simp] theorem orReg_flash : (orReg off v s).flash = s.flash := rfl
@[simp] theorem orReg_flashNext : (orReg off v s).flashNext = s.flashNext := rfl
@[simp] theorem orReg_ranks : (orReg off v s).ranks = s.ranks := rfl
@[simp] theorem orReg_jobs : (orReg off v s).jobs = s.jobs := rfl
@[simp] theorem orReg_images : (orReg off v s).images = s.images := rfl
@[simp] theorem orReg_queries : (orReg off v s).queries = s.queries := rfl
@[simp] theorem orReg_out : (orReg off v s).out = s.out := rfl
@[simp] theorem orReg_free : (orReg off v s).free = s.free := rfl

end

/-! ## bump -/

section

variable {off n : Nat} {s : State}

@[simp] theorem bump_pending : (bump off n s).pending = s.pending := by unfold bump; split <;> rfl
@[simp] theorem bump_now : (bump off n s).now = s.now := by unfold bump; split <;> rfl
@[simp] theorem bump_ck : (bump off n s).ck = s.ck := by unfold bump; split <;> rfl
@[simp] theorem bump_fens : (bump off n s).fens = s.fens := by unfold bump; split <;> rfl
@[simp] theorem bump_shadow : (bump off n s).shadow = s.shadow := by unfold bump; split <;> rfl
@[simp] theorem bump_pendSet : (bump off n s).pendSet = s.pendSet := by unfold bump; split <;> rfl
@[simp] theorem bump_latch : (bump off n s).latch = s.latch := by unfold bump; split <;> rfl
@[simp] theorem bump_staleSeen : (bump off n s).staleSeen = s.staleSeen := by unfold bump; split <;> rfl
@[simp] theorem bump_lodeSample : (bump off n s).lodeSample = s.lodeSample := by unfold bump; split <;> rfl
@[simp] theorem bump_objSample : (bump off n s).objSample = s.objSample := by unfold bump; split <;> rfl
@[simp] theorem bump_objStage : (bump off n s).objStage = s.objStage := by unfold bump; split <;> rfl
@[simp] theorem bump_objOp : (bump off n s).objOp = s.objOp := by unfold bump; split <;> rfl
@[simp] theorem bump_log : (bump off n s).log = s.log := by unfold bump; split <;> rfl
@[simp] theorem bump_service : (bump off n s).service = s.service := by unfold bump; split <;> rfl
@[simp] theorem bump_spareMap : (bump off n s).spareMap = s.spareMap := by unfold bump; split <;> rfl
@[simp] theorem bump_mapGen : (bump off n s).mapGen = s.mapGen := by unfold bump; split <;> rfl
@[simp] theorem bump_spareFens : (bump off n s).spareFens = s.spareFens := by unfold bump; split <;> rfl
@[simp] theorem bump_spareTree : (bump off n s).spareTree = s.spareTree := by unfold bump; split <;> rfl
@[simp] theorem bump_spareCore : (bump off n s).spareCore = s.spareCore := by unfold bump; split <;> rfl
@[simp] theorem bump_spareWay : (bump off n s).spareWay = s.spareWay := by unfold bump; split <;> rfl
@[simp] theorem bump_spareTa : (bump off n s).spareTa = s.spareTa := by unfold bump; split <;> rfl
@[simp] theorem bump_retiredWay : (bump off n s).retiredWay = s.retiredWay := by unfold bump; split <;> rfl
@[simp] theorem bump_wayPending : (bump off n s).wayPending = s.wayPending := by unfold bump; split <;> rfl
@[simp] theorem bump_tierA : (bump off n s).tierA = s.tierA := by unfold bump; split <;> rfl
@[simp] theorem bump_tierB : (bump off n s).tierB = s.tierB := by unfold bump; split <;> rfl
@[simp] theorem bump_cache : (bump off n s).cache = s.cache := by unfold bump; split <;> rfl
@[simp] theorem bump_objs : (bump off n s).objs = s.objs := by unfold bump; split <;> rfl
@[simp] theorem bump_lodes : (bump off n s).lodes = s.lodes := by unfold bump; split <;> rfl
@[simp] theorem bump_arms : (bump off n s).arms = s.arms := by unfold bump; split <;> rfl
@[simp] theorem bump_plans : (bump off n s).plans = s.plans := by unfold bump; split <;> rfl
@[simp] theorem bump_loads : (bump off n s).loads = s.loads := by unfold bump; split <;> rfl
@[simp] theorem bump_streams : (bump off n s).streams = s.streams := by unfold bump; split <;> rfl
@[simp] theorem bump_streamJobs : (bump off n s).streamJobs = s.streamJobs := by unfold bump; split <;> rfl
@[simp] theorem bump_moves : (bump off n s).moves = s.moves := by unfold bump; split <;> rfl
@[simp] theorem bump_ports : (bump off n s).ports = s.ports := by unfold bump; split <;> rfl
@[simp] theorem bump_decisions : (bump off n s).decisions = s.decisions := by unfold bump; split <;> rfl
@[simp] theorem bump_selPending : (bump off n s).selPending = s.selPending := by unfold bump; split <;> rfl
@[simp] theorem bump_carryTree : (bump off n s).carryTree = s.carryTree := by unfold bump; split <;> rfl
@[simp] theorem bump_leaves : (bump off n s).leaves = s.leaves := by unfold bump; split <;> rfl
@[simp] theorem bump_treeBusy : (bump off n s).treeBusy = s.treeBusy := by unfold bump; split <;> rfl
@[simp] theorem bump_ring : (bump off n s).ring = s.ring := by unfold bump; split <;> rfl
@[simp] theorem bump_cws : (bump off n s).cws = s.cws := by unfold bump; split <;> rfl
@[simp] theorem bump_ringId : (bump off n s).ringId = s.ringId := by unfold bump; split <;> rfl
@[simp] theorem bump_ringPos : (bump off n s).ringPos = s.ringPos := by unfold bump; split <;> rfl
@[simp] theorem bump_ringSize : (bump off n s).ringSize = s.ringSize := by unfold bump; split <;> rfl
@[simp] theorem bump_c2Role : (bump off n s).c2Role = s.c2Role := by unfold bump; split <;> rfl
@[simp] theorem bump_tempo : (bump off n s).tempo = s.tempo := by unfold bump; split <;> rfl
@[simp] theorem bump_snap : (bump off n s).snap = s.snap := by unfold bump; split <;> rfl
@[simp] theorem bump_twin : (bump off n s).twin = s.twin := by unfold bump; split <;> rfl
@[simp] theorem bump_heron : (bump off n s).heron = s.heron := by unfold bump; split <;> rfl
@[simp] theorem bump_mbox : (bump off n s).mbox = s.mbox := by unfold bump; split <;> rfl
@[simp] theorem bump_plant : (bump off n s).plant = s.plant := by unfold bump; split <;> rfl
@[simp] theorem bump_queues : (bump off n s).queues = s.queues := by unfold bump; split <;> rfl
@[simp] theorem bump_flash : (bump off n s).flash = s.flash := by unfold bump; split <;> rfl
@[simp] theorem bump_flashNext : (bump off n s).flashNext = s.flashNext := by unfold bump; split <;> rfl
@[simp] theorem bump_ranks : (bump off n s).ranks = s.ranks := by unfold bump; split <;> rfl
@[simp] theorem bump_jobs : (bump off n s).jobs = s.jobs := by unfold bump; split <;> rfl
@[simp] theorem bump_images : (bump off n s).images = s.images := by unfold bump; split <;> rfl
@[simp] theorem bump_queries : (bump off n s).queries = s.queries := by unfold bump; split <;> rfl
@[simp] theorem bump_out : (bump off n s).out = s.out := by unfold bump; split <;> rfl
@[simp] theorem bump_free : (bump off n s).free = s.free := by unfold bump; split <;> rfl

end

/-! ## fenBump -/

section

variable {p o n : Nat} {s : State}

@[simp] theorem fenBump_pending : (fenBump p o n s).pending = s.pending := by unfold fenBump bump; split <;> rfl
@[simp] theorem fenBump_now : (fenBump p o n s).now = s.now := by unfold fenBump bump; split <;> rfl
@[simp] theorem fenBump_ck : (fenBump p o n s).ck = s.ck := by unfold fenBump bump; split <;> rfl
@[simp] theorem fenBump_fens : (fenBump p o n s).fens = s.fens := by unfold fenBump bump; split <;> rfl
@[simp] theorem fenBump_shadow : (fenBump p o n s).shadow = s.shadow := by unfold fenBump bump; split <;> rfl
@[simp] theorem fenBump_pendSet : (fenBump p o n s).pendSet = s.pendSet := by unfold fenBump bump; split <;> rfl
@[simp] theorem fenBump_latch : (fenBump p o n s).latch = s.latch := by unfold fenBump bump; split <;> rfl
@[simp] theorem fenBump_staleSeen : (fenBump p o n s).staleSeen = s.staleSeen := by unfold fenBump bump; split <;> rfl
@[simp] theorem fenBump_lodeSample : (fenBump p o n s).lodeSample = s.lodeSample := by unfold fenBump bump; split <;> rfl
@[simp] theorem fenBump_objSample : (fenBump p o n s).objSample = s.objSample := by unfold fenBump bump; split <;> rfl
@[simp] theorem fenBump_objStage : (fenBump p o n s).objStage = s.objStage := by unfold fenBump bump; split <;> rfl
@[simp] theorem fenBump_objOp : (fenBump p o n s).objOp = s.objOp := by unfold fenBump bump; split <;> rfl
@[simp] theorem fenBump_log : (fenBump p o n s).log = s.log := by unfold fenBump bump; split <;> rfl
@[simp] theorem fenBump_service : (fenBump p o n s).service = s.service := by unfold fenBump bump; split <;> rfl
@[simp] theorem fenBump_spareMap : (fenBump p o n s).spareMap = s.spareMap := by unfold fenBump bump; split <;> rfl
@[simp] theorem fenBump_mapGen : (fenBump p o n s).mapGen = s.mapGen := by unfold fenBump bump; split <;> rfl
@[simp] theorem fenBump_spareFens : (fenBump p o n s).spareFens = s.spareFens := by unfold fenBump bump; split <;> rfl
@[simp] theorem fenBump_spareTree : (fenBump p o n s).spareTree = s.spareTree := by unfold fenBump bump; split <;> rfl
@[simp] theorem fenBump_spareCore : (fenBump p o n s).spareCore = s.spareCore := by unfold fenBump bump; split <;> rfl
@[simp] theorem fenBump_spareWay : (fenBump p o n s).spareWay = s.spareWay := by unfold fenBump bump; split <;> rfl
@[simp] theorem fenBump_spareTa : (fenBump p o n s).spareTa = s.spareTa := by unfold fenBump bump; split <;> rfl
@[simp] theorem fenBump_retiredWay : (fenBump p o n s).retiredWay = s.retiredWay := by unfold fenBump bump; split <;> rfl
@[simp] theorem fenBump_wayPending : (fenBump p o n s).wayPending = s.wayPending := by unfold fenBump bump; split <;> rfl
@[simp] theorem fenBump_tierA : (fenBump p o n s).tierA = s.tierA := by unfold fenBump bump; split <;> rfl
@[simp] theorem fenBump_tierB : (fenBump p o n s).tierB = s.tierB := by unfold fenBump bump; split <;> rfl
@[simp] theorem fenBump_cache : (fenBump p o n s).cache = s.cache := by unfold fenBump bump; split <;> rfl
@[simp] theorem fenBump_objs : (fenBump p o n s).objs = s.objs := by unfold fenBump bump; split <;> rfl
@[simp] theorem fenBump_lodes : (fenBump p o n s).lodes = s.lodes := by unfold fenBump bump; split <;> rfl
@[simp] theorem fenBump_arms : (fenBump p o n s).arms = s.arms := by unfold fenBump bump; split <;> rfl
@[simp] theorem fenBump_plans : (fenBump p o n s).plans = s.plans := by unfold fenBump bump; split <;> rfl
@[simp] theorem fenBump_loads : (fenBump p o n s).loads = s.loads := by unfold fenBump bump; split <;> rfl
@[simp] theorem fenBump_streams : (fenBump p o n s).streams = s.streams := by unfold fenBump bump; split <;> rfl
@[simp] theorem fenBump_streamJobs : (fenBump p o n s).streamJobs = s.streamJobs := by unfold fenBump bump; split <;> rfl
@[simp] theorem fenBump_moves : (fenBump p o n s).moves = s.moves := by unfold fenBump bump; split <;> rfl
@[simp] theorem fenBump_ports : (fenBump p o n s).ports = s.ports := by unfold fenBump bump; split <;> rfl
@[simp] theorem fenBump_decisions : (fenBump p o n s).decisions = s.decisions := by unfold fenBump bump; split <;> rfl
@[simp] theorem fenBump_selPending : (fenBump p o n s).selPending = s.selPending := by unfold fenBump bump; split <;> rfl
@[simp] theorem fenBump_carryTree : (fenBump p o n s).carryTree = s.carryTree := by unfold fenBump bump; split <;> rfl
@[simp] theorem fenBump_leaves : (fenBump p o n s).leaves = s.leaves := by unfold fenBump bump; split <;> rfl
@[simp] theorem fenBump_treeBusy : (fenBump p o n s).treeBusy = s.treeBusy := by unfold fenBump bump; split <;> rfl
@[simp] theorem fenBump_ring : (fenBump p o n s).ring = s.ring := by unfold fenBump bump; split <;> rfl
@[simp] theorem fenBump_cws : (fenBump p o n s).cws = s.cws := by unfold fenBump bump; split <;> rfl
@[simp] theorem fenBump_ringId : (fenBump p o n s).ringId = s.ringId := by unfold fenBump bump; split <;> rfl
@[simp] theorem fenBump_ringPos : (fenBump p o n s).ringPos = s.ringPos := by unfold fenBump bump; split <;> rfl
@[simp] theorem fenBump_ringSize : (fenBump p o n s).ringSize = s.ringSize := by unfold fenBump bump; split <;> rfl
@[simp] theorem fenBump_c2Role : (fenBump p o n s).c2Role = s.c2Role := by unfold fenBump bump; split <;> rfl
@[simp] theorem fenBump_tempo : (fenBump p o n s).tempo = s.tempo := by unfold fenBump bump; split <;> rfl
@[simp] theorem fenBump_snap : (fenBump p o n s).snap = s.snap := by unfold fenBump bump; split <;> rfl
@[simp] theorem fenBump_twin : (fenBump p o n s).twin = s.twin := by unfold fenBump bump; split <;> rfl
@[simp] theorem fenBump_heron : (fenBump p o n s).heron = s.heron := by unfold fenBump bump; split <;> rfl
@[simp] theorem fenBump_mbox : (fenBump p o n s).mbox = s.mbox := by unfold fenBump bump; split <;> rfl
@[simp] theorem fenBump_plant : (fenBump p o n s).plant = s.plant := by unfold fenBump bump; split <;> rfl
@[simp] theorem fenBump_queues : (fenBump p o n s).queues = s.queues := by unfold fenBump bump; split <;> rfl
@[simp] theorem fenBump_flash : (fenBump p o n s).flash = s.flash := by unfold fenBump bump; split <;> rfl
@[simp] theorem fenBump_flashNext : (fenBump p o n s).flashNext = s.flashNext := by unfold fenBump bump; split <;> rfl
@[simp] theorem fenBump_ranks : (fenBump p o n s).ranks = s.ranks := by unfold fenBump bump; split <;> rfl
@[simp] theorem fenBump_jobs : (fenBump p o n s).jobs = s.jobs := by unfold fenBump bump; split <;> rfl
@[simp] theorem fenBump_images : (fenBump p o n s).images = s.images := by unfold fenBump bump; split <;> rfl
@[simp] theorem fenBump_queries : (fenBump p o n s).queries = s.queries := by unfold fenBump bump; split <;> rfl
@[simp] theorem fenBump_out : (fenBump p o n s).out = s.out := by unfold fenBump bump; split <;> rfl
@[simp] theorem fenBump_free : (fenBump p o n s).free = s.free := by unfold fenBump bump; split <;> rfl

end

/-! ## countEv -/

section

variable {p : Nat} {e : NumEv} {s : State}

@[simp] theorem countEv_pending : (countEv p e s).pending = s.pending := by simp [countEv]
@[simp] theorem countEv_now : (countEv p e s).now = s.now := by simp [countEv]
@[simp] theorem countEv_ck : (countEv p e s).ck = s.ck := by simp [countEv]
@[simp] theorem countEv_fens : (countEv p e s).fens = s.fens := by simp [countEv]
@[simp] theorem countEv_shadow : (countEv p e s).shadow = s.shadow := by simp [countEv]
@[simp] theorem countEv_pendSet : (countEv p e s).pendSet = s.pendSet := by simp [countEv]
@[simp] theorem countEv_latch : (countEv p e s).latch = s.latch := by simp [countEv]
@[simp] theorem countEv_staleSeen : (countEv p e s).staleSeen = s.staleSeen := by simp [countEv]
@[simp] theorem countEv_lodeSample : (countEv p e s).lodeSample = s.lodeSample := by simp [countEv]
@[simp] theorem countEv_objSample : (countEv p e s).objSample = s.objSample := by simp [countEv]
@[simp] theorem countEv_objStage : (countEv p e s).objStage = s.objStage := by simp [countEv]
@[simp] theorem countEv_objOp : (countEv p e s).objOp = s.objOp := by simp [countEv]
@[simp] theorem countEv_log : (countEv p e s).log = s.log := by simp [countEv]
@[simp] theorem countEv_service : (countEv p e s).service = s.service := by simp [countEv]
@[simp] theorem countEv_spareMap : (countEv p e s).spareMap = s.spareMap := by simp [countEv]
@[simp] theorem countEv_mapGen : (countEv p e s).mapGen = s.mapGen := by simp [countEv]
@[simp] theorem countEv_spareFens : (countEv p e s).spareFens = s.spareFens := by simp [countEv]
@[simp] theorem countEv_spareTree : (countEv p e s).spareTree = s.spareTree := by simp [countEv]
@[simp] theorem countEv_spareCore : (countEv p e s).spareCore = s.spareCore := by simp [countEv]
@[simp] theorem countEv_spareWay : (countEv p e s).spareWay = s.spareWay := by simp [countEv]
@[simp] theorem countEv_spareTa : (countEv p e s).spareTa = s.spareTa := by simp [countEv]
@[simp] theorem countEv_retiredWay : (countEv p e s).retiredWay = s.retiredWay := by simp [countEv]
@[simp] theorem countEv_wayPending : (countEv p e s).wayPending = s.wayPending := by simp [countEv]
@[simp] theorem countEv_tierA : (countEv p e s).tierA = s.tierA := by simp [countEv]
@[simp] theorem countEv_tierB : (countEv p e s).tierB = s.tierB := by simp [countEv]
@[simp] theorem countEv_cache : (countEv p e s).cache = s.cache := by simp [countEv]
@[simp] theorem countEv_objs : (countEv p e s).objs = s.objs := by simp [countEv]
@[simp] theorem countEv_lodes : (countEv p e s).lodes = s.lodes := by simp [countEv]
@[simp] theorem countEv_arms : (countEv p e s).arms = s.arms := by simp [countEv]
@[simp] theorem countEv_plans : (countEv p e s).plans = s.plans := by simp [countEv]
@[simp] theorem countEv_loads : (countEv p e s).loads = s.loads := by simp [countEv]
@[simp] theorem countEv_streams : (countEv p e s).streams = s.streams := by simp [countEv]
@[simp] theorem countEv_streamJobs : (countEv p e s).streamJobs = s.streamJobs := by simp [countEv]
@[simp] theorem countEv_moves : (countEv p e s).moves = s.moves := by simp [countEv]
@[simp] theorem countEv_ports : (countEv p e s).ports = s.ports := by simp [countEv]
@[simp] theorem countEv_decisions : (countEv p e s).decisions = s.decisions := by simp [countEv]
@[simp] theorem countEv_selPending : (countEv p e s).selPending = s.selPending := by simp [countEv]
@[simp] theorem countEv_carryTree : (countEv p e s).carryTree = s.carryTree := by simp [countEv]
@[simp] theorem countEv_leaves : (countEv p e s).leaves = s.leaves := by simp [countEv]
@[simp] theorem countEv_treeBusy : (countEv p e s).treeBusy = s.treeBusy := by simp [countEv]
@[simp] theorem countEv_ring : (countEv p e s).ring = s.ring := by simp [countEv]
@[simp] theorem countEv_cws : (countEv p e s).cws = s.cws := by simp [countEv]
@[simp] theorem countEv_ringId : (countEv p e s).ringId = s.ringId := by simp [countEv]
@[simp] theorem countEv_ringPos : (countEv p e s).ringPos = s.ringPos := by simp [countEv]
@[simp] theorem countEv_ringSize : (countEv p e s).ringSize = s.ringSize := by simp [countEv]
@[simp] theorem countEv_c2Role : (countEv p e s).c2Role = s.c2Role := by simp [countEv]
@[simp] theorem countEv_tempo : (countEv p e s).tempo = s.tempo := by simp [countEv]
@[simp] theorem countEv_snap : (countEv p e s).snap = s.snap := by simp [countEv]
@[simp] theorem countEv_twin : (countEv p e s).twin = s.twin := by simp [countEv]
@[simp] theorem countEv_heron : (countEv p e s).heron = s.heron := by simp [countEv]
@[simp] theorem countEv_mbox : (countEv p e s).mbox = s.mbox := by simp [countEv]
@[simp] theorem countEv_plant : (countEv p e s).plant = s.plant := by simp [countEv]
@[simp] theorem countEv_queues : (countEv p e s).queues = s.queues := by simp [countEv]
@[simp] theorem countEv_flash : (countEv p e s).flash = s.flash := by simp [countEv]
@[simp] theorem countEv_flashNext : (countEv p e s).flashNext = s.flashNext := by simp [countEv]
@[simp] theorem countEv_ranks : (countEv p e s).ranks = s.ranks := by simp [countEv]
@[simp] theorem countEv_jobs : (countEv p e s).jobs = s.jobs := by simp [countEv]
@[simp] theorem countEv_images : (countEv p e s).images = s.images := by simp [countEv]
@[simp] theorem countEv_queries : (countEv p e s).queries = s.queries := by simp [countEv]
@[simp] theorem countEv_out : (countEv p e s).out = s.out := by simp [countEv]
@[simp] theorem countEv_free : (countEv p e s).free = s.free := by simp [countEv]

end

/-! ## emit -/

section

variable {o : Out} {s : State}

@[simp] theorem emit_pending : (emit o s).pending = s.pending := rfl
@[simp] theorem emit_now : (emit o s).now = s.now := rfl
@[simp] theorem emit_ck : (emit o s).ck = s.ck := rfl
@[simp] theorem emit_fens : (emit o s).fens = s.fens := rfl
@[simp] theorem emit_regs : (emit o s).regs = s.regs := rfl
@[simp] theorem emit_events : (emit o s).events = s.events := rfl
@[simp] theorem emit_shadow : (emit o s).shadow = s.shadow := rfl
@[simp] theorem emit_pendSet : (emit o s).pendSet = s.pendSet := rfl
@[simp] theorem emit_latch : (emit o s).latch = s.latch := rfl
@[simp] theorem emit_staleSeen : (emit o s).staleSeen = s.staleSeen := rfl
@[simp] theorem emit_lodeSample : (emit o s).lodeSample = s.lodeSample := rfl
@[simp] theorem emit_objSample : (emit o s).objSample = s.objSample := rfl
@[simp] theorem emit_objStage : (emit o s).objStage = s.objStage := rfl
@[simp] theorem emit_objOp : (emit o s).objOp = s.objOp := rfl
@[simp] theorem emit_log : (emit o s).log = s.log := rfl
@[simp] theorem emit_service : (emit o s).service = s.service := rfl
@[simp] theorem emit_spareMap : (emit o s).spareMap = s.spareMap := rfl
@[simp] theorem emit_mapGen : (emit o s).mapGen = s.mapGen := rfl
@[simp] theorem emit_spareFens : (emit o s).spareFens = s.spareFens := rfl
@[simp] theorem emit_spareTree : (emit o s).spareTree = s.spareTree := rfl
@[simp] theorem emit_spareCore : (emit o s).spareCore = s.spareCore := rfl
@[simp] theorem emit_spareWay : (emit o s).spareWay = s.spareWay := rfl
@[simp] theorem emit_spareTa : (emit o s).spareTa = s.spareTa := rfl
@[simp] theorem emit_retiredWay : (emit o s).retiredWay = s.retiredWay := rfl
@[simp] theorem emit_wayPending : (emit o s).wayPending = s.wayPending := rfl
@[simp] theorem emit_tierA : (emit o s).tierA = s.tierA := rfl
@[simp] theorem emit_tierB : (emit o s).tierB = s.tierB := rfl
@[simp] theorem emit_cache : (emit o s).cache = s.cache := rfl
@[simp] theorem emit_objs : (emit o s).objs = s.objs := rfl
@[simp] theorem emit_lodes : (emit o s).lodes = s.lodes := rfl
@[simp] theorem emit_arms : (emit o s).arms = s.arms := rfl
@[simp] theorem emit_plans : (emit o s).plans = s.plans := rfl
@[simp] theorem emit_loads : (emit o s).loads = s.loads := rfl
@[simp] theorem emit_streams : (emit o s).streams = s.streams := rfl
@[simp] theorem emit_streamJobs : (emit o s).streamJobs = s.streamJobs := rfl
@[simp] theorem emit_moves : (emit o s).moves = s.moves := rfl
@[simp] theorem emit_ports : (emit o s).ports = s.ports := rfl
@[simp] theorem emit_decisions : (emit o s).decisions = s.decisions := rfl
@[simp] theorem emit_selPending : (emit o s).selPending = s.selPending := rfl
@[simp] theorem emit_carryTree : (emit o s).carryTree = s.carryTree := rfl
@[simp] theorem emit_leaves : (emit o s).leaves = s.leaves := rfl
@[simp] theorem emit_treeBusy : (emit o s).treeBusy = s.treeBusy := rfl
@[simp] theorem emit_ring : (emit o s).ring = s.ring := rfl
@[simp] theorem emit_cws : (emit o s).cws = s.cws := rfl
@[simp] theorem emit_ringId : (emit o s).ringId = s.ringId := rfl
@[simp] theorem emit_ringPos : (emit o s).ringPos = s.ringPos := rfl
@[simp] theorem emit_ringSize : (emit o s).ringSize = s.ringSize := rfl
@[simp] theorem emit_c2Role : (emit o s).c2Role = s.c2Role := rfl
@[simp] theorem emit_tempo : (emit o s).tempo = s.tempo := rfl
@[simp] theorem emit_snap : (emit o s).snap = s.snap := rfl
@[simp] theorem emit_twin : (emit o s).twin = s.twin := rfl
@[simp] theorem emit_heron : (emit o s).heron = s.heron := rfl
@[simp] theorem emit_mbox : (emit o s).mbox = s.mbox := rfl
@[simp] theorem emit_plant : (emit o s).plant = s.plant := rfl
@[simp] theorem emit_queues : (emit o s).queues = s.queues := rfl
@[simp] theorem emit_flash : (emit o s).flash = s.flash := rfl
@[simp] theorem emit_flashNext : (emit o s).flashNext = s.flashNext := rfl
@[simp] theorem emit_ranks : (emit o s).ranks = s.ranks := rfl
@[simp] theorem emit_jobs : (emit o s).jobs = s.jobs := rfl
@[simp] theorem emit_images : (emit o s).images = s.images := rfl
@[simp] theorem emit_queries : (emit o s).queries = s.queries := rfl
@[simp] theorem emit_free : (emit o s).free = s.free := rfl

end

/-! ## putFen -/

section

variable {p : Nat} {f : Fen} {s : State}

@[simp] theorem putFen_pending : (putFen p f s).pending = s.pending := rfl
@[simp] theorem putFen_now : (putFen p f s).now = s.now := rfl
@[simp] theorem putFen_ck : (putFen p f s).ck = s.ck := rfl
@[simp] theorem putFen_regs : (putFen p f s).regs = s.regs := rfl
@[simp] theorem putFen_events : (putFen p f s).events = s.events := rfl
@[simp] theorem putFen_shadow : (putFen p f s).shadow = s.shadow := rfl
@[simp] theorem putFen_pendSet : (putFen p f s).pendSet = s.pendSet := rfl
@[simp] theorem putFen_latch : (putFen p f s).latch = s.latch := rfl
@[simp] theorem putFen_staleSeen : (putFen p f s).staleSeen = s.staleSeen := rfl
@[simp] theorem putFen_lodeSample : (putFen p f s).lodeSample = s.lodeSample := rfl
@[simp] theorem putFen_objSample : (putFen p f s).objSample = s.objSample := rfl
@[simp] theorem putFen_objStage : (putFen p f s).objStage = s.objStage := rfl
@[simp] theorem putFen_objOp : (putFen p f s).objOp = s.objOp := rfl
@[simp] theorem putFen_log : (putFen p f s).log = s.log := rfl
@[simp] theorem putFen_service : (putFen p f s).service = s.service := rfl
@[simp] theorem putFen_spareMap : (putFen p f s).spareMap = s.spareMap := rfl
@[simp] theorem putFen_mapGen : (putFen p f s).mapGen = s.mapGen := rfl
@[simp] theorem putFen_spareFens : (putFen p f s).spareFens = s.spareFens := rfl
@[simp] theorem putFen_spareTree : (putFen p f s).spareTree = s.spareTree := rfl
@[simp] theorem putFen_spareCore : (putFen p f s).spareCore = s.spareCore := rfl
@[simp] theorem putFen_spareWay : (putFen p f s).spareWay = s.spareWay := rfl
@[simp] theorem putFen_spareTa : (putFen p f s).spareTa = s.spareTa := rfl
@[simp] theorem putFen_retiredWay : (putFen p f s).retiredWay = s.retiredWay := rfl
@[simp] theorem putFen_wayPending : (putFen p f s).wayPending = s.wayPending := rfl
@[simp] theorem putFen_tierA : (putFen p f s).tierA = s.tierA := rfl
@[simp] theorem putFen_tierB : (putFen p f s).tierB = s.tierB := rfl
@[simp] theorem putFen_cache : (putFen p f s).cache = s.cache := rfl
@[simp] theorem putFen_objs : (putFen p f s).objs = s.objs := rfl
@[simp] theorem putFen_lodes : (putFen p f s).lodes = s.lodes := rfl
@[simp] theorem putFen_arms : (putFen p f s).arms = s.arms := rfl
@[simp] theorem putFen_plans : (putFen p f s).plans = s.plans := rfl
@[simp] theorem putFen_loads : (putFen p f s).loads = s.loads := rfl
@[simp] theorem putFen_streams : (putFen p f s).streams = s.streams := rfl
@[simp] theorem putFen_streamJobs : (putFen p f s).streamJobs = s.streamJobs := rfl
@[simp] theorem putFen_moves : (putFen p f s).moves = s.moves := rfl
@[simp] theorem putFen_ports : (putFen p f s).ports = s.ports := rfl
@[simp] theorem putFen_decisions : (putFen p f s).decisions = s.decisions := rfl
@[simp] theorem putFen_selPending : (putFen p f s).selPending = s.selPending := rfl
@[simp] theorem putFen_carryTree : (putFen p f s).carryTree = s.carryTree := rfl
@[simp] theorem putFen_leaves : (putFen p f s).leaves = s.leaves := rfl
@[simp] theorem putFen_treeBusy : (putFen p f s).treeBusy = s.treeBusy := rfl
@[simp] theorem putFen_ring : (putFen p f s).ring = s.ring := rfl
@[simp] theorem putFen_cws : (putFen p f s).cws = s.cws := rfl
@[simp] theorem putFen_ringId : (putFen p f s).ringId = s.ringId := rfl
@[simp] theorem putFen_ringPos : (putFen p f s).ringPos = s.ringPos := rfl
@[simp] theorem putFen_ringSize : (putFen p f s).ringSize = s.ringSize := rfl
@[simp] theorem putFen_c2Role : (putFen p f s).c2Role = s.c2Role := rfl
@[simp] theorem putFen_tempo : (putFen p f s).tempo = s.tempo := rfl
@[simp] theorem putFen_snap : (putFen p f s).snap = s.snap := rfl
@[simp] theorem putFen_twin : (putFen p f s).twin = s.twin := rfl
@[simp] theorem putFen_heron : (putFen p f s).heron = s.heron := rfl
@[simp] theorem putFen_mbox : (putFen p f s).mbox = s.mbox := rfl
@[simp] theorem putFen_plant : (putFen p f s).plant = s.plant := rfl
@[simp] theorem putFen_queues : (putFen p f s).queues = s.queues := rfl
@[simp] theorem putFen_flash : (putFen p f s).flash = s.flash := rfl
@[simp] theorem putFen_flashNext : (putFen p f s).flashNext = s.flashNext := rfl
@[simp] theorem putFen_ranks : (putFen p f s).ranks = s.ranks := rfl
@[simp] theorem putFen_jobs : (putFen p f s).jobs = s.jobs := rfl
@[simp] theorem putFen_images : (putFen p f s).images = s.images := rfl
@[simp] theorem putFen_queries : (putFen p f s).queries = s.queries := rfl
@[simp] theorem putFen_out : (putFen p f s).out = s.out := rfl
@[simp] theorem putFen_free : (putFen p f s).free = s.free := rfl

end

/-! ## modFen -/

section

variable {p : Nat} {g : Fen → Fen} {s : State}

@[simp] theorem modFen_pending : (modFen p g s).pending = s.pending := rfl
@[simp] theorem modFen_now : (modFen p g s).now = s.now := rfl
@[simp] theorem modFen_ck : (modFen p g s).ck = s.ck := rfl
@[simp] theorem modFen_regs : (modFen p g s).regs = s.regs := rfl
@[simp] theorem modFen_events : (modFen p g s).events = s.events := rfl
@[simp] theorem modFen_shadow : (modFen p g s).shadow = s.shadow := rfl
@[simp] theorem modFen_pendSet : (modFen p g s).pendSet = s.pendSet := rfl
@[simp] theorem modFen_latch : (modFen p g s).latch = s.latch := rfl
@[simp] theorem modFen_staleSeen : (modFen p g s).staleSeen = s.staleSeen := rfl
@[simp] theorem modFen_lodeSample : (modFen p g s).lodeSample = s.lodeSample := rfl
@[simp] theorem modFen_objSample : (modFen p g s).objSample = s.objSample := rfl
@[simp] theorem modFen_objStage : (modFen p g s).objStage = s.objStage := rfl
@[simp] theorem modFen_objOp : (modFen p g s).objOp = s.objOp := rfl
@[simp] theorem modFen_log : (modFen p g s).log = s.log := rfl
@[simp] theorem modFen_service : (modFen p g s).service = s.service := rfl
@[simp] theorem modFen_spareMap : (modFen p g s).spareMap = s.spareMap := rfl
@[simp] theorem modFen_mapGen : (modFen p g s).mapGen = s.mapGen := rfl
@[simp] theorem modFen_spareFens : (modFen p g s).spareFens = s.spareFens := rfl
@[simp] theorem modFen_spareTree : (modFen p g s).spareTree = s.spareTree := rfl
@[simp] theorem modFen_spareCore : (modFen p g s).spareCore = s.spareCore := rfl
@[simp] theorem modFen_spareWay : (modFen p g s).spareWay = s.spareWay := rfl
@[simp] theorem modFen_spareTa : (modFen p g s).spareTa = s.spareTa := rfl
@[simp] theorem modFen_retiredWay : (modFen p g s).retiredWay = s.retiredWay := rfl
@[simp] theorem modFen_wayPending : (modFen p g s).wayPending = s.wayPending := rfl
@[simp] theorem modFen_tierA : (modFen p g s).tierA = s.tierA := rfl
@[simp] theorem modFen_tierB : (modFen p g s).tierB = s.tierB := rfl
@[simp] theorem modFen_cache : (modFen p g s).cache = s.cache := rfl
@[simp] theorem modFen_objs : (modFen p g s).objs = s.objs := rfl
@[simp] theorem modFen_lodes : (modFen p g s).lodes = s.lodes := rfl
@[simp] theorem modFen_arms : (modFen p g s).arms = s.arms := rfl
@[simp] theorem modFen_plans : (modFen p g s).plans = s.plans := rfl
@[simp] theorem modFen_loads : (modFen p g s).loads = s.loads := rfl
@[simp] theorem modFen_streams : (modFen p g s).streams = s.streams := rfl
@[simp] theorem modFen_streamJobs : (modFen p g s).streamJobs = s.streamJobs := rfl
@[simp] theorem modFen_moves : (modFen p g s).moves = s.moves := rfl
@[simp] theorem modFen_ports : (modFen p g s).ports = s.ports := rfl
@[simp] theorem modFen_decisions : (modFen p g s).decisions = s.decisions := rfl
@[simp] theorem modFen_selPending : (modFen p g s).selPending = s.selPending := rfl
@[simp] theorem modFen_carryTree : (modFen p g s).carryTree = s.carryTree := rfl
@[simp] theorem modFen_leaves : (modFen p g s).leaves = s.leaves := rfl
@[simp] theorem modFen_treeBusy : (modFen p g s).treeBusy = s.treeBusy := rfl
@[simp] theorem modFen_ring : (modFen p g s).ring = s.ring := rfl
@[simp] theorem modFen_cws : (modFen p g s).cws = s.cws := rfl
@[simp] theorem modFen_ringId : (modFen p g s).ringId = s.ringId := rfl
@[simp] theorem modFen_ringPos : (modFen p g s).ringPos = s.ringPos := rfl
@[simp] theorem modFen_ringSize : (modFen p g s).ringSize = s.ringSize := rfl
@[simp] theorem modFen_c2Role : (modFen p g s).c2Role = s.c2Role := rfl
@[simp] theorem modFen_tempo : (modFen p g s).tempo = s.tempo := rfl
@[simp] theorem modFen_snap : (modFen p g s).snap = s.snap := rfl
@[simp] theorem modFen_twin : (modFen p g s).twin = s.twin := rfl
@[simp] theorem modFen_heron : (modFen p g s).heron = s.heron := rfl
@[simp] theorem modFen_mbox : (modFen p g s).mbox = s.mbox := rfl
@[simp] theorem modFen_plant : (modFen p g s).plant = s.plant := rfl
@[simp] theorem modFen_queues : (modFen p g s).queues = s.queues := rfl
@[simp] theorem modFen_flash : (modFen p g s).flash = s.flash := rfl
@[simp] theorem modFen_flashNext : (modFen p g s).flashNext = s.flashNext := rfl
@[simp] theorem modFen_ranks : (modFen p g s).ranks = s.ranks := rfl
@[simp] theorem modFen_jobs : (modFen p g s).jobs = s.jobs := rfl
@[simp] theorem modFen_images : (modFen p g s).images = s.images := rfl
@[simp] theorem modFen_queries : (modFen p g s).queries = s.queries := rfl
@[simp] theorem modFen_out : (modFen p g s).out = s.out := rfl
@[simp] theorem modFen_free : (modFen p g s).free = s.free := rfl

end

/-! ## modCw -/

section

variable {c : Nat} {g : Causeway → Causeway} {s : State}

@[simp] theorem modCw_pending : (modCw c g s).pending = s.pending := rfl
@[simp] theorem modCw_now : (modCw c g s).now = s.now := rfl
@[simp] theorem modCw_ck : (modCw c g s).ck = s.ck := rfl
@[simp] theorem modCw_fens : (modCw c g s).fens = s.fens := rfl
@[simp] theorem modCw_regs : (modCw c g s).regs = s.regs := rfl
@[simp] theorem modCw_events : (modCw c g s).events = s.events := rfl
@[simp] theorem modCw_shadow : (modCw c g s).shadow = s.shadow := rfl
@[simp] theorem modCw_pendSet : (modCw c g s).pendSet = s.pendSet := rfl
@[simp] theorem modCw_latch : (modCw c g s).latch = s.latch := rfl
@[simp] theorem modCw_staleSeen : (modCw c g s).staleSeen = s.staleSeen := rfl
@[simp] theorem modCw_lodeSample : (modCw c g s).lodeSample = s.lodeSample := rfl
@[simp] theorem modCw_objSample : (modCw c g s).objSample = s.objSample := rfl
@[simp] theorem modCw_objStage : (modCw c g s).objStage = s.objStage := rfl
@[simp] theorem modCw_objOp : (modCw c g s).objOp = s.objOp := rfl
@[simp] theorem modCw_log : (modCw c g s).log = s.log := rfl
@[simp] theorem modCw_service : (modCw c g s).service = s.service := rfl
@[simp] theorem modCw_spareMap : (modCw c g s).spareMap = s.spareMap := rfl
@[simp] theorem modCw_mapGen : (modCw c g s).mapGen = s.mapGen := rfl
@[simp] theorem modCw_spareFens : (modCw c g s).spareFens = s.spareFens := rfl
@[simp] theorem modCw_spareTree : (modCw c g s).spareTree = s.spareTree := rfl
@[simp] theorem modCw_spareCore : (modCw c g s).spareCore = s.spareCore := rfl
@[simp] theorem modCw_spareWay : (modCw c g s).spareWay = s.spareWay := rfl
@[simp] theorem modCw_spareTa : (modCw c g s).spareTa = s.spareTa := rfl
@[simp] theorem modCw_retiredWay : (modCw c g s).retiredWay = s.retiredWay := rfl
@[simp] theorem modCw_wayPending : (modCw c g s).wayPending = s.wayPending := rfl
@[simp] theorem modCw_tierA : (modCw c g s).tierA = s.tierA := rfl
@[simp] theorem modCw_tierB : (modCw c g s).tierB = s.tierB := rfl
@[simp] theorem modCw_cache : (modCw c g s).cache = s.cache := rfl
@[simp] theorem modCw_objs : (modCw c g s).objs = s.objs := rfl
@[simp] theorem modCw_lodes : (modCw c g s).lodes = s.lodes := rfl
@[simp] theorem modCw_arms : (modCw c g s).arms = s.arms := rfl
@[simp] theorem modCw_plans : (modCw c g s).plans = s.plans := rfl
@[simp] theorem modCw_loads : (modCw c g s).loads = s.loads := rfl
@[simp] theorem modCw_streams : (modCw c g s).streams = s.streams := rfl
@[simp] theorem modCw_streamJobs : (modCw c g s).streamJobs = s.streamJobs := rfl
@[simp] theorem modCw_moves : (modCw c g s).moves = s.moves := rfl
@[simp] theorem modCw_ports : (modCw c g s).ports = s.ports := rfl
@[simp] theorem modCw_decisions : (modCw c g s).decisions = s.decisions := rfl
@[simp] theorem modCw_selPending : (modCw c g s).selPending = s.selPending := rfl
@[simp] theorem modCw_carryTree : (modCw c g s).carryTree = s.carryTree := rfl
@[simp] theorem modCw_leaves : (modCw c g s).leaves = s.leaves := rfl
@[simp] theorem modCw_treeBusy : (modCw c g s).treeBusy = s.treeBusy := rfl
@[simp] theorem modCw_ring : (modCw c g s).ring = s.ring := rfl
@[simp] theorem modCw_ringId : (modCw c g s).ringId = s.ringId := rfl
@[simp] theorem modCw_ringPos : (modCw c g s).ringPos = s.ringPos := rfl
@[simp] theorem modCw_ringSize : (modCw c g s).ringSize = s.ringSize := rfl
@[simp] theorem modCw_c2Role : (modCw c g s).c2Role = s.c2Role := rfl
@[simp] theorem modCw_tempo : (modCw c g s).tempo = s.tempo := rfl
@[simp] theorem modCw_snap : (modCw c g s).snap = s.snap := rfl
@[simp] theorem modCw_twin : (modCw c g s).twin = s.twin := rfl
@[simp] theorem modCw_heron : (modCw c g s).heron = s.heron := rfl
@[simp] theorem modCw_mbox : (modCw c g s).mbox = s.mbox := rfl
@[simp] theorem modCw_plant : (modCw c g s).plant = s.plant := rfl
@[simp] theorem modCw_queues : (modCw c g s).queues = s.queues := rfl
@[simp] theorem modCw_flash : (modCw c g s).flash = s.flash := rfl
@[simp] theorem modCw_flashNext : (modCw c g s).flashNext = s.flashNext := rfl
@[simp] theorem modCw_ranks : (modCw c g s).ranks = s.ranks := rfl
@[simp] theorem modCw_jobs : (modCw c g s).jobs = s.jobs := rfl
@[simp] theorem modCw_images : (modCw c g s).images = s.images := rfl
@[simp] theorem modCw_queries : (modCw c g s).queries = s.queries := rfl
@[simp] theorem modCw_out : (modCw c g s).out = s.out := rfl
@[simp] theorem modCw_free : (modCw c g s).free = s.free := rfl

end

/-! ## modPlant -/

section

variable {g : Plant → Plant} {s : State}

@[simp] theorem modPlant_pending : (modPlant g s).pending = s.pending := rfl
@[simp] theorem modPlant_now : (modPlant g s).now = s.now := rfl
@[simp] theorem modPlant_ck : (modPlant g s).ck = s.ck := rfl
@[simp] theorem modPlant_fens : (modPlant g s).fens = s.fens := rfl
@[simp] theorem modPlant_regs : (modPlant g s).regs = s.regs := rfl
@[simp] theorem modPlant_events : (modPlant g s).events = s.events := rfl
@[simp] theorem modPlant_shadow : (modPlant g s).shadow = s.shadow := rfl
@[simp] theorem modPlant_pendSet : (modPlant g s).pendSet = s.pendSet := rfl
@[simp] theorem modPlant_latch : (modPlant g s).latch = s.latch := rfl
@[simp] theorem modPlant_staleSeen : (modPlant g s).staleSeen = s.staleSeen := rfl
@[simp] theorem modPlant_lodeSample : (modPlant g s).lodeSample = s.lodeSample := rfl
@[simp] theorem modPlant_objSample : (modPlant g s).objSample = s.objSample := rfl
@[simp] theorem modPlant_objStage : (modPlant g s).objStage = s.objStage := rfl
@[simp] theorem modPlant_objOp : (modPlant g s).objOp = s.objOp := rfl
@[simp] theorem modPlant_log : (modPlant g s).log = s.log := rfl
@[simp] theorem modPlant_service : (modPlant g s).service = s.service := rfl
@[simp] theorem modPlant_spareMap : (modPlant g s).spareMap = s.spareMap := rfl
@[simp] theorem modPlant_mapGen : (modPlant g s).mapGen = s.mapGen := rfl
@[simp] theorem modPlant_spareFens : (modPlant g s).spareFens = s.spareFens := rfl
@[simp] theorem modPlant_spareTree : (modPlant g s).spareTree = s.spareTree := rfl
@[simp] theorem modPlant_spareCore : (modPlant g s).spareCore = s.spareCore := rfl
@[simp] theorem modPlant_spareWay : (modPlant g s).spareWay = s.spareWay := rfl
@[simp] theorem modPlant_spareTa : (modPlant g s).spareTa = s.spareTa := rfl
@[simp] theorem modPlant_retiredWay : (modPlant g s).retiredWay = s.retiredWay := rfl
@[simp] theorem modPlant_wayPending : (modPlant g s).wayPending = s.wayPending := rfl
@[simp] theorem modPlant_tierA : (modPlant g s).tierA = s.tierA := rfl
@[simp] theorem modPlant_tierB : (modPlant g s).tierB = s.tierB := rfl
@[simp] theorem modPlant_cache : (modPlant g s).cache = s.cache := rfl
@[simp] theorem modPlant_objs : (modPlant g s).objs = s.objs := rfl
@[simp] theorem modPlant_lodes : (modPlant g s).lodes = s.lodes := rfl
@[simp] theorem modPlant_arms : (modPlant g s).arms = s.arms := rfl
@[simp] theorem modPlant_plans : (modPlant g s).plans = s.plans := rfl
@[simp] theorem modPlant_loads : (modPlant g s).loads = s.loads := rfl
@[simp] theorem modPlant_streams : (modPlant g s).streams = s.streams := rfl
@[simp] theorem modPlant_streamJobs : (modPlant g s).streamJobs = s.streamJobs := rfl
@[simp] theorem modPlant_moves : (modPlant g s).moves = s.moves := rfl
@[simp] theorem modPlant_ports : (modPlant g s).ports = s.ports := rfl
@[simp] theorem modPlant_decisions : (modPlant g s).decisions = s.decisions := rfl
@[simp] theorem modPlant_selPending : (modPlant g s).selPending = s.selPending := rfl
@[simp] theorem modPlant_carryTree : (modPlant g s).carryTree = s.carryTree := rfl
@[simp] theorem modPlant_leaves : (modPlant g s).leaves = s.leaves := rfl
@[simp] theorem modPlant_treeBusy : (modPlant g s).treeBusy = s.treeBusy := rfl
@[simp] theorem modPlant_ring : (modPlant g s).ring = s.ring := rfl
@[simp] theorem modPlant_cws : (modPlant g s).cws = s.cws := rfl
@[simp] theorem modPlant_ringId : (modPlant g s).ringId = s.ringId := rfl
@[simp] theorem modPlant_ringPos : (modPlant g s).ringPos = s.ringPos := rfl
@[simp] theorem modPlant_ringSize : (modPlant g s).ringSize = s.ringSize := rfl
@[simp] theorem modPlant_c2Role : (modPlant g s).c2Role = s.c2Role := rfl
@[simp] theorem modPlant_tempo : (modPlant g s).tempo = s.tempo := rfl
@[simp] theorem modPlant_snap : (modPlant g s).snap = s.snap := rfl
@[simp] theorem modPlant_twin : (modPlant g s).twin = s.twin := rfl
@[simp] theorem modPlant_heron : (modPlant g s).heron = s.heron := rfl
@[simp] theorem modPlant_mbox : (modPlant g s).mbox = s.mbox := rfl
@[simp] theorem modPlant_queues : (modPlant g s).queues = s.queues := rfl
@[simp] theorem modPlant_flash : (modPlant g s).flash = s.flash := rfl
@[simp] theorem modPlant_flashNext : (modPlant g s).flashNext = s.flashNext := rfl
@[simp] theorem modPlant_ranks : (modPlant g s).ranks = s.ranks := rfl
@[simp] theorem modPlant_jobs : (modPlant g s).jobs = s.jobs := rfl
@[simp] theorem modPlant_images : (modPlant g s).images = s.images := rfl
@[simp] theorem modPlant_queries : (modPlant g s).queries = s.queries := rfl
@[simp] theorem modPlant_out : (modPlant g s).out = s.out := rfl
@[simp] theorem modPlant_free : (modPlant g s).free = s.free := rfl

end

/-! ## modTempo -/

section

variable {g : Tempo → Tempo} {s : State}

@[simp] theorem modTempo_pending : (modTempo g s).pending = s.pending := rfl
@[simp] theorem modTempo_now : (modTempo g s).now = s.now := rfl
@[simp] theorem modTempo_ck : (modTempo g s).ck = s.ck := rfl
@[simp] theorem modTempo_fens : (modTempo g s).fens = s.fens := rfl
@[simp] theorem modTempo_regs : (modTempo g s).regs = s.regs := rfl
@[simp] theorem modTempo_events : (modTempo g s).events = s.events := rfl
@[simp] theorem modTempo_shadow : (modTempo g s).shadow = s.shadow := rfl
@[simp] theorem modTempo_pendSet : (modTempo g s).pendSet = s.pendSet := rfl
@[simp] theorem modTempo_latch : (modTempo g s).latch = s.latch := rfl
@[simp] theorem modTempo_staleSeen : (modTempo g s).staleSeen = s.staleSeen := rfl
@[simp] theorem modTempo_lodeSample : (modTempo g s).lodeSample = s.lodeSample := rfl
@[simp] theorem modTempo_objSample : (modTempo g s).objSample = s.objSample := rfl
@[simp] theorem modTempo_objStage : (modTempo g s).objStage = s.objStage := rfl
@[simp] theorem modTempo_objOp : (modTempo g s).objOp = s.objOp := rfl
@[simp] theorem modTempo_log : (modTempo g s).log = s.log := rfl
@[simp] theorem modTempo_service : (modTempo g s).service = s.service := rfl
@[simp] theorem modTempo_spareMap : (modTempo g s).spareMap = s.spareMap := rfl
@[simp] theorem modTempo_mapGen : (modTempo g s).mapGen = s.mapGen := rfl
@[simp] theorem modTempo_spareFens : (modTempo g s).spareFens = s.spareFens := rfl
@[simp] theorem modTempo_spareTree : (modTempo g s).spareTree = s.spareTree := rfl
@[simp] theorem modTempo_spareCore : (modTempo g s).spareCore = s.spareCore := rfl
@[simp] theorem modTempo_spareWay : (modTempo g s).spareWay = s.spareWay := rfl
@[simp] theorem modTempo_spareTa : (modTempo g s).spareTa = s.spareTa := rfl
@[simp] theorem modTempo_retiredWay : (modTempo g s).retiredWay = s.retiredWay := rfl
@[simp] theorem modTempo_wayPending : (modTempo g s).wayPending = s.wayPending := rfl
@[simp] theorem modTempo_tierA : (modTempo g s).tierA = s.tierA := rfl
@[simp] theorem modTempo_tierB : (modTempo g s).tierB = s.tierB := rfl
@[simp] theorem modTempo_cache : (modTempo g s).cache = s.cache := rfl
@[simp] theorem modTempo_objs : (modTempo g s).objs = s.objs := rfl
@[simp] theorem modTempo_lodes : (modTempo g s).lodes = s.lodes := rfl
@[simp] theorem modTempo_arms : (modTempo g s).arms = s.arms := rfl
@[simp] theorem modTempo_plans : (modTempo g s).plans = s.plans := rfl
@[simp] theorem modTempo_loads : (modTempo g s).loads = s.loads := rfl
@[simp] theorem modTempo_streams : (modTempo g s).streams = s.streams := rfl
@[simp] theorem modTempo_streamJobs : (modTempo g s).streamJobs = s.streamJobs := rfl
@[simp] theorem modTempo_moves : (modTempo g s).moves = s.moves := rfl
@[simp] theorem modTempo_ports : (modTempo g s).ports = s.ports := rfl
@[simp] theorem modTempo_decisions : (modTempo g s).decisions = s.decisions := rfl
@[simp] theorem modTempo_selPending : (modTempo g s).selPending = s.selPending := rfl
@[simp] theorem modTempo_carryTree : (modTempo g s).carryTree = s.carryTree := rfl
@[simp] theorem modTempo_leaves : (modTempo g s).leaves = s.leaves := rfl
@[simp] theorem modTempo_treeBusy : (modTempo g s).treeBusy = s.treeBusy := rfl
@[simp] theorem modTempo_ring : (modTempo g s).ring = s.ring := rfl
@[simp] theorem modTempo_cws : (modTempo g s).cws = s.cws := rfl
@[simp] theorem modTempo_ringId : (modTempo g s).ringId = s.ringId := rfl
@[simp] theorem modTempo_ringPos : (modTempo g s).ringPos = s.ringPos := rfl
@[simp] theorem modTempo_ringSize : (modTempo g s).ringSize = s.ringSize := rfl
@[simp] theorem modTempo_c2Role : (modTempo g s).c2Role = s.c2Role := rfl
@[simp] theorem modTempo_snap : (modTempo g s).snap = s.snap := rfl
@[simp] theorem modTempo_twin : (modTempo g s).twin = s.twin := rfl
@[simp] theorem modTempo_heron : (modTempo g s).heron = s.heron := rfl
@[simp] theorem modTempo_mbox : (modTempo g s).mbox = s.mbox := rfl
@[simp] theorem modTempo_plant : (modTempo g s).plant = s.plant := rfl
@[simp] theorem modTempo_queues : (modTempo g s).queues = s.queues := rfl
@[simp] theorem modTempo_flash : (modTempo g s).flash = s.flash := rfl
@[simp] theorem modTempo_flashNext : (modTempo g s).flashNext = s.flashNext := rfl
@[simp] theorem modTempo_ranks : (modTempo g s).ranks = s.ranks := rfl
@[simp] theorem modTempo_jobs : (modTempo g s).jobs = s.jobs := rfl
@[simp] theorem modTempo_images : (modTempo g s).images = s.images := rfl
@[simp] theorem modTempo_queries : (modTempo g s).queries = s.queries := rfl
@[simp] theorem modTempo_out : (modTempo g s).out = s.out := rfl
@[simp] theorem modTempo_free : (modTempo g s).free = s.free := rfl

end

/-! ## modLode -/

section

variable {l : Nat} {g : Lode → Lode} {s : State}

@[simp] theorem modLode_pending : (modLode l g s).pending = s.pending := rfl
@[simp] theorem modLode_now : (modLode l g s).now = s.now := rfl
@[simp] theorem modLode_ck : (modLode l g s).ck = s.ck := rfl
@[simp] theorem modLode_fens : (modLode l g s).fens = s.fens := rfl
@[simp] theorem modLode_regs : (modLode l g s).regs = s.regs := rfl
@[simp] theorem modLode_events : (modLode l g s).events = s.events := rfl
@[simp] theorem modLode_shadow : (modLode l g s).shadow = s.shadow := rfl
@[simp] theorem modLode_pendSet : (modLode l g s).pendSet = s.pendSet := rfl
@[simp] theorem modLode_latch : (modLode l g s).latch = s.latch := rfl
@[simp] theorem modLode_staleSeen : (modLode l g s).staleSeen = s.staleSeen := rfl
@[simp] theorem modLode_lodeSample : (modLode l g s).lodeSample = s.lodeSample := rfl
@[simp] theorem modLode_objSample : (modLode l g s).objSample = s.objSample := rfl
@[simp] theorem modLode_objStage : (modLode l g s).objStage = s.objStage := rfl
@[simp] theorem modLode_objOp : (modLode l g s).objOp = s.objOp := rfl
@[simp] theorem modLode_log : (modLode l g s).log = s.log := rfl
@[simp] theorem modLode_service : (modLode l g s).service = s.service := rfl
@[simp] theorem modLode_spareMap : (modLode l g s).spareMap = s.spareMap := rfl
@[simp] theorem modLode_mapGen : (modLode l g s).mapGen = s.mapGen := rfl
@[simp] theorem modLode_spareFens : (modLode l g s).spareFens = s.spareFens := rfl
@[simp] theorem modLode_spareTree : (modLode l g s).spareTree = s.spareTree := rfl
@[simp] theorem modLode_spareCore : (modLode l g s).spareCore = s.spareCore := rfl
@[simp] theorem modLode_spareWay : (modLode l g s).spareWay = s.spareWay := rfl
@[simp] theorem modLode_spareTa : (modLode l g s).spareTa = s.spareTa := rfl
@[simp] theorem modLode_retiredWay : (modLode l g s).retiredWay = s.retiredWay := rfl
@[simp] theorem modLode_wayPending : (modLode l g s).wayPending = s.wayPending := rfl
@[simp] theorem modLode_tierA : (modLode l g s).tierA = s.tierA := rfl
@[simp] theorem modLode_tierB : (modLode l g s).tierB = s.tierB := rfl
@[simp] theorem modLode_cache : (modLode l g s).cache = s.cache := rfl
@[simp] theorem modLode_objs : (modLode l g s).objs = s.objs := rfl
@[simp] theorem modLode_arms : (modLode l g s).arms = s.arms := rfl
@[simp] theorem modLode_plans : (modLode l g s).plans = s.plans := rfl
@[simp] theorem modLode_loads : (modLode l g s).loads = s.loads := rfl
@[simp] theorem modLode_streams : (modLode l g s).streams = s.streams := rfl
@[simp] theorem modLode_streamJobs : (modLode l g s).streamJobs = s.streamJobs := rfl
@[simp] theorem modLode_moves : (modLode l g s).moves = s.moves := rfl
@[simp] theorem modLode_ports : (modLode l g s).ports = s.ports := rfl
@[simp] theorem modLode_decisions : (modLode l g s).decisions = s.decisions := rfl
@[simp] theorem modLode_selPending : (modLode l g s).selPending = s.selPending := rfl
@[simp] theorem modLode_carryTree : (modLode l g s).carryTree = s.carryTree := rfl
@[simp] theorem modLode_leaves : (modLode l g s).leaves = s.leaves := rfl
@[simp] theorem modLode_treeBusy : (modLode l g s).treeBusy = s.treeBusy := rfl
@[simp] theorem modLode_ring : (modLode l g s).ring = s.ring := rfl
@[simp] theorem modLode_cws : (modLode l g s).cws = s.cws := rfl
@[simp] theorem modLode_ringId : (modLode l g s).ringId = s.ringId := rfl
@[simp] theorem modLode_ringPos : (modLode l g s).ringPos = s.ringPos := rfl
@[simp] theorem modLode_ringSize : (modLode l g s).ringSize = s.ringSize := rfl
@[simp] theorem modLode_c2Role : (modLode l g s).c2Role = s.c2Role := rfl
@[simp] theorem modLode_tempo : (modLode l g s).tempo = s.tempo := rfl
@[simp] theorem modLode_snap : (modLode l g s).snap = s.snap := rfl
@[simp] theorem modLode_twin : (modLode l g s).twin = s.twin := rfl
@[simp] theorem modLode_heron : (modLode l g s).heron = s.heron := rfl
@[simp] theorem modLode_mbox : (modLode l g s).mbox = s.mbox := rfl
@[simp] theorem modLode_plant : (modLode l g s).plant = s.plant := rfl
@[simp] theorem modLode_queues : (modLode l g s).queues = s.queues := rfl
@[simp] theorem modLode_flash : (modLode l g s).flash = s.flash := rfl
@[simp] theorem modLode_flashNext : (modLode l g s).flashNext = s.flashNext := rfl
@[simp] theorem modLode_ranks : (modLode l g s).ranks = s.ranks := rfl
@[simp] theorem modLode_jobs : (modLode l g s).jobs = s.jobs := rfl
@[simp] theorem modLode_images : (modLode l g s).images = s.images := rfl
@[simp] theorem modLode_queries : (modLode l g s).queries = s.queries := rfl
@[simp] theorem modLode_out : (modLode l g s).out = s.out := rfl
@[simp] theorem modLode_free : (modLode l g s).free = s.free := rfl

end

/-! ## modObj -/

section

variable {o : Nat} {g : Obj → Obj} {s : State}

@[simp] theorem modObj_pending : (modObj o g s).pending = s.pending := rfl
@[simp] theorem modObj_now : (modObj o g s).now = s.now := rfl
@[simp] theorem modObj_ck : (modObj o g s).ck = s.ck := rfl
@[simp] theorem modObj_fens : (modObj o g s).fens = s.fens := rfl
@[simp] theorem modObj_regs : (modObj o g s).regs = s.regs := rfl
@[simp] theorem modObj_events : (modObj o g s).events = s.events := rfl
@[simp] theorem modObj_shadow : (modObj o g s).shadow = s.shadow := rfl
@[simp] theorem modObj_pendSet : (modObj o g s).pendSet = s.pendSet := rfl
@[simp] theorem modObj_latch : (modObj o g s).latch = s.latch := rfl
@[simp] theorem modObj_staleSeen : (modObj o g s).staleSeen = s.staleSeen := rfl
@[simp] theorem modObj_lodeSample : (modObj o g s).lodeSample = s.lodeSample := rfl
@[simp] theorem modObj_objSample : (modObj o g s).objSample = s.objSample := rfl
@[simp] theorem modObj_objStage : (modObj o g s).objStage = s.objStage := rfl
@[simp] theorem modObj_objOp : (modObj o g s).objOp = s.objOp := rfl
@[simp] theorem modObj_log : (modObj o g s).log = s.log := rfl
@[simp] theorem modObj_service : (modObj o g s).service = s.service := rfl
@[simp] theorem modObj_spareMap : (modObj o g s).spareMap = s.spareMap := rfl
@[simp] theorem modObj_mapGen : (modObj o g s).mapGen = s.mapGen := rfl
@[simp] theorem modObj_spareFens : (modObj o g s).spareFens = s.spareFens := rfl
@[simp] theorem modObj_spareTree : (modObj o g s).spareTree = s.spareTree := rfl
@[simp] theorem modObj_spareCore : (modObj o g s).spareCore = s.spareCore := rfl
@[simp] theorem modObj_spareWay : (modObj o g s).spareWay = s.spareWay := rfl
@[simp] theorem modObj_spareTa : (modObj o g s).spareTa = s.spareTa := rfl
@[simp] theorem modObj_retiredWay : (modObj o g s).retiredWay = s.retiredWay := rfl
@[simp] theorem modObj_wayPending : (modObj o g s).wayPending = s.wayPending := rfl
@[simp] theorem modObj_tierA : (modObj o g s).tierA = s.tierA := rfl
@[simp] theorem modObj_tierB : (modObj o g s).tierB = s.tierB := rfl
@[simp] theorem modObj_cache : (modObj o g s).cache = s.cache := rfl
@[simp] theorem modObj_lodes : (modObj o g s).lodes = s.lodes := rfl
@[simp] theorem modObj_arms : (modObj o g s).arms = s.arms := rfl
@[simp] theorem modObj_plans : (modObj o g s).plans = s.plans := rfl
@[simp] theorem modObj_loads : (modObj o g s).loads = s.loads := rfl
@[simp] theorem modObj_streams : (modObj o g s).streams = s.streams := rfl
@[simp] theorem modObj_streamJobs : (modObj o g s).streamJobs = s.streamJobs := rfl
@[simp] theorem modObj_moves : (modObj o g s).moves = s.moves := rfl
@[simp] theorem modObj_ports : (modObj o g s).ports = s.ports := rfl
@[simp] theorem modObj_decisions : (modObj o g s).decisions = s.decisions := rfl
@[simp] theorem modObj_selPending : (modObj o g s).selPending = s.selPending := rfl
@[simp] theorem modObj_carryTree : (modObj o g s).carryTree = s.carryTree := rfl
@[simp] theorem modObj_leaves : (modObj o g s).leaves = s.leaves := rfl
@[simp] theorem modObj_treeBusy : (modObj o g s).treeBusy = s.treeBusy := rfl
@[simp] theorem modObj_ring : (modObj o g s).ring = s.ring := rfl
@[simp] theorem modObj_cws : (modObj o g s).cws = s.cws := rfl
@[simp] theorem modObj_ringId : (modObj o g s).ringId = s.ringId := rfl
@[simp] theorem modObj_ringPos : (modObj o g s).ringPos = s.ringPos := rfl
@[simp] theorem modObj_ringSize : (modObj o g s).ringSize = s.ringSize := rfl
@[simp] theorem modObj_c2Role : (modObj o g s).c2Role = s.c2Role := rfl
@[simp] theorem modObj_tempo : (modObj o g s).tempo = s.tempo := rfl
@[simp] theorem modObj_snap : (modObj o g s).snap = s.snap := rfl
@[simp] theorem modObj_twin : (modObj o g s).twin = s.twin := rfl
@[simp] theorem modObj_heron : (modObj o g s).heron = s.heron := rfl
@[simp] theorem modObj_mbox : (modObj o g s).mbox = s.mbox := rfl
@[simp] theorem modObj_plant : (modObj o g s).plant = s.plant := rfl
@[simp] theorem modObj_queues : (modObj o g s).queues = s.queues := rfl
@[simp] theorem modObj_flash : (modObj o g s).flash = s.flash := rfl
@[simp] theorem modObj_flashNext : (modObj o g s).flashNext = s.flashNext := rfl
@[simp] theorem modObj_ranks : (modObj o g s).ranks = s.ranks := rfl
@[simp] theorem modObj_jobs : (modObj o g s).jobs = s.jobs := rfl
@[simp] theorem modObj_images : (modObj o g s).images = s.images := rfl
@[simp] theorem modObj_queries : (modObj o g s).queries = s.queries := rfl
@[simp] theorem modObj_out : (modObj o g s).out = s.out := rfl
@[simp] theorem modObj_free : (modObj o g s).free = s.free := rfl

end

/-! ## modStream -/

section

variable {k : Nat} {g : Stream → Stream} {s : State}

@[simp] theorem modStream_pending : (modStream k g s).pending = s.pending := rfl
@[simp] theorem modStream_now : (modStream k g s).now = s.now := rfl
@[simp] theorem modStream_ck : (modStream k g s).ck = s.ck := rfl
@[simp] theorem modStream_fens : (modStream k g s).fens = s.fens := rfl
@[simp] theorem modStream_regs : (modStream k g s).regs = s.regs := rfl
@[simp] theorem modStream_events : (modStream k g s).events = s.events := rfl
@[simp] theorem modStream_shadow : (modStream k g s).shadow = s.shadow := rfl
@[simp] theorem modStream_pendSet : (modStream k g s).pendSet = s.pendSet := rfl
@[simp] theorem modStream_latch : (modStream k g s).latch = s.latch := rfl
@[simp] theorem modStream_staleSeen : (modStream k g s).staleSeen = s.staleSeen := rfl
@[simp] theorem modStream_lodeSample : (modStream k g s).lodeSample = s.lodeSample := rfl
@[simp] theorem modStream_objSample : (modStream k g s).objSample = s.objSample := rfl
@[simp] theorem modStream_objStage : (modStream k g s).objStage = s.objStage := rfl
@[simp] theorem modStream_objOp : (modStream k g s).objOp = s.objOp := rfl
@[simp] theorem modStream_log : (modStream k g s).log = s.log := rfl
@[simp] theorem modStream_service : (modStream k g s).service = s.service := rfl
@[simp] theorem modStream_spareMap : (modStream k g s).spareMap = s.spareMap := rfl
@[simp] theorem modStream_mapGen : (modStream k g s).mapGen = s.mapGen := rfl
@[simp] theorem modStream_spareFens : (modStream k g s).spareFens = s.spareFens := rfl
@[simp] theorem modStream_spareTree : (modStream k g s).spareTree = s.spareTree := rfl
@[simp] theorem modStream_spareCore : (modStream k g s).spareCore = s.spareCore := rfl
@[simp] theorem modStream_spareWay : (modStream k g s).spareWay = s.spareWay := rfl
@[simp] theorem modStream_spareTa : (modStream k g s).spareTa = s.spareTa := rfl
@[simp] theorem modStream_retiredWay : (modStream k g s).retiredWay = s.retiredWay := rfl
@[simp] theorem modStream_wayPending : (modStream k g s).wayPending = s.wayPending := rfl
@[simp] theorem modStream_tierA : (modStream k g s).tierA = s.tierA := rfl
@[simp] theorem modStream_tierB : (modStream k g s).tierB = s.tierB := rfl
@[simp] theorem modStream_cache : (modStream k g s).cache = s.cache := rfl
@[simp] theorem modStream_objs : (modStream k g s).objs = s.objs := rfl
@[simp] theorem modStream_lodes : (modStream k g s).lodes = s.lodes := rfl
@[simp] theorem modStream_arms : (modStream k g s).arms = s.arms := rfl
@[simp] theorem modStream_plans : (modStream k g s).plans = s.plans := rfl
@[simp] theorem modStream_loads : (modStream k g s).loads = s.loads := rfl
@[simp] theorem modStream_streamJobs : (modStream k g s).streamJobs = s.streamJobs := rfl
@[simp] theorem modStream_moves : (modStream k g s).moves = s.moves := rfl
@[simp] theorem modStream_ports : (modStream k g s).ports = s.ports := rfl
@[simp] theorem modStream_decisions : (modStream k g s).decisions = s.decisions := rfl
@[simp] theorem modStream_selPending : (modStream k g s).selPending = s.selPending := rfl
@[simp] theorem modStream_carryTree : (modStream k g s).carryTree = s.carryTree := rfl
@[simp] theorem modStream_leaves : (modStream k g s).leaves = s.leaves := rfl
@[simp] theorem modStream_treeBusy : (modStream k g s).treeBusy = s.treeBusy := rfl
@[simp] theorem modStream_ring : (modStream k g s).ring = s.ring := rfl
@[simp] theorem modStream_cws : (modStream k g s).cws = s.cws := rfl
@[simp] theorem modStream_ringId : (modStream k g s).ringId = s.ringId := rfl
@[simp] theorem modStream_ringPos : (modStream k g s).ringPos = s.ringPos := rfl
@[simp] theorem modStream_ringSize : (modStream k g s).ringSize = s.ringSize := rfl
@[simp] theorem modStream_c2Role : (modStream k g s).c2Role = s.c2Role := rfl
@[simp] theorem modStream_tempo : (modStream k g s).tempo = s.tempo := rfl
@[simp] theorem modStream_snap : (modStream k g s).snap = s.snap := rfl
@[simp] theorem modStream_twin : (modStream k g s).twin = s.twin := rfl
@[simp] theorem modStream_heron : (modStream k g s).heron = s.heron := rfl
@[simp] theorem modStream_mbox : (modStream k g s).mbox = s.mbox := rfl
@[simp] theorem modStream_plant : (modStream k g s).plant = s.plant := rfl
@[simp] theorem modStream_queues : (modStream k g s).queues = s.queues := rfl
@[simp] theorem modStream_flash : (modStream k g s).flash = s.flash := rfl
@[simp] theorem modStream_flashNext : (modStream k g s).flashNext = s.flashNext := rfl
@[simp] theorem modStream_ranks : (modStream k g s).ranks = s.ranks := rfl
@[simp] theorem modStream_jobs : (modStream k g s).jobs = s.jobs := rfl
@[simp] theorem modStream_images : (modStream k g s).images = s.images := rfl
@[simp] theorem modStream_queries : (modStream k g s).queries = s.queries := rfl
@[simp] theorem modStream_out : (modStream k g s).out = s.out := rfl
@[simp] theorem modStream_free : (modStream k g s).free = s.free := rfl

end

/-! ## putPlan -/

section

variable {k : Nat} {a : Option Plan} {s : State}

@[simp] theorem putPlan_pending : (putPlan k a s).pending = s.pending := rfl
@[simp] theorem putPlan_now : (putPlan k a s).now = s.now := rfl
@[simp] theorem putPlan_ck : (putPlan k a s).ck = s.ck := rfl
@[simp] theorem putPlan_fens : (putPlan k a s).fens = s.fens := rfl
@[simp] theorem putPlan_regs : (putPlan k a s).regs = s.regs := rfl
@[simp] theorem putPlan_events : (putPlan k a s).events = s.events := rfl
@[simp] theorem putPlan_shadow : (putPlan k a s).shadow = s.shadow := rfl
@[simp] theorem putPlan_pendSet : (putPlan k a s).pendSet = s.pendSet := rfl
@[simp] theorem putPlan_latch : (putPlan k a s).latch = s.latch := rfl
@[simp] theorem putPlan_staleSeen : (putPlan k a s).staleSeen = s.staleSeen := rfl
@[simp] theorem putPlan_lodeSample : (putPlan k a s).lodeSample = s.lodeSample := rfl
@[simp] theorem putPlan_objSample : (putPlan k a s).objSample = s.objSample := rfl
@[simp] theorem putPlan_objStage : (putPlan k a s).objStage = s.objStage := rfl
@[simp] theorem putPlan_objOp : (putPlan k a s).objOp = s.objOp := rfl
@[simp] theorem putPlan_log : (putPlan k a s).log = s.log := rfl
@[simp] theorem putPlan_service : (putPlan k a s).service = s.service := rfl
@[simp] theorem putPlan_spareMap : (putPlan k a s).spareMap = s.spareMap := rfl
@[simp] theorem putPlan_mapGen : (putPlan k a s).mapGen = s.mapGen := rfl
@[simp] theorem putPlan_spareFens : (putPlan k a s).spareFens = s.spareFens := rfl
@[simp] theorem putPlan_spareTree : (putPlan k a s).spareTree = s.spareTree := rfl
@[simp] theorem putPlan_spareCore : (putPlan k a s).spareCore = s.spareCore := rfl
@[simp] theorem putPlan_spareWay : (putPlan k a s).spareWay = s.spareWay := rfl
@[simp] theorem putPlan_spareTa : (putPlan k a s).spareTa = s.spareTa := rfl
@[simp] theorem putPlan_retiredWay : (putPlan k a s).retiredWay = s.retiredWay := rfl
@[simp] theorem putPlan_wayPending : (putPlan k a s).wayPending = s.wayPending := rfl
@[simp] theorem putPlan_tierA : (putPlan k a s).tierA = s.tierA := rfl
@[simp] theorem putPlan_tierB : (putPlan k a s).tierB = s.tierB := rfl
@[simp] theorem putPlan_cache : (putPlan k a s).cache = s.cache := rfl
@[simp] theorem putPlan_objs : (putPlan k a s).objs = s.objs := rfl
@[simp] theorem putPlan_lodes : (putPlan k a s).lodes = s.lodes := rfl
@[simp] theorem putPlan_arms : (putPlan k a s).arms = s.arms := rfl
@[simp] theorem putPlan_loads : (putPlan k a s).loads = s.loads := rfl
@[simp] theorem putPlan_streams : (putPlan k a s).streams = s.streams := rfl
@[simp] theorem putPlan_streamJobs : (putPlan k a s).streamJobs = s.streamJobs := rfl
@[simp] theorem putPlan_moves : (putPlan k a s).moves = s.moves := rfl
@[simp] theorem putPlan_ports : (putPlan k a s).ports = s.ports := rfl
@[simp] theorem putPlan_decisions : (putPlan k a s).decisions = s.decisions := rfl
@[simp] theorem putPlan_selPending : (putPlan k a s).selPending = s.selPending := rfl
@[simp] theorem putPlan_carryTree : (putPlan k a s).carryTree = s.carryTree := rfl
@[simp] theorem putPlan_leaves : (putPlan k a s).leaves = s.leaves := rfl
@[simp] theorem putPlan_treeBusy : (putPlan k a s).treeBusy = s.treeBusy := rfl
@[simp] theorem putPlan_ring : (putPlan k a s).ring = s.ring := rfl
@[simp] theorem putPlan_cws : (putPlan k a s).cws = s.cws := rfl
@[simp] theorem putPlan_ringId : (putPlan k a s).ringId = s.ringId := rfl
@[simp] theorem putPlan_ringPos : (putPlan k a s).ringPos = s.ringPos := rfl
@[simp] theorem putPlan_ringSize : (putPlan k a s).ringSize = s.ringSize := rfl
@[simp] theorem putPlan_c2Role : (putPlan k a s).c2Role = s.c2Role := rfl
@[simp] theorem putPlan_tempo : (putPlan k a s).tempo = s.tempo := rfl
@[simp] theorem putPlan_snap : (putPlan k a s).snap = s.snap := rfl
@[simp] theorem putPlan_twin : (putPlan k a s).twin = s.twin := rfl
@[simp] theorem putPlan_heron : (putPlan k a s).heron = s.heron := rfl
@[simp] theorem putPlan_mbox : (putPlan k a s).mbox = s.mbox := rfl
@[simp] theorem putPlan_plant : (putPlan k a s).plant = s.plant := rfl
@[simp] theorem putPlan_queues : (putPlan k a s).queues = s.queues := rfl
@[simp] theorem putPlan_flash : (putPlan k a s).flash = s.flash := rfl
@[simp] theorem putPlan_flashNext : (putPlan k a s).flashNext = s.flashNext := rfl
@[simp] theorem putPlan_ranks : (putPlan k a s).ranks = s.ranks := rfl
@[simp] theorem putPlan_jobs : (putPlan k a s).jobs = s.jobs := rfl
@[simp] theorem putPlan_images : (putPlan k a s).images = s.images := rfl
@[simp] theorem putPlan_queries : (putPlan k a s).queries = s.queries := rfl
@[simp] theorem putPlan_out : (putPlan k a s).out = s.out := rfl
@[simp] theorem putPlan_free : (putPlan k a s).free = s.free := rfl

end

/-! ## putQueue -/

section

variable {q : Nat} {a : Queue} {s : State}

@[simp] theorem putQueue_pending : (putQueue q a s).pending = s.pending := rfl
@[simp] theorem putQueue_now : (putQueue q a s).now = s.now := rfl
@[simp] theorem putQueue_ck : (putQueue q a s).ck = s.ck := rfl
@[simp] theorem putQueue_fens : (putQueue q a s).fens = s.fens := rfl
@[simp] theorem putQueue_regs : (putQueue q a s).regs = s.regs := rfl
@[simp] theorem putQueue_events : (putQueue q a s).events = s.events := rfl
@[simp] theorem putQueue_shadow : (putQueue q a s).shadow = s.shadow := rfl
@[simp] theorem putQueue_pendSet : (putQueue q a s).pendSet = s.pendSet := rfl
@[simp] theorem putQueue_latch : (putQueue q a s).latch = s.latch := rfl
@[simp] theorem putQueue_staleSeen : (putQueue q a s).staleSeen = s.staleSeen := rfl
@[simp] theorem putQueue_lodeSample : (putQueue q a s).lodeSample = s.lodeSample := rfl
@[simp] theorem putQueue_objSample : (putQueue q a s).objSample = s.objSample := rfl
@[simp] theorem putQueue_objStage : (putQueue q a s).objStage = s.objStage := rfl
@[simp] theorem putQueue_objOp : (putQueue q a s).objOp = s.objOp := rfl
@[simp] theorem putQueue_log : (putQueue q a s).log = s.log := rfl
@[simp] theorem putQueue_service : (putQueue q a s).service = s.service := rfl
@[simp] theorem putQueue_spareMap : (putQueue q a s).spareMap = s.spareMap := rfl
@[simp] theorem putQueue_mapGen : (putQueue q a s).mapGen = s.mapGen := rfl
@[simp] theorem putQueue_spareFens : (putQueue q a s).spareFens = s.spareFens := rfl
@[simp] theorem putQueue_spareTree : (putQueue q a s).spareTree = s.spareTree := rfl
@[simp] theorem putQueue_spareCore : (putQueue q a s).spareCore = s.spareCore := rfl
@[simp] theorem putQueue_spareWay : (putQueue q a s).spareWay = s.spareWay := rfl
@[simp] theorem putQueue_spareTa : (putQueue q a s).spareTa = s.spareTa := rfl
@[simp] theorem putQueue_retiredWay : (putQueue q a s).retiredWay = s.retiredWay := rfl
@[simp] theorem putQueue_wayPending : (putQueue q a s).wayPending = s.wayPending := rfl
@[simp] theorem putQueue_tierA : (putQueue q a s).tierA = s.tierA := rfl
@[simp] theorem putQueue_tierB : (putQueue q a s).tierB = s.tierB := rfl
@[simp] theorem putQueue_cache : (putQueue q a s).cache = s.cache := rfl
@[simp] theorem putQueue_objs : (putQueue q a s).objs = s.objs := rfl
@[simp] theorem putQueue_lodes : (putQueue q a s).lodes = s.lodes := rfl
@[simp] theorem putQueue_arms : (putQueue q a s).arms = s.arms := rfl
@[simp] theorem putQueue_plans : (putQueue q a s).plans = s.plans := rfl
@[simp] theorem putQueue_loads : (putQueue q a s).loads = s.loads := rfl
@[simp] theorem putQueue_streams : (putQueue q a s).streams = s.streams := rfl
@[simp] theorem putQueue_streamJobs : (putQueue q a s).streamJobs = s.streamJobs := rfl
@[simp] theorem putQueue_moves : (putQueue q a s).moves = s.moves := rfl
@[simp] theorem putQueue_ports : (putQueue q a s).ports = s.ports := rfl
@[simp] theorem putQueue_decisions : (putQueue q a s).decisions = s.decisions := rfl
@[simp] theorem putQueue_selPending : (putQueue q a s).selPending = s.selPending := rfl
@[simp] theorem putQueue_carryTree : (putQueue q a s).carryTree = s.carryTree := rfl
@[simp] theorem putQueue_leaves : (putQueue q a s).leaves = s.leaves := rfl
@[simp] theorem putQueue_treeBusy : (putQueue q a s).treeBusy = s.treeBusy := rfl
@[simp] theorem putQueue_ring : (putQueue q a s).ring = s.ring := rfl
@[simp] theorem putQueue_cws : (putQueue q a s).cws = s.cws := rfl
@[simp] theorem putQueue_ringId : (putQueue q a s).ringId = s.ringId := rfl
@[simp] theorem putQueue_ringPos : (putQueue q a s).ringPos = s.ringPos := rfl
@[simp] theorem putQueue_ringSize : (putQueue q a s).ringSize = s.ringSize := rfl
@[simp] theorem putQueue_c2Role : (putQueue q a s).c2Role = s.c2Role := rfl
@[simp] theorem putQueue_tempo : (putQueue q a s).tempo = s.tempo := rfl
@[simp] theorem putQueue_snap : (putQueue q a s).snap = s.snap := rfl
@[simp] theorem putQueue_twin : (putQueue q a s).twin = s.twin := rfl
@[simp] theorem putQueue_heron : (putQueue q a s).heron = s.heron := rfl
@[simp] theorem putQueue_mbox : (putQueue q a s).mbox = s.mbox := rfl
@[simp] theorem putQueue_plant : (putQueue q a s).plant = s.plant := rfl
@[simp] theorem putQueue_flash : (putQueue q a s).flash = s.flash := rfl
@[simp] theorem putQueue_flashNext : (putQueue q a s).flashNext = s.flashNext := rfl
@[simp] theorem putQueue_ranks : (putQueue q a s).ranks = s.ranks := rfl
@[simp] theorem putQueue_jobs : (putQueue q a s).jobs = s.jobs := rfl
@[simp] theorem putQueue_images : (putQueue q a s).images = s.images := rfl
@[simp] theorem putQueue_queries : (putQueue q a s).queries = s.queries := rfl
@[simp] theorem putQueue_out : (putQueue q a s).out = s.out := rfl
@[simp] theorem putQueue_free : (putQueue q a s).free = s.free := rfl

end

/-! ## modSnap -/

section

variable {g : Snap → Snap} {s : State}

@[simp] theorem modSnap_pending : (modSnap g s).pending = s.pending := rfl
@[simp] theorem modSnap_now : (modSnap g s).now = s.now := rfl
@[simp] theorem modSnap_ck : (modSnap g s).ck = s.ck := rfl
@[simp] theorem modSnap_fens : (modSnap g s).fens = s.fens := rfl
@[simp] theorem modSnap_regs : (modSnap g s).regs = s.regs := rfl
@[simp] theorem modSnap_events : (modSnap g s).events = s.events := rfl
@[simp] theorem modSnap_shadow : (modSnap g s).shadow = s.shadow := rfl
@[simp] theorem modSnap_pendSet : (modSnap g s).pendSet = s.pendSet := rfl
@[simp] theorem modSnap_latch : (modSnap g s).latch = s.latch := rfl
@[simp] theorem modSnap_staleSeen : (modSnap g s).staleSeen = s.staleSeen := rfl
@[simp] theorem modSnap_lodeSample : (modSnap g s).lodeSample = s.lodeSample := rfl
@[simp] theorem modSnap_objSample : (modSnap g s).objSample = s.objSample := rfl
@[simp] theorem modSnap_objStage : (modSnap g s).objStage = s.objStage := rfl
@[simp] theorem modSnap_objOp : (modSnap g s).objOp = s.objOp := rfl
@[simp] theorem modSnap_log : (modSnap g s).log = s.log := rfl
@[simp] theorem modSnap_service : (modSnap g s).service = s.service := rfl
@[simp] theorem modSnap_spareMap : (modSnap g s).spareMap = s.spareMap := rfl
@[simp] theorem modSnap_mapGen : (modSnap g s).mapGen = s.mapGen := rfl
@[simp] theorem modSnap_spareFens : (modSnap g s).spareFens = s.spareFens := rfl
@[simp] theorem modSnap_spareTree : (modSnap g s).spareTree = s.spareTree := rfl
@[simp] theorem modSnap_spareCore : (modSnap g s).spareCore = s.spareCore := rfl
@[simp] theorem modSnap_spareWay : (modSnap g s).spareWay = s.spareWay := rfl
@[simp] theorem modSnap_spareTa : (modSnap g s).spareTa = s.spareTa := rfl
@[simp] theorem modSnap_retiredWay : (modSnap g s).retiredWay = s.retiredWay := rfl
@[simp] theorem modSnap_wayPending : (modSnap g s).wayPending = s.wayPending := rfl
@[simp] theorem modSnap_tierA : (modSnap g s).tierA = s.tierA := rfl
@[simp] theorem modSnap_tierB : (modSnap g s).tierB = s.tierB := rfl
@[simp] theorem modSnap_cache : (modSnap g s).cache = s.cache := rfl
@[simp] theorem modSnap_objs : (modSnap g s).objs = s.objs := rfl
@[simp] theorem modSnap_lodes : (modSnap g s).lodes = s.lodes := rfl
@[simp] theorem modSnap_arms : (modSnap g s).arms = s.arms := rfl
@[simp] theorem modSnap_plans : (modSnap g s).plans = s.plans := rfl
@[simp] theorem modSnap_loads : (modSnap g s).loads = s.loads := rfl
@[simp] theorem modSnap_streams : (modSnap g s).streams = s.streams := rfl
@[simp] theorem modSnap_streamJobs : (modSnap g s).streamJobs = s.streamJobs := rfl
@[simp] theorem modSnap_moves : (modSnap g s).moves = s.moves := rfl
@[simp] theorem modSnap_ports : (modSnap g s).ports = s.ports := rfl
@[simp] theorem modSnap_decisions : (modSnap g s).decisions = s.decisions := rfl
@[simp] theorem modSnap_selPending : (modSnap g s).selPending = s.selPending := rfl
@[simp] theorem modSnap_carryTree : (modSnap g s).carryTree = s.carryTree := rfl
@[simp] theorem modSnap_leaves : (modSnap g s).leaves = s.leaves := rfl
@[simp] theorem modSnap_treeBusy : (modSnap g s).treeBusy = s.treeBusy := rfl
@[simp] theorem modSnap_ring : (modSnap g s).ring = s.ring := rfl
@[simp] theorem modSnap_cws : (modSnap g s).cws = s.cws := rfl
@[simp] theorem modSnap_ringId : (modSnap g s).ringId = s.ringId := rfl
@[simp] theorem modSnap_ringPos : (modSnap g s).ringPos = s.ringPos := rfl
@[simp] theorem modSnap_ringSize : (modSnap g s).ringSize = s.ringSize := rfl
@[simp] theorem modSnap_c2Role : (modSnap g s).c2Role = s.c2Role := rfl
@[simp] theorem modSnap_tempo : (modSnap g s).tempo = s.tempo := rfl
@[simp] theorem modSnap_twin : (modSnap g s).twin = s.twin := rfl
@[simp] theorem modSnap_heron : (modSnap g s).heron = s.heron := rfl
@[simp] theorem modSnap_mbox : (modSnap g s).mbox = s.mbox := rfl
@[simp] theorem modSnap_plant : (modSnap g s).plant = s.plant := rfl
@[simp] theorem modSnap_queues : (modSnap g s).queues = s.queues := rfl
@[simp] theorem modSnap_flash : (modSnap g s).flash = s.flash := rfl
@[simp] theorem modSnap_flashNext : (modSnap g s).flashNext = s.flashNext := rfl
@[simp] theorem modSnap_ranks : (modSnap g s).ranks = s.ranks := rfl
@[simp] theorem modSnap_jobs : (modSnap g s).jobs = s.jobs := rfl
@[simp] theorem modSnap_images : (modSnap g s).images = s.images := rfl
@[simp] theorem modSnap_queries : (modSnap g s).queries = s.queries := rfl
@[simp] theorem modSnap_out : (modSnap g s).out = s.out := rfl
@[simp] theorem modSnap_free : (modSnap g s).free = s.free := rfl

end

/-! ## modTwin -/

section

variable {g : Twin → Twin} {s : State}

@[simp] theorem modTwin_pending : (modTwin g s).pending = s.pending := rfl
@[simp] theorem modTwin_now : (modTwin g s).now = s.now := rfl
@[simp] theorem modTwin_ck : (modTwin g s).ck = s.ck := rfl
@[simp] theorem modTwin_fens : (modTwin g s).fens = s.fens := rfl
@[simp] theorem modTwin_regs : (modTwin g s).regs = s.regs := rfl
@[simp] theorem modTwin_events : (modTwin g s).events = s.events := rfl
@[simp] theorem modTwin_shadow : (modTwin g s).shadow = s.shadow := rfl
@[simp] theorem modTwin_pendSet : (modTwin g s).pendSet = s.pendSet := rfl
@[simp] theorem modTwin_latch : (modTwin g s).latch = s.latch := rfl
@[simp] theorem modTwin_staleSeen : (modTwin g s).staleSeen = s.staleSeen := rfl
@[simp] theorem modTwin_lodeSample : (modTwin g s).lodeSample = s.lodeSample := rfl
@[simp] theorem modTwin_objSample : (modTwin g s).objSample = s.objSample := rfl
@[simp] theorem modTwin_objStage : (modTwin g s).objStage = s.objStage := rfl
@[simp] theorem modTwin_objOp : (modTwin g s).objOp = s.objOp := rfl
@[simp] theorem modTwin_log : (modTwin g s).log = s.log := rfl
@[simp] theorem modTwin_service : (modTwin g s).service = s.service := rfl
@[simp] theorem modTwin_spareMap : (modTwin g s).spareMap = s.spareMap := rfl
@[simp] theorem modTwin_mapGen : (modTwin g s).mapGen = s.mapGen := rfl
@[simp] theorem modTwin_spareFens : (modTwin g s).spareFens = s.spareFens := rfl
@[simp] theorem modTwin_spareTree : (modTwin g s).spareTree = s.spareTree := rfl
@[simp] theorem modTwin_spareCore : (modTwin g s).spareCore = s.spareCore := rfl
@[simp] theorem modTwin_spareWay : (modTwin g s).spareWay = s.spareWay := rfl
@[simp] theorem modTwin_spareTa : (modTwin g s).spareTa = s.spareTa := rfl
@[simp] theorem modTwin_retiredWay : (modTwin g s).retiredWay = s.retiredWay := rfl
@[simp] theorem modTwin_wayPending : (modTwin g s).wayPending = s.wayPending := rfl
@[simp] theorem modTwin_tierA : (modTwin g s).tierA = s.tierA := rfl
@[simp] theorem modTwin_tierB : (modTwin g s).tierB = s.tierB := rfl
@[simp] theorem modTwin_cache : (modTwin g s).cache = s.cache := rfl
@[simp] theorem modTwin_objs : (modTwin g s).objs = s.objs := rfl
@[simp] theorem modTwin_lodes : (modTwin g s).lodes = s.lodes := rfl
@[simp] theorem modTwin_arms : (modTwin g s).arms = s.arms := rfl
@[simp] theorem modTwin_plans : (modTwin g s).plans = s.plans := rfl
@[simp] theorem modTwin_loads : (modTwin g s).loads = s.loads := rfl
@[simp] theorem modTwin_streams : (modTwin g s).streams = s.streams := rfl
@[simp] theorem modTwin_streamJobs : (modTwin g s).streamJobs = s.streamJobs := rfl
@[simp] theorem modTwin_moves : (modTwin g s).moves = s.moves := rfl
@[simp] theorem modTwin_ports : (modTwin g s).ports = s.ports := rfl
@[simp] theorem modTwin_decisions : (modTwin g s).decisions = s.decisions := rfl
@[simp] theorem modTwin_selPending : (modTwin g s).selPending = s.selPending := rfl
@[simp] theorem modTwin_carryTree : (modTwin g s).carryTree = s.carryTree := rfl
@[simp] theorem modTwin_leaves : (modTwin g s).leaves = s.leaves := rfl
@[simp] theorem modTwin_treeBusy : (modTwin g s).treeBusy = s.treeBusy := rfl
@[simp] theorem modTwin_ring : (modTwin g s).ring = s.ring := rfl
@[simp] theorem modTwin_cws : (modTwin g s).cws = s.cws := rfl
@[simp] theorem modTwin_ringId : (modTwin g s).ringId = s.ringId := rfl
@[simp] theorem modTwin_ringPos : (modTwin g s).ringPos = s.ringPos := rfl
@[simp] theorem modTwin_ringSize : (modTwin g s).ringSize = s.ringSize := rfl
@[simp] theorem modTwin_c2Role : (modTwin g s).c2Role = s.c2Role := rfl
@[simp] theorem modTwin_tempo : (modTwin g s).tempo = s.tempo := rfl
@[simp] theorem modTwin_snap : (modTwin g s).snap = s.snap := rfl
@[simp] theorem modTwin_heron : (modTwin g s).heron = s.heron := rfl
@[simp] theorem modTwin_mbox : (modTwin g s).mbox = s.mbox := rfl
@[simp] theorem modTwin_plant : (modTwin g s).plant = s.plant := rfl
@[simp] theorem modTwin_queues : (modTwin g s).queues = s.queues := rfl
@[simp] theorem modTwin_flash : (modTwin g s).flash = s.flash := rfl
@[simp] theorem modTwin_flashNext : (modTwin g s).flashNext = s.flashNext := rfl
@[simp] theorem modTwin_ranks : (modTwin g s).ranks = s.ranks := rfl
@[simp] theorem modTwin_jobs : (modTwin g s).jobs = s.jobs := rfl
@[simp] theorem modTwin_images : (modTwin g s).images = s.images := rfl
@[simp] theorem modTwin_queries : (modTwin g s).queries = s.queries := rfl
@[simp] theorem modTwin_out : (modTwin g s).out = s.out := rfl
@[simp] theorem modTwin_free : (modTwin g s).free = s.free := rfl

end

/-! ## modHeron -/

section

variable {g : Heron → Heron} {s : State}

@[simp] theorem modHeron_pending : (modHeron g s).pending = s.pending := rfl
@[simp] theorem modHeron_now : (modHeron g s).now = s.now := rfl
@[simp] theorem modHeron_ck : (modHeron g s).ck = s.ck := rfl
@[simp] theorem modHeron_fens : (modHeron g s).fens = s.fens := rfl
@[simp] theorem modHeron_regs : (modHeron g s).regs = s.regs := rfl
@[simp] theorem modHeron_events : (modHeron g s).events = s.events := rfl
@[simp] theorem modHeron_shadow : (modHeron g s).shadow = s.shadow := rfl
@[simp] theorem modHeron_pendSet : (modHeron g s).pendSet = s.pendSet := rfl
@[simp] theorem modHeron_latch : (modHeron g s).latch = s.latch := rfl
@[simp] theorem modHeron_staleSeen : (modHeron g s).staleSeen = s.staleSeen := rfl
@[simp] theorem modHeron_lodeSample : (modHeron g s).lodeSample = s.lodeSample := rfl
@[simp] theorem modHeron_objSample : (modHeron g s).objSample = s.objSample := rfl
@[simp] theorem modHeron_objStage : (modHeron g s).objStage = s.objStage := rfl
@[simp] theorem modHeron_objOp : (modHeron g s).objOp = s.objOp := rfl
@[simp] theorem modHeron_log : (modHeron g s).log = s.log := rfl
@[simp] theorem modHeron_service : (modHeron g s).service = s.service := rfl
@[simp] theorem modHeron_spareMap : (modHeron g s).spareMap = s.spareMap := rfl
@[simp] theorem modHeron_mapGen : (modHeron g s).mapGen = s.mapGen := rfl
@[simp] theorem modHeron_spareFens : (modHeron g s).spareFens = s.spareFens := rfl
@[simp] theorem modHeron_spareTree : (modHeron g s).spareTree = s.spareTree := rfl
@[simp] theorem modHeron_spareCore : (modHeron g s).spareCore = s.spareCore := rfl
@[simp] theorem modHeron_spareWay : (modHeron g s).spareWay = s.spareWay := rfl
@[simp] theorem modHeron_spareTa : (modHeron g s).spareTa = s.spareTa := rfl
@[simp] theorem modHeron_retiredWay : (modHeron g s).retiredWay = s.retiredWay := rfl
@[simp] theorem modHeron_wayPending : (modHeron g s).wayPending = s.wayPending := rfl
@[simp] theorem modHeron_tierA : (modHeron g s).tierA = s.tierA := rfl
@[simp] theorem modHeron_tierB : (modHeron g s).tierB = s.tierB := rfl
@[simp] theorem modHeron_cache : (modHeron g s).cache = s.cache := rfl
@[simp] theorem modHeron_objs : (modHeron g s).objs = s.objs := rfl
@[simp] theorem modHeron_lodes : (modHeron g s).lodes = s.lodes := rfl
@[simp] theorem modHeron_arms : (modHeron g s).arms = s.arms := rfl
@[simp] theorem modHeron_plans : (modHeron g s).plans = s.plans := rfl
@[simp] theorem modHeron_loads : (modHeron g s).loads = s.loads := rfl
@[simp] theorem modHeron_streams : (modHeron g s).streams = s.streams := rfl
@[simp] theorem modHeron_streamJobs : (modHeron g s).streamJobs = s.streamJobs := rfl
@[simp] theorem modHeron_moves : (modHeron g s).moves = s.moves := rfl
@[simp] theorem modHeron_ports : (modHeron g s).ports = s.ports := rfl
@[simp] theorem modHeron_decisions : (modHeron g s).decisions = s.decisions := rfl
@[simp] theorem modHeron_selPending : (modHeron g s).selPending = s.selPending := rfl
@[simp] theorem modHeron_carryTree : (modHeron g s).carryTree = s.carryTree := rfl
@[simp] theorem modHeron_leaves : (modHeron g s).leaves = s.leaves := rfl
@[simp] theorem modHeron_treeBusy : (modHeron g s).treeBusy = s.treeBusy := rfl
@[simp] theorem modHeron_ring : (modHeron g s).ring = s.ring := rfl
@[simp] theorem modHeron_cws : (modHeron g s).cws = s.cws := rfl
@[simp] theorem modHeron_ringId : (modHeron g s).ringId = s.ringId := rfl
@[simp] theorem modHeron_ringPos : (modHeron g s).ringPos = s.ringPos := rfl
@[simp] theorem modHeron_ringSize : (modHeron g s).ringSize = s.ringSize := rfl
@[simp] theorem modHeron_c2Role : (modHeron g s).c2Role = s.c2Role := rfl
@[simp] theorem modHeron_tempo : (modHeron g s).tempo = s.tempo := rfl
@[simp] theorem modHeron_snap : (modHeron g s).snap = s.snap := rfl
@[simp] theorem modHeron_twin : (modHeron g s).twin = s.twin := rfl
@[simp] theorem modHeron_mbox : (modHeron g s).mbox = s.mbox := rfl
@[simp] theorem modHeron_plant : (modHeron g s).plant = s.plant := rfl
@[simp] theorem modHeron_queues : (modHeron g s).queues = s.queues := rfl
@[simp] theorem modHeron_flash : (modHeron g s).flash = s.flash := rfl
@[simp] theorem modHeron_flashNext : (modHeron g s).flashNext = s.flashNext := rfl
@[simp] theorem modHeron_ranks : (modHeron g s).ranks = s.ranks := rfl
@[simp] theorem modHeron_jobs : (modHeron g s).jobs = s.jobs := rfl
@[simp] theorem modHeron_images : (modHeron g s).images = s.images := rfl
@[simp] theorem modHeron_queries : (modHeron g s).queries = s.queries := rfl
@[simp] theorem modHeron_out : (modHeron g s).out = s.out := rfl
@[simp] theorem modHeron_free : (modHeron g s).free = s.free := rfl

end

/-! ## modMbox -/

section

variable {g : Mailbox → Mailbox} {s : State}

@[simp] theorem modMbox_pending : (modMbox g s).pending = s.pending := rfl
@[simp] theorem modMbox_now : (modMbox g s).now = s.now := rfl
@[simp] theorem modMbox_ck : (modMbox g s).ck = s.ck := rfl
@[simp] theorem modMbox_fens : (modMbox g s).fens = s.fens := rfl
@[simp] theorem modMbox_regs : (modMbox g s).regs = s.regs := rfl
@[simp] theorem modMbox_events : (modMbox g s).events = s.events := rfl
@[simp] theorem modMbox_shadow : (modMbox g s).shadow = s.shadow := rfl
@[simp] theorem modMbox_pendSet : (modMbox g s).pendSet = s.pendSet := rfl
@[simp] theorem modMbox_latch : (modMbox g s).latch = s.latch := rfl
@[simp] theorem modMbox_staleSeen : (modMbox g s).staleSeen = s.staleSeen := rfl
@[simp] theorem modMbox_lodeSample : (modMbox g s).lodeSample = s.lodeSample := rfl
@[simp] theorem modMbox_objSample : (modMbox g s).objSample = s.objSample := rfl
@[simp] theorem modMbox_objStage : (modMbox g s).objStage = s.objStage := rfl
@[simp] theorem modMbox_objOp : (modMbox g s).objOp = s.objOp := rfl
@[simp] theorem modMbox_log : (modMbox g s).log = s.log := rfl
@[simp] theorem modMbox_service : (modMbox g s).service = s.service := rfl
@[simp] theorem modMbox_spareMap : (modMbox g s).spareMap = s.spareMap := rfl
@[simp] theorem modMbox_mapGen : (modMbox g s).mapGen = s.mapGen := rfl
@[simp] theorem modMbox_spareFens : (modMbox g s).spareFens = s.spareFens := rfl
@[simp] theorem modMbox_spareTree : (modMbox g s).spareTree = s.spareTree := rfl
@[simp] theorem modMbox_spareCore : (modMbox g s).spareCore = s.spareCore := rfl
@[simp] theorem modMbox_spareWay : (modMbox g s).spareWay = s.spareWay := rfl
@[simp] theorem modMbox_spareTa : (modMbox g s).spareTa = s.spareTa := rfl
@[simp] theorem modMbox_retiredWay : (modMbox g s).retiredWay = s.retiredWay := rfl
@[simp] theorem modMbox_wayPending : (modMbox g s).wayPending = s.wayPending := rfl
@[simp] theorem modMbox_tierA : (modMbox g s).tierA = s.tierA := rfl
@[simp] theorem modMbox_tierB : (modMbox g s).tierB = s.tierB := rfl
@[simp] theorem modMbox_cache : (modMbox g s).cache = s.cache := rfl
@[simp] theorem modMbox_objs : (modMbox g s).objs = s.objs := rfl
@[simp] theorem modMbox_lodes : (modMbox g s).lodes = s.lodes := rfl
@[simp] theorem modMbox_arms : (modMbox g s).arms = s.arms := rfl
@[simp] theorem modMbox_plans : (modMbox g s).plans = s.plans := rfl
@[simp] theorem modMbox_loads : (modMbox g s).loads = s.loads := rfl
@[simp] theorem modMbox_streams : (modMbox g s).streams = s.streams := rfl
@[simp] theorem modMbox_streamJobs : (modMbox g s).streamJobs = s.streamJobs := rfl
@[simp] theorem modMbox_moves : (modMbox g s).moves = s.moves := rfl
@[simp] theorem modMbox_ports : (modMbox g s).ports = s.ports := rfl
@[simp] theorem modMbox_decisions : (modMbox g s).decisions = s.decisions := rfl
@[simp] theorem modMbox_selPending : (modMbox g s).selPending = s.selPending := rfl
@[simp] theorem modMbox_carryTree : (modMbox g s).carryTree = s.carryTree := rfl
@[simp] theorem modMbox_leaves : (modMbox g s).leaves = s.leaves := rfl
@[simp] theorem modMbox_treeBusy : (modMbox g s).treeBusy = s.treeBusy := rfl
@[simp] theorem modMbox_ring : (modMbox g s).ring = s.ring := rfl
@[simp] theorem modMbox_cws : (modMbox g s).cws = s.cws := rfl
@[simp] theorem modMbox_ringId : (modMbox g s).ringId = s.ringId := rfl
@[simp] theorem modMbox_ringPos : (modMbox g s).ringPos = s.ringPos := rfl
@[simp] theorem modMbox_ringSize : (modMbox g s).ringSize = s.ringSize := rfl
@[simp] theorem modMbox_c2Role : (modMbox g s).c2Role = s.c2Role := rfl
@[simp] theorem modMbox_tempo : (modMbox g s).tempo = s.tempo := rfl
@[simp] theorem modMbox_snap : (modMbox g s).snap = s.snap := rfl
@[simp] theorem modMbox_twin : (modMbox g s).twin = s.twin := rfl
@[simp] theorem modMbox_heron : (modMbox g s).heron = s.heron := rfl
@[simp] theorem modMbox_plant : (modMbox g s).plant = s.plant := rfl
@[simp] theorem modMbox_queues : (modMbox g s).queues = s.queues := rfl
@[simp] theorem modMbox_flash : (modMbox g s).flash = s.flash := rfl
@[simp] theorem modMbox_flashNext : (modMbox g s).flashNext = s.flashNext := rfl
@[simp] theorem modMbox_ranks : (modMbox g s).ranks = s.ranks := rfl
@[simp] theorem modMbox_jobs : (modMbox g s).jobs = s.jobs := rfl
@[simp] theorem modMbox_images : (modMbox g s).images = s.images := rfl
@[simp] theorem modMbox_queries : (modMbox g s).queries = s.queries := rfl
@[simp] theorem modMbox_out : (modMbox g s).out = s.out := rfl
@[simp] theorem modMbox_free : (modMbox g s).free = s.free := rfl

end

/-! ## modRank -/

section

variable {r : Nat} {g : Rank → Rank} {s : State}

@[simp] theorem modRank_pending : (modRank r g s).pending = s.pending := rfl
@[simp] theorem modRank_now : (modRank r g s).now = s.now := rfl
@[simp] theorem modRank_ck : (modRank r g s).ck = s.ck := rfl
@[simp] theorem modRank_fens : (modRank r g s).fens = s.fens := rfl
@[simp] theorem modRank_regs : (modRank r g s).regs = s.regs := rfl
@[simp] theorem modRank_events : (modRank r g s).events = s.events := rfl
@[simp] theorem modRank_shadow : (modRank r g s).shadow = s.shadow := rfl
@[simp] theorem modRank_pendSet : (modRank r g s).pendSet = s.pendSet := rfl
@[simp] theorem modRank_latch : (modRank r g s).latch = s.latch := rfl
@[simp] theorem modRank_staleSeen : (modRank r g s).staleSeen = s.staleSeen := rfl
@[simp] theorem modRank_lodeSample : (modRank r g s).lodeSample = s.lodeSample := rfl
@[simp] theorem modRank_objSample : (modRank r g s).objSample = s.objSample := rfl
@[simp] theorem modRank_objStage : (modRank r g s).objStage = s.objStage := rfl
@[simp] theorem modRank_objOp : (modRank r g s).objOp = s.objOp := rfl
@[simp] theorem modRank_log : (modRank r g s).log = s.log := rfl
@[simp] theorem modRank_service : (modRank r g s).service = s.service := rfl
@[simp] theorem modRank_spareMap : (modRank r g s).spareMap = s.spareMap := rfl
@[simp] theorem modRank_mapGen : (modRank r g s).mapGen = s.mapGen := rfl
@[simp] theorem modRank_spareFens : (modRank r g s).spareFens = s.spareFens := rfl
@[simp] theorem modRank_spareTree : (modRank r g s).spareTree = s.spareTree := rfl
@[simp] theorem modRank_spareCore : (modRank r g s).spareCore = s.spareCore := rfl
@[simp] theorem modRank_spareWay : (modRank r g s).spareWay = s.spareWay := rfl
@[simp] theorem modRank_spareTa : (modRank r g s).spareTa = s.spareTa := rfl
@[simp] theorem modRank_retiredWay : (modRank r g s).retiredWay = s.retiredWay := rfl
@[simp] theorem modRank_wayPending : (modRank r g s).wayPending = s.wayPending := rfl
@[simp] theorem modRank_tierA : (modRank r g s).tierA = s.tierA := rfl
@[simp] theorem modRank_tierB : (modRank r g s).tierB = s.tierB := rfl
@[simp] theorem modRank_cache : (modRank r g s).cache = s.cache := rfl
@[simp] theorem modRank_objs : (modRank r g s).objs = s.objs := rfl
@[simp] theorem modRank_lodes : (modRank r g s).lodes = s.lodes := rfl
@[simp] theorem modRank_arms : (modRank r g s).arms = s.arms := rfl
@[simp] theorem modRank_plans : (modRank r g s).plans = s.plans := rfl
@[simp] theorem modRank_loads : (modRank r g s).loads = s.loads := rfl
@[simp] theorem modRank_streams : (modRank r g s).streams = s.streams := rfl
@[simp] theorem modRank_streamJobs : (modRank r g s).streamJobs = s.streamJobs := rfl
@[simp] theorem modRank_moves : (modRank r g s).moves = s.moves := rfl
@[simp] theorem modRank_ports : (modRank r g s).ports = s.ports := rfl
@[simp] theorem modRank_decisions : (modRank r g s).decisions = s.decisions := rfl
@[simp] theorem modRank_selPending : (modRank r g s).selPending = s.selPending := rfl
@[simp] theorem modRank_carryTree : (modRank r g s).carryTree = s.carryTree := rfl
@[simp] theorem modRank_leaves : (modRank r g s).leaves = s.leaves := rfl
@[simp] theorem modRank_treeBusy : (modRank r g s).treeBusy = s.treeBusy := rfl
@[simp] theorem modRank_ring : (modRank r g s).ring = s.ring := rfl
@[simp] theorem modRank_cws : (modRank r g s).cws = s.cws := rfl
@[simp] theorem modRank_ringId : (modRank r g s).ringId = s.ringId := rfl
@[simp] theorem modRank_ringPos : (modRank r g s).ringPos = s.ringPos := rfl
@[simp] theorem modRank_ringSize : (modRank r g s).ringSize = s.ringSize := rfl
@[simp] theorem modRank_c2Role : (modRank r g s).c2Role = s.c2Role := rfl
@[simp] theorem modRank_tempo : (modRank r g s).tempo = s.tempo := rfl
@[simp] theorem modRank_snap : (modRank r g s).snap = s.snap := rfl
@[simp] theorem modRank_twin : (modRank r g s).twin = s.twin := rfl
@[simp] theorem modRank_heron : (modRank r g s).heron = s.heron := rfl
@[simp] theorem modRank_mbox : (modRank r g s).mbox = s.mbox := rfl
@[simp] theorem modRank_plant : (modRank r g s).plant = s.plant := rfl
@[simp] theorem modRank_queues : (modRank r g s).queues = s.queues := rfl
@[simp] theorem modRank_flash : (modRank r g s).flash = s.flash := rfl
@[simp] theorem modRank_flashNext : (modRank r g s).flashNext = s.flashNext := rfl
@[simp] theorem modRank_jobs : (modRank r g s).jobs = s.jobs := rfl
@[simp] theorem modRank_images : (modRank r g s).images = s.images := rfl
@[simp] theorem modRank_queries : (modRank r g s).queries = s.queries := rfl
@[simp] theorem modRank_out : (modRank r g s).out = s.out := rfl
@[simp] theorem modRank_free : (modRank r g s).free = s.free := rfl

end

/-! ## modFlash -/

section

variable {q : Nat} {g : FlashQueue → FlashQueue} {s : State}

@[simp] theorem modFlash_pending : (modFlash q g s).pending = s.pending := rfl
@[simp] theorem modFlash_now : (modFlash q g s).now = s.now := rfl
@[simp] theorem modFlash_ck : (modFlash q g s).ck = s.ck := rfl
@[simp] theorem modFlash_fens : (modFlash q g s).fens = s.fens := rfl
@[simp] theorem modFlash_regs : (modFlash q g s).regs = s.regs := rfl
@[simp] theorem modFlash_events : (modFlash q g s).events = s.events := rfl
@[simp] theorem modFlash_shadow : (modFlash q g s).shadow = s.shadow := rfl
@[simp] theorem modFlash_pendSet : (modFlash q g s).pendSet = s.pendSet := rfl
@[simp] theorem modFlash_latch : (modFlash q g s).latch = s.latch := rfl
@[simp] theorem modFlash_staleSeen : (modFlash q g s).staleSeen = s.staleSeen := rfl
@[simp] theorem modFlash_lodeSample : (modFlash q g s).lodeSample = s.lodeSample := rfl
@[simp] theorem modFlash_objSample : (modFlash q g s).objSample = s.objSample := rfl
@[simp] theorem modFlash_objStage : (modFlash q g s).objStage = s.objStage := rfl
@[simp] theorem modFlash_objOp : (modFlash q g s).objOp = s.objOp := rfl
@[simp] theorem modFlash_log : (modFlash q g s).log = s.log := rfl
@[simp] theorem modFlash_service : (modFlash q g s).service = s.service := rfl
@[simp] theorem modFlash_spareMap : (modFlash q g s).spareMap = s.spareMap := rfl
@[simp] theorem modFlash_mapGen : (modFlash q g s).mapGen = s.mapGen := rfl
@[simp] theorem modFlash_spareFens : (modFlash q g s).spareFens = s.spareFens := rfl
@[simp] theorem modFlash_spareTree : (modFlash q g s).spareTree = s.spareTree := rfl
@[simp] theorem modFlash_spareCore : (modFlash q g s).spareCore = s.spareCore := rfl
@[simp] theorem modFlash_spareWay : (modFlash q g s).spareWay = s.spareWay := rfl
@[simp] theorem modFlash_spareTa : (modFlash q g s).spareTa = s.spareTa := rfl
@[simp] theorem modFlash_retiredWay : (modFlash q g s).retiredWay = s.retiredWay := rfl
@[simp] theorem modFlash_wayPending : (modFlash q g s).wayPending = s.wayPending := rfl
@[simp] theorem modFlash_tierA : (modFlash q g s).tierA = s.tierA := rfl
@[simp] theorem modFlash_tierB : (modFlash q g s).tierB = s.tierB := rfl
@[simp] theorem modFlash_cache : (modFlash q g s).cache = s.cache := rfl
@[simp] theorem modFlash_objs : (modFlash q g s).objs = s.objs := rfl
@[simp] theorem modFlash_lodes : (modFlash q g s).lodes = s.lodes := rfl
@[simp] theorem modFlash_arms : (modFlash q g s).arms = s.arms := rfl
@[simp] theorem modFlash_plans : (modFlash q g s).plans = s.plans := rfl
@[simp] theorem modFlash_loads : (modFlash q g s).loads = s.loads := rfl
@[simp] theorem modFlash_streams : (modFlash q g s).streams = s.streams := rfl
@[simp] theorem modFlash_streamJobs : (modFlash q g s).streamJobs = s.streamJobs := rfl
@[simp] theorem modFlash_moves : (modFlash q g s).moves = s.moves := rfl
@[simp] theorem modFlash_ports : (modFlash q g s).ports = s.ports := rfl
@[simp] theorem modFlash_decisions : (modFlash q g s).decisions = s.decisions := rfl
@[simp] theorem modFlash_selPending : (modFlash q g s).selPending = s.selPending := rfl
@[simp] theorem modFlash_carryTree : (modFlash q g s).carryTree = s.carryTree := rfl
@[simp] theorem modFlash_leaves : (modFlash q g s).leaves = s.leaves := rfl
@[simp] theorem modFlash_treeBusy : (modFlash q g s).treeBusy = s.treeBusy := rfl
@[simp] theorem modFlash_ring : (modFlash q g s).ring = s.ring := rfl
@[simp] theorem modFlash_cws : (modFlash q g s).cws = s.cws := rfl
@[simp] theorem modFlash_ringId : (modFlash q g s).ringId = s.ringId := rfl
@[simp] theorem modFlash_ringPos : (modFlash q g s).ringPos = s.ringPos := rfl
@[simp] theorem modFlash_ringSize : (modFlash q g s).ringSize = s.ringSize := rfl
@[simp] theorem modFlash_c2Role : (modFlash q g s).c2Role = s.c2Role := rfl
@[simp] theorem modFlash_tempo : (modFlash q g s).tempo = s.tempo := rfl
@[simp] theorem modFlash_snap : (modFlash q g s).snap = s.snap := rfl
@[simp] theorem modFlash_twin : (modFlash q g s).twin = s.twin := rfl
@[simp] theorem modFlash_heron : (modFlash q g s).heron = s.heron := rfl
@[simp] theorem modFlash_mbox : (modFlash q g s).mbox = s.mbox := rfl
@[simp] theorem modFlash_plant : (modFlash q g s).plant = s.plant := rfl
@[simp] theorem modFlash_queues : (modFlash q g s).queues = s.queues := rfl
@[simp] theorem modFlash_flashNext : (modFlash q g s).flashNext = s.flashNext := rfl
@[simp] theorem modFlash_ranks : (modFlash q g s).ranks = s.ranks := rfl
@[simp] theorem modFlash_jobs : (modFlash q g s).jobs = s.jobs := rfl
@[simp] theorem modFlash_images : (modFlash q g s).images = s.images := rfl
@[simp] theorem modFlash_queries : (modFlash q g s).queries = s.queries := rfl
@[simp] theorem modFlash_out : (modFlash q g s).out = s.out := rfl
@[simp] theorem modFlash_free : (modFlash q g s).free = s.free := rfl

end

/-! ## advanceTo -/

section

variable {t : Nat} {s : State}

@[simp] theorem advanceTo_pending : (advanceTo t s).pending = s.pending := by unfold advanceTo; split <;> rfl
@[simp] theorem advanceTo_fens : (advanceTo t s).fens = s.fens := by unfold advanceTo; split <;> rfl
@[simp] theorem advanceTo_regs : (advanceTo t s).regs = s.regs := by unfold advanceTo; split <;> rfl
@[simp] theorem advanceTo_events : (advanceTo t s).events = s.events := by unfold advanceTo; split <;> rfl
@[simp] theorem advanceTo_shadow : (advanceTo t s).shadow = s.shadow := by unfold advanceTo; split <;> rfl
@[simp] theorem advanceTo_pendSet : (advanceTo t s).pendSet = s.pendSet := by unfold advanceTo; split <;> rfl
@[simp] theorem advanceTo_latch : (advanceTo t s).latch = s.latch := by unfold advanceTo; split <;> rfl
@[simp] theorem advanceTo_staleSeen : (advanceTo t s).staleSeen = s.staleSeen := by unfold advanceTo; split <;> rfl
@[simp] theorem advanceTo_lodeSample : (advanceTo t s).lodeSample = s.lodeSample := by unfold advanceTo; split <;> rfl
@[simp] theorem advanceTo_objSample : (advanceTo t s).objSample = s.objSample := by unfold advanceTo; split <;> rfl
@[simp] theorem advanceTo_objStage : (advanceTo t s).objStage = s.objStage := by unfold advanceTo; split <;> rfl
@[simp] theorem advanceTo_objOp : (advanceTo t s).objOp = s.objOp := by unfold advanceTo; split <;> rfl
@[simp] theorem advanceTo_log : (advanceTo t s).log = s.log := by unfold advanceTo; split <;> rfl
@[simp] theorem advanceTo_service : (advanceTo t s).service = s.service := by unfold advanceTo; split <;> rfl
@[simp] theorem advanceTo_spareMap : (advanceTo t s).spareMap = s.spareMap := by unfold advanceTo; split <;> rfl
@[simp] theorem advanceTo_mapGen : (advanceTo t s).mapGen = s.mapGen := by unfold advanceTo; split <;> rfl
@[simp] theorem advanceTo_spareFens : (advanceTo t s).spareFens = s.spareFens := by unfold advanceTo; split <;> rfl
@[simp] theorem advanceTo_spareTree : (advanceTo t s).spareTree = s.spareTree := by unfold advanceTo; split <;> rfl
@[simp] theorem advanceTo_spareCore : (advanceTo t s).spareCore = s.spareCore := by unfold advanceTo; split <;> rfl
@[simp] theorem advanceTo_spareWay : (advanceTo t s).spareWay = s.spareWay := by unfold advanceTo; split <;> rfl
@[simp] theorem advanceTo_spareTa : (advanceTo t s).spareTa = s.spareTa := by unfold advanceTo; split <;> rfl
@[simp] theorem advanceTo_retiredWay : (advanceTo t s).retiredWay = s.retiredWay := by unfold advanceTo; split <;> rfl
@[simp] theorem advanceTo_wayPending : (advanceTo t s).wayPending = s.wayPending := by unfold advanceTo; split <;> rfl
@[simp] theorem advanceTo_tierA : (advanceTo t s).tierA = s.tierA := by unfold advanceTo; split <;> rfl
@[simp] theorem advanceTo_tierB : (advanceTo t s).tierB = s.tierB := by unfold advanceTo; split <;> rfl
@[simp] theorem advanceTo_cache : (advanceTo t s).cache = s.cache := by unfold advanceTo; split <;> rfl
@[simp] theorem advanceTo_objs : (advanceTo t s).objs = s.objs := by unfold advanceTo; split <;> rfl
@[simp] theorem advanceTo_lodes : (advanceTo t s).lodes = s.lodes := by unfold advanceTo; split <;> rfl
@[simp] theorem advanceTo_arms : (advanceTo t s).arms = s.arms := by unfold advanceTo; split <;> rfl
@[simp] theorem advanceTo_plans : (advanceTo t s).plans = s.plans := by unfold advanceTo; split <;> rfl
@[simp] theorem advanceTo_loads : (advanceTo t s).loads = s.loads := by unfold advanceTo; split <;> rfl
@[simp] theorem advanceTo_streams : (advanceTo t s).streams = s.streams := by unfold advanceTo; split <;> rfl
@[simp] theorem advanceTo_streamJobs : (advanceTo t s).streamJobs = s.streamJobs := by unfold advanceTo; split <;> rfl
@[simp] theorem advanceTo_moves : (advanceTo t s).moves = s.moves := by unfold advanceTo; split <;> rfl
@[simp] theorem advanceTo_ports : (advanceTo t s).ports = s.ports := by unfold advanceTo; split <;> rfl
@[simp] theorem advanceTo_decisions : (advanceTo t s).decisions = s.decisions := by unfold advanceTo; split <;> rfl
@[simp] theorem advanceTo_selPending : (advanceTo t s).selPending = s.selPending := by unfold advanceTo; split <;> rfl
@[simp] theorem advanceTo_carryTree : (advanceTo t s).carryTree = s.carryTree := by unfold advanceTo; split <;> rfl
@[simp] theorem advanceTo_leaves : (advanceTo t s).leaves = s.leaves := by unfold advanceTo; split <;> rfl
@[simp] theorem advanceTo_treeBusy : (advanceTo t s).treeBusy = s.treeBusy := by unfold advanceTo; split <;> rfl
@[simp] theorem advanceTo_ring : (advanceTo t s).ring = s.ring := by unfold advanceTo; split <;> rfl
@[simp] theorem advanceTo_cws : (advanceTo t s).cws = s.cws := by unfold advanceTo; split <;> rfl
@[simp] theorem advanceTo_ringId : (advanceTo t s).ringId = s.ringId := by unfold advanceTo; split <;> rfl
@[simp] theorem advanceTo_ringPos : (advanceTo t s).ringPos = s.ringPos := by unfold advanceTo; split <;> rfl
@[simp] theorem advanceTo_ringSize : (advanceTo t s).ringSize = s.ringSize := by unfold advanceTo; split <;> rfl
@[simp] theorem advanceTo_c2Role : (advanceTo t s).c2Role = s.c2Role := by unfold advanceTo; split <;> rfl
@[simp] theorem advanceTo_tempo : (advanceTo t s).tempo = s.tempo := by unfold advanceTo; split <;> rfl
@[simp] theorem advanceTo_snap : (advanceTo t s).snap = s.snap := by unfold advanceTo; split <;> rfl
@[simp] theorem advanceTo_twin : (advanceTo t s).twin = s.twin := by unfold advanceTo; split <;> rfl
@[simp] theorem advanceTo_heron : (advanceTo t s).heron = s.heron := by unfold advanceTo; split <;> rfl
@[simp] theorem advanceTo_mbox : (advanceTo t s).mbox = s.mbox := by unfold advanceTo; split <;> rfl
@[simp] theorem advanceTo_plant : (advanceTo t s).plant = s.plant := by unfold advanceTo; split <;> rfl
@[simp] theorem advanceTo_queues : (advanceTo t s).queues = s.queues := by unfold advanceTo; split <;> rfl
@[simp] theorem advanceTo_flash : (advanceTo t s).flash = s.flash := by unfold advanceTo; split <;> rfl
@[simp] theorem advanceTo_flashNext : (advanceTo t s).flashNext = s.flashNext := by unfold advanceTo; split <;> rfl
@[simp] theorem advanceTo_ranks : (advanceTo t s).ranks = s.ranks := by unfold advanceTo; split <;> rfl
@[simp] theorem advanceTo_jobs : (advanceTo t s).jobs = s.jobs := by unfold advanceTo; split <;> rfl
@[simp] theorem advanceTo_images : (advanceTo t s).images = s.images := by unfold advanceTo; split <;> rfl
@[simp] theorem advanceTo_queries : (advanceTo t s).queries = s.queries := by unfold advanceTo; split <;> rfl
@[simp] theorem advanceTo_out : (advanceTo t s).out = s.out := by unfold advanceTo; split <;> rfl
@[simp] theorem advanceTo_free : (advanceTo t s).free = s.free := by unfold advanceTo; split <;> rfl

end

/-! ## advanceCk -/

section

variable {c : Nat} {s : State}

@[simp] theorem advanceCk_pending : (advanceCk c s).pending = s.pending := by unfold advanceCk; split <;> rfl
@[simp] theorem advanceCk_fens : (advanceCk c s).fens = s.fens := by unfold advanceCk; split <;> rfl
@[simp] theorem advanceCk_regs : (advanceCk c s).regs = s.regs := by unfold advanceCk; split <;> rfl
@[simp] theorem advanceCk_events : (advanceCk c s).events = s.events := by unfold advanceCk; split <;> rfl
@[simp] theorem advanceCk_shadow : (advanceCk c s).shadow = s.shadow := by unfold advanceCk; split <;> rfl
@[simp] theorem advanceCk_pendSet : (advanceCk c s).pendSet = s.pendSet := by unfold advanceCk; split <;> rfl
@[simp] theorem advanceCk_latch : (advanceCk c s).latch = s.latch := by unfold advanceCk; split <;> rfl
@[simp] theorem advanceCk_staleSeen : (advanceCk c s).staleSeen = s.staleSeen := by unfold advanceCk; split <;> rfl
@[simp] theorem advanceCk_lodeSample : (advanceCk c s).lodeSample = s.lodeSample := by unfold advanceCk; split <;> rfl
@[simp] theorem advanceCk_objSample : (advanceCk c s).objSample = s.objSample := by unfold advanceCk; split <;> rfl
@[simp] theorem advanceCk_objStage : (advanceCk c s).objStage = s.objStage := by unfold advanceCk; split <;> rfl
@[simp] theorem advanceCk_objOp : (advanceCk c s).objOp = s.objOp := by unfold advanceCk; split <;> rfl
@[simp] theorem advanceCk_log : (advanceCk c s).log = s.log := by unfold advanceCk; split <;> rfl
@[simp] theorem advanceCk_service : (advanceCk c s).service = s.service := by unfold advanceCk; split <;> rfl
@[simp] theorem advanceCk_spareMap : (advanceCk c s).spareMap = s.spareMap := by unfold advanceCk; split <;> rfl
@[simp] theorem advanceCk_mapGen : (advanceCk c s).mapGen = s.mapGen := by unfold advanceCk; split <;> rfl
@[simp] theorem advanceCk_spareFens : (advanceCk c s).spareFens = s.spareFens := by unfold advanceCk; split <;> rfl
@[simp] theorem advanceCk_spareTree : (advanceCk c s).spareTree = s.spareTree := by unfold advanceCk; split <;> rfl
@[simp] theorem advanceCk_spareCore : (advanceCk c s).spareCore = s.spareCore := by unfold advanceCk; split <;> rfl
@[simp] theorem advanceCk_spareWay : (advanceCk c s).spareWay = s.spareWay := by unfold advanceCk; split <;> rfl
@[simp] theorem advanceCk_spareTa : (advanceCk c s).spareTa = s.spareTa := by unfold advanceCk; split <;> rfl
@[simp] theorem advanceCk_retiredWay : (advanceCk c s).retiredWay = s.retiredWay := by unfold advanceCk; split <;> rfl
@[simp] theorem advanceCk_wayPending : (advanceCk c s).wayPending = s.wayPending := by unfold advanceCk; split <;> rfl
@[simp] theorem advanceCk_tierA : (advanceCk c s).tierA = s.tierA := by unfold advanceCk; split <;> rfl
@[simp] theorem advanceCk_tierB : (advanceCk c s).tierB = s.tierB := by unfold advanceCk; split <;> rfl
@[simp] theorem advanceCk_cache : (advanceCk c s).cache = s.cache := by unfold advanceCk; split <;> rfl
@[simp] theorem advanceCk_objs : (advanceCk c s).objs = s.objs := by unfold advanceCk; split <;> rfl
@[simp] theorem advanceCk_lodes : (advanceCk c s).lodes = s.lodes := by unfold advanceCk; split <;> rfl
@[simp] theorem advanceCk_arms : (advanceCk c s).arms = s.arms := by unfold advanceCk; split <;> rfl
@[simp] theorem advanceCk_plans : (advanceCk c s).plans = s.plans := by unfold advanceCk; split <;> rfl
@[simp] theorem advanceCk_loads : (advanceCk c s).loads = s.loads := by unfold advanceCk; split <;> rfl
@[simp] theorem advanceCk_streams : (advanceCk c s).streams = s.streams := by unfold advanceCk; split <;> rfl
@[simp] theorem advanceCk_streamJobs : (advanceCk c s).streamJobs = s.streamJobs := by unfold advanceCk; split <;> rfl
@[simp] theorem advanceCk_moves : (advanceCk c s).moves = s.moves := by unfold advanceCk; split <;> rfl
@[simp] theorem advanceCk_ports : (advanceCk c s).ports = s.ports := by unfold advanceCk; split <;> rfl
@[simp] theorem advanceCk_decisions : (advanceCk c s).decisions = s.decisions := by unfold advanceCk; split <;> rfl
@[simp] theorem advanceCk_selPending : (advanceCk c s).selPending = s.selPending := by unfold advanceCk; split <;> rfl
@[simp] theorem advanceCk_carryTree : (advanceCk c s).carryTree = s.carryTree := by unfold advanceCk; split <;> rfl
@[simp] theorem advanceCk_leaves : (advanceCk c s).leaves = s.leaves := by unfold advanceCk; split <;> rfl
@[simp] theorem advanceCk_treeBusy : (advanceCk c s).treeBusy = s.treeBusy := by unfold advanceCk; split <;> rfl
@[simp] theorem advanceCk_ring : (advanceCk c s).ring = s.ring := by unfold advanceCk; split <;> rfl
@[simp] theorem advanceCk_cws : (advanceCk c s).cws = s.cws := by unfold advanceCk; split <;> rfl
@[simp] theorem advanceCk_ringId : (advanceCk c s).ringId = s.ringId := by unfold advanceCk; split <;> rfl
@[simp] theorem advanceCk_ringPos : (advanceCk c s).ringPos = s.ringPos := by unfold advanceCk; split <;> rfl
@[simp] theorem advanceCk_ringSize : (advanceCk c s).ringSize = s.ringSize := by unfold advanceCk; split <;> rfl
@[simp] theorem advanceCk_c2Role : (advanceCk c s).c2Role = s.c2Role := by unfold advanceCk; split <;> rfl
@[simp] theorem advanceCk_tempo : (advanceCk c s).tempo = s.tempo := by unfold advanceCk; split <;> rfl
@[simp] theorem advanceCk_snap : (advanceCk c s).snap = s.snap := by unfold advanceCk; split <;> rfl
@[simp] theorem advanceCk_twin : (advanceCk c s).twin = s.twin := by unfold advanceCk; split <;> rfl
@[simp] theorem advanceCk_heron : (advanceCk c s).heron = s.heron := by unfold advanceCk; split <;> rfl
@[simp] theorem advanceCk_mbox : (advanceCk c s).mbox = s.mbox := by unfold advanceCk; split <;> rfl
@[simp] theorem advanceCk_plant : (advanceCk c s).plant = s.plant := by unfold advanceCk; split <;> rfl
@[simp] theorem advanceCk_queues : (advanceCk c s).queues = s.queues := by unfold advanceCk; split <;> rfl
@[simp] theorem advanceCk_flash : (advanceCk c s).flash = s.flash := by unfold advanceCk; split <;> rfl
@[simp] theorem advanceCk_flashNext : (advanceCk c s).flashNext = s.flashNext := by unfold advanceCk; split <;> rfl
@[simp] theorem advanceCk_ranks : (advanceCk c s).ranks = s.ranks := by unfold advanceCk; split <;> rfl
@[simp] theorem advanceCk_jobs : (advanceCk c s).jobs = s.jobs := by unfold advanceCk; split <;> rfl
@[simp] theorem advanceCk_images : (advanceCk c s).images = s.images := by unfold advanceCk; split <;> rfl
@[simp] theorem advanceCk_queries : (advanceCk c s).queries = s.queries := by unfold advanceCk; split <;> rfl
@[simp] theorem advanceCk_out : (advanceCk c s).out = s.out := by unfold advanceCk; split <;> rfl
@[simp] theorem advanceCk_free : (advanceCk c s).free = s.free := by unfold advanceCk; split <;> rfl

end

/-! ## logAdd -/

section

variable {k : LogKind} {source : Nat} {detail : List Nat} {s : State}

@[simp] theorem logAdd_pending : (logAdd k source detail s).pending = s.pending := by unfold logAdd; dsimp only; split <;> split <;> simp
@[simp] theorem logAdd_now : (logAdd k source detail s).now = s.now := by unfold logAdd; dsimp only; split <;> split <;> simp
@[simp] theorem logAdd_ck : (logAdd k source detail s).ck = s.ck := by unfold logAdd; dsimp only; split <;> split <;> simp
@[simp] theorem logAdd_fens : (logAdd k source detail s).fens = s.fens := by unfold logAdd; dsimp only; split <;> split <;> simp
@[simp] theorem logAdd_shadow : (logAdd k source detail s).shadow = s.shadow := by unfold logAdd; dsimp only; split <;> split <;> simp
@[simp] theorem logAdd_pendSet : (logAdd k source detail s).pendSet = s.pendSet := by unfold logAdd; dsimp only; split <;> split <;> simp
@[simp] theorem logAdd_latch : (logAdd k source detail s).latch = s.latch := by unfold logAdd; dsimp only; split <;> split <;> simp
@[simp] theorem logAdd_staleSeen : (logAdd k source detail s).staleSeen = s.staleSeen := by unfold logAdd; dsimp only; split <;> split <;> simp
@[simp] theorem logAdd_lodeSample : (logAdd k source detail s).lodeSample = s.lodeSample := by unfold logAdd; dsimp only; split <;> split <;> simp
@[simp] theorem logAdd_objSample : (logAdd k source detail s).objSample = s.objSample := by unfold logAdd; dsimp only; split <;> split <;> simp
@[simp] theorem logAdd_objStage : (logAdd k source detail s).objStage = s.objStage := by unfold logAdd; dsimp only; split <;> split <;> simp
@[simp] theorem logAdd_objOp : (logAdd k source detail s).objOp = s.objOp := by unfold logAdd; dsimp only; split <;> split <;> simp
@[simp] theorem logAdd_service : (logAdd k source detail s).service = s.service := by unfold logAdd; dsimp only; split <;> split <;> simp
@[simp] theorem logAdd_spareMap : (logAdd k source detail s).spareMap = s.spareMap := by unfold logAdd; dsimp only; split <;> split <;> simp
@[simp] theorem logAdd_mapGen : (logAdd k source detail s).mapGen = s.mapGen := by unfold logAdd; dsimp only; split <;> split <;> simp
@[simp] theorem logAdd_spareFens : (logAdd k source detail s).spareFens = s.spareFens := by unfold logAdd; dsimp only; split <;> split <;> simp
@[simp] theorem logAdd_spareTree : (logAdd k source detail s).spareTree = s.spareTree := by unfold logAdd; dsimp only; split <;> split <;> simp
@[simp] theorem logAdd_spareCore : (logAdd k source detail s).spareCore = s.spareCore := by unfold logAdd; dsimp only; split <;> split <;> simp
@[simp] theorem logAdd_spareWay : (logAdd k source detail s).spareWay = s.spareWay := by unfold logAdd; dsimp only; split <;> split <;> simp
@[simp] theorem logAdd_spareTa : (logAdd k source detail s).spareTa = s.spareTa := by unfold logAdd; dsimp only; split <;> split <;> simp
@[simp] theorem logAdd_retiredWay : (logAdd k source detail s).retiredWay = s.retiredWay := by unfold logAdd; dsimp only; split <;> split <;> simp
@[simp] theorem logAdd_wayPending : (logAdd k source detail s).wayPending = s.wayPending := by unfold logAdd; dsimp only; split <;> split <;> simp
@[simp] theorem logAdd_tierA : (logAdd k source detail s).tierA = s.tierA := by unfold logAdd; dsimp only; split <;> split <;> simp
@[simp] theorem logAdd_tierB : (logAdd k source detail s).tierB = s.tierB := by unfold logAdd; dsimp only; split <;> split <;> simp
@[simp] theorem logAdd_cache : (logAdd k source detail s).cache = s.cache := by unfold logAdd; dsimp only; split <;> split <;> simp
@[simp] theorem logAdd_objs : (logAdd k source detail s).objs = s.objs := by unfold logAdd; dsimp only; split <;> split <;> simp
@[simp] theorem logAdd_lodes : (logAdd k source detail s).lodes = s.lodes := by unfold logAdd; dsimp only; split <;> split <;> simp
@[simp] theorem logAdd_arms : (logAdd k source detail s).arms = s.arms := by unfold logAdd; dsimp only; split <;> split <;> simp
@[simp] theorem logAdd_plans : (logAdd k source detail s).plans = s.plans := by unfold logAdd; dsimp only; split <;> split <;> simp
@[simp] theorem logAdd_loads : (logAdd k source detail s).loads = s.loads := by unfold logAdd; dsimp only; split <;> split <;> simp
@[simp] theorem logAdd_streams : (logAdd k source detail s).streams = s.streams := by unfold logAdd; dsimp only; split <;> split <;> simp
@[simp] theorem logAdd_streamJobs : (logAdd k source detail s).streamJobs = s.streamJobs := by unfold logAdd; dsimp only; split <;> split <;> simp
@[simp] theorem logAdd_moves : (logAdd k source detail s).moves = s.moves := by unfold logAdd; dsimp only; split <;> split <;> simp
@[simp] theorem logAdd_ports : (logAdd k source detail s).ports = s.ports := by unfold logAdd; dsimp only; split <;> split <;> simp
@[simp] theorem logAdd_decisions : (logAdd k source detail s).decisions = s.decisions := by unfold logAdd; dsimp only; split <;> split <;> simp
@[simp] theorem logAdd_selPending : (logAdd k source detail s).selPending = s.selPending := by unfold logAdd; dsimp only; split <;> split <;> simp
@[simp] theorem logAdd_carryTree : (logAdd k source detail s).carryTree = s.carryTree := by unfold logAdd; dsimp only; split <;> split <;> simp
@[simp] theorem logAdd_leaves : (logAdd k source detail s).leaves = s.leaves := by unfold logAdd; dsimp only; split <;> split <;> simp
@[simp] theorem logAdd_treeBusy : (logAdd k source detail s).treeBusy = s.treeBusy := by unfold logAdd; dsimp only; split <;> split <;> simp
@[simp] theorem logAdd_ring : (logAdd k source detail s).ring = s.ring := by unfold logAdd; dsimp only; split <;> split <;> simp
@[simp] theorem logAdd_cws : (logAdd k source detail s).cws = s.cws := by unfold logAdd; dsimp only; split <;> split <;> simp
@[simp] theorem logAdd_ringId : (logAdd k source detail s).ringId = s.ringId := by unfold logAdd; dsimp only; split <;> split <;> simp
@[simp] theorem logAdd_ringPos : (logAdd k source detail s).ringPos = s.ringPos := by unfold logAdd; dsimp only; split <;> split <;> simp
@[simp] theorem logAdd_ringSize : (logAdd k source detail s).ringSize = s.ringSize := by unfold logAdd; dsimp only; split <;> split <;> simp
@[simp] theorem logAdd_c2Role : (logAdd k source detail s).c2Role = s.c2Role := by unfold logAdd; dsimp only; split <;> split <;> simp
@[simp] theorem logAdd_tempo : (logAdd k source detail s).tempo = s.tempo := by unfold logAdd; dsimp only; split <;> split <;> simp
@[simp] theorem logAdd_snap : (logAdd k source detail s).snap = s.snap := by unfold logAdd; dsimp only; split <;> split <;> simp
@[simp] theorem logAdd_twin : (logAdd k source detail s).twin = s.twin := by unfold logAdd; dsimp only; split <;> split <;> simp
@[simp] theorem logAdd_heron : (logAdd k source detail s).heron = s.heron := by unfold logAdd; dsimp only; split <;> split <;> simp
@[simp] theorem logAdd_mbox : (logAdd k source detail s).mbox = s.mbox := by unfold logAdd; dsimp only; split <;> split <;> simp
@[simp] theorem logAdd_plant : (logAdd k source detail s).plant = s.plant := by unfold logAdd; dsimp only; split <;> split <;> simp
@[simp] theorem logAdd_queues : (logAdd k source detail s).queues = s.queues := by unfold logAdd; dsimp only; split <;> split <;> simp
@[simp] theorem logAdd_flash : (logAdd k source detail s).flash = s.flash := by unfold logAdd; dsimp only; split <;> split <;> simp
@[simp] theorem logAdd_flashNext : (logAdd k source detail s).flashNext = s.flashNext := by unfold logAdd; dsimp only; split <;> split <;> simp
@[simp] theorem logAdd_ranks : (logAdd k source detail s).ranks = s.ranks := by unfold logAdd; dsimp only; split <;> split <;> simp
@[simp] theorem logAdd_jobs : (logAdd k source detail s).jobs = s.jobs := by unfold logAdd; dsimp only; split <;> split <;> simp
@[simp] theorem logAdd_images : (logAdd k source detail s).images = s.images := by unfold logAdd; dsimp only; split <;> split <;> simp
@[simp] theorem logAdd_queries : (logAdd k source detail s).queries = s.queries := by unfold logAdd; dsimp only; split <;> split <;> simp
@[simp] theorem logAdd_out : (logAdd k source detail s).out = s.out := by unfold logAdd; dsimp only; split <;> split <;> simp
@[simp] theorem logAdd_free : (logAdd k source detail s).free = s.free := by unfold logAdd; dsimp only; split <;> split <;> simp

end

/-! ## replyWith -/

section

variable {c : Cmd} {st : Status} {final : Bool} {res : BitVec 96} {s : State}

@[simp] theorem replyWith_pending : (replyWith c st final res s).pending = s.pending := by unfold replyWith; dsimp only; split <;> rfl
@[simp] theorem replyWith_now : (replyWith c st final res s).now = s.now := by unfold replyWith; dsimp only; split <;> rfl
@[simp] theorem replyWith_ck : (replyWith c st final res s).ck = s.ck := by unfold replyWith; dsimp only; split <;> rfl
@[simp] theorem replyWith_fens : (replyWith c st final res s).fens = s.fens := by unfold replyWith; dsimp only; split <;> rfl
@[simp] theorem replyWith_shadow : (replyWith c st final res s).shadow = s.shadow := by unfold replyWith; dsimp only; split <;> rfl
@[simp] theorem replyWith_pendSet : (replyWith c st final res s).pendSet = s.pendSet := by unfold replyWith; dsimp only; split <;> rfl
@[simp] theorem replyWith_latch : (replyWith c st final res s).latch = s.latch := by unfold replyWith; dsimp only; split <;> rfl
@[simp] theorem replyWith_staleSeen : (replyWith c st final res s).staleSeen = s.staleSeen := by unfold replyWith; dsimp only; split <;> rfl
@[simp] theorem replyWith_lodeSample : (replyWith c st final res s).lodeSample = s.lodeSample := by unfold replyWith; dsimp only; split <;> rfl
@[simp] theorem replyWith_objSample : (replyWith c st final res s).objSample = s.objSample := by unfold replyWith; dsimp only; split <;> rfl
@[simp] theorem replyWith_objStage : (replyWith c st final res s).objStage = s.objStage := by unfold replyWith; dsimp only; split <;> rfl
@[simp] theorem replyWith_objOp : (replyWith c st final res s).objOp = s.objOp := by unfold replyWith; dsimp only; split <;> rfl
@[simp] theorem replyWith_log : (replyWith c st final res s).log = s.log := by unfold replyWith; dsimp only; split <;> rfl
@[simp] theorem replyWith_service : (replyWith c st final res s).service = s.service := by unfold replyWith; dsimp only; split <;> rfl
@[simp] theorem replyWith_spareMap : (replyWith c st final res s).spareMap = s.spareMap := by unfold replyWith; dsimp only; split <;> rfl
@[simp] theorem replyWith_mapGen : (replyWith c st final res s).mapGen = s.mapGen := by unfold replyWith; dsimp only; split <;> rfl
@[simp] theorem replyWith_spareFens : (replyWith c st final res s).spareFens = s.spareFens := by unfold replyWith; dsimp only; split <;> rfl
@[simp] theorem replyWith_spareTree : (replyWith c st final res s).spareTree = s.spareTree := by unfold replyWith; dsimp only; split <;> rfl
@[simp] theorem replyWith_spareCore : (replyWith c st final res s).spareCore = s.spareCore := by unfold replyWith; dsimp only; split <;> rfl
@[simp] theorem replyWith_spareWay : (replyWith c st final res s).spareWay = s.spareWay := by unfold replyWith; dsimp only; split <;> rfl
@[simp] theorem replyWith_spareTa : (replyWith c st final res s).spareTa = s.spareTa := by unfold replyWith; dsimp only; split <;> rfl
@[simp] theorem replyWith_retiredWay : (replyWith c st final res s).retiredWay = s.retiredWay := by unfold replyWith; dsimp only; split <;> rfl
@[simp] theorem replyWith_wayPending : (replyWith c st final res s).wayPending = s.wayPending := by unfold replyWith; dsimp only; split <;> rfl
@[simp] theorem replyWith_tierA : (replyWith c st final res s).tierA = s.tierA := by unfold replyWith; dsimp only; split <;> rfl
@[simp] theorem replyWith_tierB : (replyWith c st final res s).tierB = s.tierB := by unfold replyWith; dsimp only; split <;> rfl
@[simp] theorem replyWith_cache : (replyWith c st final res s).cache = s.cache := by unfold replyWith; dsimp only; split <;> rfl
@[simp] theorem replyWith_objs : (replyWith c st final res s).objs = s.objs := by unfold replyWith; dsimp only; split <;> rfl
@[simp] theorem replyWith_lodes : (replyWith c st final res s).lodes = s.lodes := by unfold replyWith; dsimp only; split <;> rfl
@[simp] theorem replyWith_arms : (replyWith c st final res s).arms = s.arms := by unfold replyWith; dsimp only; split <;> rfl
@[simp] theorem replyWith_plans : (replyWith c st final res s).plans = s.plans := by unfold replyWith; dsimp only; split <;> rfl
@[simp] theorem replyWith_loads : (replyWith c st final res s).loads = s.loads := by unfold replyWith; dsimp only; split <;> rfl
@[simp] theorem replyWith_streams : (replyWith c st final res s).streams = s.streams := by unfold replyWith; dsimp only; split <;> rfl
@[simp] theorem replyWith_streamJobs : (replyWith c st final res s).streamJobs = s.streamJobs := by unfold replyWith; dsimp only; split <;> rfl
@[simp] theorem replyWith_moves : (replyWith c st final res s).moves = s.moves := by unfold replyWith; dsimp only; split <;> rfl
@[simp] theorem replyWith_ports : (replyWith c st final res s).ports = s.ports := by unfold replyWith; dsimp only; split <;> rfl
@[simp] theorem replyWith_decisions : (replyWith c st final res s).decisions = s.decisions := by unfold replyWith; dsimp only; split <;> rfl
@[simp] theorem replyWith_selPending : (replyWith c st final res s).selPending = s.selPending := by unfold replyWith; dsimp only; split <;> rfl
@[simp] theorem replyWith_carryTree : (replyWith c st final res s).carryTree = s.carryTree := by unfold replyWith; dsimp only; split <;> rfl
@[simp] theorem replyWith_leaves : (replyWith c st final res s).leaves = s.leaves := by unfold replyWith; dsimp only; split <;> rfl
@[simp] theorem replyWith_treeBusy : (replyWith c st final res s).treeBusy = s.treeBusy := by unfold replyWith; dsimp only; split <;> rfl
@[simp] theorem replyWith_ring : (replyWith c st final res s).ring = s.ring := by unfold replyWith; dsimp only; split <;> rfl
@[simp] theorem replyWith_cws : (replyWith c st final res s).cws = s.cws := by unfold replyWith; dsimp only; split <;> rfl
@[simp] theorem replyWith_ringId : (replyWith c st final res s).ringId = s.ringId := by unfold replyWith; dsimp only; split <;> rfl
@[simp] theorem replyWith_ringPos : (replyWith c st final res s).ringPos = s.ringPos := by unfold replyWith; dsimp only; split <;> rfl
@[simp] theorem replyWith_ringSize : (replyWith c st final res s).ringSize = s.ringSize := by unfold replyWith; dsimp only; split <;> rfl
@[simp] theorem replyWith_c2Role : (replyWith c st final res s).c2Role = s.c2Role := by unfold replyWith; dsimp only; split <;> rfl
@[simp] theorem replyWith_tempo : (replyWith c st final res s).tempo = s.tempo := by unfold replyWith; dsimp only; split <;> rfl
@[simp] theorem replyWith_snap : (replyWith c st final res s).snap = s.snap := by unfold replyWith; dsimp only; split <;> rfl
@[simp] theorem replyWith_twin : (replyWith c st final res s).twin = s.twin := by unfold replyWith; dsimp only; split <;> rfl
@[simp] theorem replyWith_heron : (replyWith c st final res s).heron = s.heron := by unfold replyWith; dsimp only; split <;> rfl
@[simp] theorem replyWith_mbox : (replyWith c st final res s).mbox = s.mbox := by unfold replyWith; dsimp only; split <;> rfl
@[simp] theorem replyWith_plant : (replyWith c st final res s).plant = s.plant := by unfold replyWith; dsimp only; split <;> rfl
@[simp] theorem replyWith_flash : (replyWith c st final res s).flash = s.flash := by unfold replyWith; dsimp only; split <;> rfl
@[simp] theorem replyWith_flashNext : (replyWith c st final res s).flashNext = s.flashNext := by unfold replyWith; dsimp only; split <;> rfl
@[simp] theorem replyWith_ranks : (replyWith c st final res s).ranks = s.ranks := by unfold replyWith; dsimp only; split <;> rfl
@[simp] theorem replyWith_jobs : (replyWith c st final res s).jobs = s.jobs := by unfold replyWith; dsimp only; split <;> rfl
@[simp] theorem replyWith_images : (replyWith c st final res s).images = s.images := by unfold replyWith; dsimp only; split <;> rfl
@[simp] theorem replyWith_queries : (replyWith c st final res s).queries = s.queries := by unfold replyWith; dsimp only; split <;> rfl
@[simp] theorem replyWith_free : (replyWith c st final res s).free = s.free := by unfold replyWith; dsimp only; split <;> rfl

end

/-! ## reply -/

section

variable {c : Cmd} {st : Status} {s : State}

@[simp] theorem reply_pending : (reply c st s).pending = s.pending := by unfold reply replyWith; dsimp only; split <;> rfl
@[simp] theorem reply_now : (reply c st s).now = s.now := by unfold reply replyWith; dsimp only; split <;> rfl
@[simp] theorem reply_ck : (reply c st s).ck = s.ck := by unfold reply replyWith; dsimp only; split <;> rfl
@[simp] theorem reply_fens : (reply c st s).fens = s.fens := by unfold reply replyWith; dsimp only; split <;> rfl
@[simp] theorem reply_shadow : (reply c st s).shadow = s.shadow := by unfold reply replyWith; dsimp only; split <;> rfl
@[simp] theorem reply_pendSet : (reply c st s).pendSet = s.pendSet := by unfold reply replyWith; dsimp only; split <;> rfl
@[simp] theorem reply_latch : (reply c st s).latch = s.latch := by unfold reply replyWith; dsimp only; split <;> rfl
@[simp] theorem reply_staleSeen : (reply c st s).staleSeen = s.staleSeen := by unfold reply replyWith; dsimp only; split <;> rfl
@[simp] theorem reply_lodeSample : (reply c st s).lodeSample = s.lodeSample := by unfold reply replyWith; dsimp only; split <;> rfl
@[simp] theorem reply_objSample : (reply c st s).objSample = s.objSample := by unfold reply replyWith; dsimp only; split <;> rfl
@[simp] theorem reply_objStage : (reply c st s).objStage = s.objStage := by unfold reply replyWith; dsimp only; split <;> rfl
@[simp] theorem reply_objOp : (reply c st s).objOp = s.objOp := by unfold reply replyWith; dsimp only; split <;> rfl
@[simp] theorem reply_log : (reply c st s).log = s.log := by unfold reply replyWith; dsimp only; split <;> rfl
@[simp] theorem reply_service : (reply c st s).service = s.service := by unfold reply replyWith; dsimp only; split <;> rfl
@[simp] theorem reply_spareMap : (reply c st s).spareMap = s.spareMap := by unfold reply replyWith; dsimp only; split <;> rfl
@[simp] theorem reply_mapGen : (reply c st s).mapGen = s.mapGen := by unfold reply replyWith; dsimp only; split <;> rfl
@[simp] theorem reply_spareFens : (reply c st s).spareFens = s.spareFens := by unfold reply replyWith; dsimp only; split <;> rfl
@[simp] theorem reply_spareTree : (reply c st s).spareTree = s.spareTree := by unfold reply replyWith; dsimp only; split <;> rfl
@[simp] theorem reply_spareCore : (reply c st s).spareCore = s.spareCore := by unfold reply replyWith; dsimp only; split <;> rfl
@[simp] theorem reply_spareWay : (reply c st s).spareWay = s.spareWay := by unfold reply replyWith; dsimp only; split <;> rfl
@[simp] theorem reply_spareTa : (reply c st s).spareTa = s.spareTa := by unfold reply replyWith; dsimp only; split <;> rfl
@[simp] theorem reply_retiredWay : (reply c st s).retiredWay = s.retiredWay := by unfold reply replyWith; dsimp only; split <;> rfl
@[simp] theorem reply_wayPending : (reply c st s).wayPending = s.wayPending := by unfold reply replyWith; dsimp only; split <;> rfl
@[simp] theorem reply_tierA : (reply c st s).tierA = s.tierA := by unfold reply replyWith; dsimp only; split <;> rfl
@[simp] theorem reply_tierB : (reply c st s).tierB = s.tierB := by unfold reply replyWith; dsimp only; split <;> rfl
@[simp] theorem reply_cache : (reply c st s).cache = s.cache := by unfold reply replyWith; dsimp only; split <;> rfl
@[simp] theorem reply_objs : (reply c st s).objs = s.objs := by unfold reply replyWith; dsimp only; split <;> rfl
@[simp] theorem reply_lodes : (reply c st s).lodes = s.lodes := by unfold reply replyWith; dsimp only; split <;> rfl
@[simp] theorem reply_arms : (reply c st s).arms = s.arms := by unfold reply replyWith; dsimp only; split <;> rfl
@[simp] theorem reply_plans : (reply c st s).plans = s.plans := by unfold reply replyWith; dsimp only; split <;> rfl
@[simp] theorem reply_loads : (reply c st s).loads = s.loads := by unfold reply replyWith; dsimp only; split <;> rfl
@[simp] theorem reply_streams : (reply c st s).streams = s.streams := by unfold reply replyWith; dsimp only; split <;> rfl
@[simp] theorem reply_streamJobs : (reply c st s).streamJobs = s.streamJobs := by unfold reply replyWith; dsimp only; split <;> rfl
@[simp] theorem reply_moves : (reply c st s).moves = s.moves := by unfold reply replyWith; dsimp only; split <;> rfl
@[simp] theorem reply_ports : (reply c st s).ports = s.ports := by unfold reply replyWith; dsimp only; split <;> rfl
@[simp] theorem reply_decisions : (reply c st s).decisions = s.decisions := by unfold reply replyWith; dsimp only; split <;> rfl
@[simp] theorem reply_selPending : (reply c st s).selPending = s.selPending := by unfold reply replyWith; dsimp only; split <;> rfl
@[simp] theorem reply_carryTree : (reply c st s).carryTree = s.carryTree := by unfold reply replyWith; dsimp only; split <;> rfl
@[simp] theorem reply_leaves : (reply c st s).leaves = s.leaves := by unfold reply replyWith; dsimp only; split <;> rfl
@[simp] theorem reply_treeBusy : (reply c st s).treeBusy = s.treeBusy := by unfold reply replyWith; dsimp only; split <;> rfl
@[simp] theorem reply_ring : (reply c st s).ring = s.ring := by unfold reply replyWith; dsimp only; split <;> rfl
@[simp] theorem reply_cws : (reply c st s).cws = s.cws := by unfold reply replyWith; dsimp only; split <;> rfl
@[simp] theorem reply_ringId : (reply c st s).ringId = s.ringId := by unfold reply replyWith; dsimp only; split <;> rfl
@[simp] theorem reply_ringPos : (reply c st s).ringPos = s.ringPos := by unfold reply replyWith; dsimp only; split <;> rfl
@[simp] theorem reply_ringSize : (reply c st s).ringSize = s.ringSize := by unfold reply replyWith; dsimp only; split <;> rfl
@[simp] theorem reply_c2Role : (reply c st s).c2Role = s.c2Role := by unfold reply replyWith; dsimp only; split <;> rfl
@[simp] theorem reply_tempo : (reply c st s).tempo = s.tempo := by unfold reply replyWith; dsimp only; split <;> rfl
@[simp] theorem reply_snap : (reply c st s).snap = s.snap := by unfold reply replyWith; dsimp only; split <;> rfl
@[simp] theorem reply_twin : (reply c st s).twin = s.twin := by unfold reply replyWith; dsimp only; split <;> rfl
@[simp] theorem reply_heron : (reply c st s).heron = s.heron := by unfold reply replyWith; dsimp only; split <;> rfl
@[simp] theorem reply_mbox : (reply c st s).mbox = s.mbox := by unfold reply replyWith; dsimp only; split <;> rfl
@[simp] theorem reply_plant : (reply c st s).plant = s.plant := by unfold reply replyWith; dsimp only; split <;> rfl
@[simp] theorem reply_flash : (reply c st s).flash = s.flash := by unfold reply replyWith; dsimp only; split <;> rfl
@[simp] theorem reply_flashNext : (reply c st s).flashNext = s.flashNext := by unfold reply replyWith; dsimp only; split <;> rfl
@[simp] theorem reply_ranks : (reply c st s).ranks = s.ranks := by unfold reply replyWith; dsimp only; split <;> rfl
@[simp] theorem reply_jobs : (reply c st s).jobs = s.jobs := by unfold reply replyWith; dsimp only; split <;> rfl
@[simp] theorem reply_images : (reply c st s).images = s.images := by unfold reply replyWith; dsimp only; split <;> rfl
@[simp] theorem reply_queries : (reply c st s).queries = s.queries := by unfold reply replyWith; dsimp only; split <;> rfl
@[simp] theorem reply_free : (reply c st s).free = s.free := by unfold reply replyWith; dsimp only; split <;> rfl

end

/-! ## stopQueue -/

section

variable {q : Nat} {reason : BitVec 2} {s : State}

@[simp] theorem stopQueue_pending : (stopQueue q reason s).pending = s.pending := rfl
@[simp] theorem stopQueue_now : (stopQueue q reason s).now = s.now := rfl
@[simp] theorem stopQueue_ck : (stopQueue q reason s).ck = s.ck := rfl
@[simp] theorem stopQueue_fens : (stopQueue q reason s).fens = s.fens := rfl
@[simp] theorem stopQueue_shadow : (stopQueue q reason s).shadow = s.shadow := rfl
@[simp] theorem stopQueue_pendSet : (stopQueue q reason s).pendSet = s.pendSet := rfl
@[simp] theorem stopQueue_latch : (stopQueue q reason s).latch = s.latch := rfl
@[simp] theorem stopQueue_staleSeen : (stopQueue q reason s).staleSeen = s.staleSeen := rfl
@[simp] theorem stopQueue_lodeSample : (stopQueue q reason s).lodeSample = s.lodeSample := rfl
@[simp] theorem stopQueue_objSample : (stopQueue q reason s).objSample = s.objSample := rfl
@[simp] theorem stopQueue_objStage : (stopQueue q reason s).objStage = s.objStage := rfl
@[simp] theorem stopQueue_objOp : (stopQueue q reason s).objOp = s.objOp := rfl
@[simp] theorem stopQueue_log : (stopQueue q reason s).log = s.log := rfl
@[simp] theorem stopQueue_service : (stopQueue q reason s).service = s.service := rfl
@[simp] theorem stopQueue_spareMap : (stopQueue q reason s).spareMap = s.spareMap := rfl
@[simp] theorem stopQueue_mapGen : (stopQueue q reason s).mapGen = s.mapGen := rfl
@[simp] theorem stopQueue_spareFens : (stopQueue q reason s).spareFens = s.spareFens := rfl
@[simp] theorem stopQueue_spareTree : (stopQueue q reason s).spareTree = s.spareTree := rfl
@[simp] theorem stopQueue_spareCore : (stopQueue q reason s).spareCore = s.spareCore := rfl
@[simp] theorem stopQueue_spareWay : (stopQueue q reason s).spareWay = s.spareWay := rfl
@[simp] theorem stopQueue_spareTa : (stopQueue q reason s).spareTa = s.spareTa := rfl
@[simp] theorem stopQueue_retiredWay : (stopQueue q reason s).retiredWay = s.retiredWay := rfl
@[simp] theorem stopQueue_wayPending : (stopQueue q reason s).wayPending = s.wayPending := rfl
@[simp] theorem stopQueue_tierA : (stopQueue q reason s).tierA = s.tierA := rfl
@[simp] theorem stopQueue_tierB : (stopQueue q reason s).tierB = s.tierB := rfl
@[simp] theorem stopQueue_cache : (stopQueue q reason s).cache = s.cache := rfl
@[simp] theorem stopQueue_objs : (stopQueue q reason s).objs = s.objs := rfl
@[simp] theorem stopQueue_lodes : (stopQueue q reason s).lodes = s.lodes := rfl
@[simp] theorem stopQueue_arms : (stopQueue q reason s).arms = s.arms := rfl
@[simp] theorem stopQueue_plans : (stopQueue q reason s).plans = s.plans := rfl
@[simp] theorem stopQueue_loads : (stopQueue q reason s).loads = s.loads := rfl
@[simp] theorem stopQueue_streams : (stopQueue q reason s).streams = s.streams := rfl
@[simp] theorem stopQueue_streamJobs : (stopQueue q reason s).streamJobs = s.streamJobs := rfl
@[simp] theorem stopQueue_moves : (stopQueue q reason s).moves = s.moves := rfl
@[simp] theorem stopQueue_ports : (stopQueue q reason s).ports = s.ports := rfl
@[simp] theorem stopQueue_decisions : (stopQueue q reason s).decisions = s.decisions := rfl
@[simp] theorem stopQueue_selPending : (stopQueue q reason s).selPending = s.selPending := rfl
@[simp] theorem stopQueue_carryTree : (stopQueue q reason s).carryTree = s.carryTree := rfl
@[simp] theorem stopQueue_leaves : (stopQueue q reason s).leaves = s.leaves := rfl
@[simp] theorem stopQueue_treeBusy : (stopQueue q reason s).treeBusy = s.treeBusy := rfl
@[simp] theorem stopQueue_ring : (stopQueue q reason s).ring = s.ring := rfl
@[simp] theorem stopQueue_cws : (stopQueue q reason s).cws = s.cws := rfl
@[simp] theorem stopQueue_ringId : (stopQueue q reason s).ringId = s.ringId := rfl
@[simp] theorem stopQueue_ringPos : (stopQueue q reason s).ringPos = s.ringPos := rfl
@[simp] theorem stopQueue_ringSize : (stopQueue q reason s).ringSize = s.ringSize := rfl
@[simp] theorem stopQueue_c2Role : (stopQueue q reason s).c2Role = s.c2Role := rfl
@[simp] theorem stopQueue_tempo : (stopQueue q reason s).tempo = s.tempo := rfl
@[simp] theorem stopQueue_snap : (stopQueue q reason s).snap = s.snap := rfl
@[simp] theorem stopQueue_twin : (stopQueue q reason s).twin = s.twin := rfl
@[simp] theorem stopQueue_heron : (stopQueue q reason s).heron = s.heron := rfl
@[simp] theorem stopQueue_mbox : (stopQueue q reason s).mbox = s.mbox := rfl
@[simp] theorem stopQueue_plant : (stopQueue q reason s).plant = s.plant := rfl
@[simp] theorem stopQueue_flash : (stopQueue q reason s).flash = s.flash := rfl
@[simp] theorem stopQueue_flashNext : (stopQueue q reason s).flashNext = s.flashNext := rfl
@[simp] theorem stopQueue_ranks : (stopQueue q reason s).ranks = s.ranks := rfl
@[simp] theorem stopQueue_jobs : (stopQueue q reason s).jobs = s.jobs := rfl
@[simp] theorem stopQueue_images : (stopQueue q reason s).images = s.images := rfl
@[simp] theorem stopQueue_queries : (stopQueue q reason s).queries = s.queries := rfl
@[simp] theorem stopQueue_out : (stopQueue q reason s).out = s.out := rfl
@[simp] theorem stopQueue_free : (stopQueue q reason s).free = s.free := rfl

end

/-! ## spend -/

section

variable {p pj : Nat} {s : State}

@[simp] theorem spend_pending : (spend p pj s).pending = s.pending := rfl
@[simp] theorem spend_now : (spend p pj s).now = s.now := rfl
@[simp] theorem spend_ck : (spend p pj s).ck = s.ck := rfl
@[simp] theorem spend_regs : (spend p pj s).regs = s.regs := rfl
@[simp] theorem spend_events : (spend p pj s).events = s.events := rfl
@[simp] theorem spend_shadow : (spend p pj s).shadow = s.shadow := rfl
@[simp] theorem spend_pendSet : (spend p pj s).pendSet = s.pendSet := rfl
@[simp] theorem spend_latch : (spend p pj s).latch = s.latch := rfl
@[simp] theorem spend_staleSeen : (spend p pj s).staleSeen = s.staleSeen := rfl
@[simp] theorem spend_lodeSample : (spend p pj s).lodeSample = s.lodeSample := rfl
@[simp] theorem spend_objSample : (spend p pj s).objSample = s.objSample := rfl
@[simp] theorem spend_objStage : (spend p pj s).objStage = s.objStage := rfl
@[simp] theorem spend_objOp : (spend p pj s).objOp = s.objOp := rfl
@[simp] theorem spend_log : (spend p pj s).log = s.log := rfl
@[simp] theorem spend_service : (spend p pj s).service = s.service := rfl
@[simp] theorem spend_spareMap : (spend p pj s).spareMap = s.spareMap := rfl
@[simp] theorem spend_mapGen : (spend p pj s).mapGen = s.mapGen := rfl
@[simp] theorem spend_spareFens : (spend p pj s).spareFens = s.spareFens := rfl
@[simp] theorem spend_spareTree : (spend p pj s).spareTree = s.spareTree := rfl
@[simp] theorem spend_spareCore : (spend p pj s).spareCore = s.spareCore := rfl
@[simp] theorem spend_spareWay : (spend p pj s).spareWay = s.spareWay := rfl
@[simp] theorem spend_spareTa : (spend p pj s).spareTa = s.spareTa := rfl
@[simp] theorem spend_retiredWay : (spend p pj s).retiredWay = s.retiredWay := rfl
@[simp] theorem spend_wayPending : (spend p pj s).wayPending = s.wayPending := rfl
@[simp] theorem spend_tierA : (spend p pj s).tierA = s.tierA := rfl
@[simp] theorem spend_tierB : (spend p pj s).tierB = s.tierB := rfl
@[simp] theorem spend_cache : (spend p pj s).cache = s.cache := rfl
@[simp] theorem spend_objs : (spend p pj s).objs = s.objs := rfl
@[simp] theorem spend_lodes : (spend p pj s).lodes = s.lodes := rfl
@[simp] theorem spend_arms : (spend p pj s).arms = s.arms := rfl
@[simp] theorem spend_plans : (spend p pj s).plans = s.plans := rfl
@[simp] theorem spend_loads : (spend p pj s).loads = s.loads := rfl
@[simp] theorem spend_streams : (spend p pj s).streams = s.streams := rfl
@[simp] theorem spend_streamJobs : (spend p pj s).streamJobs = s.streamJobs := rfl
@[simp] theorem spend_moves : (spend p pj s).moves = s.moves := rfl
@[simp] theorem spend_ports : (spend p pj s).ports = s.ports := rfl
@[simp] theorem spend_decisions : (spend p pj s).decisions = s.decisions := rfl
@[simp] theorem spend_selPending : (spend p pj s).selPending = s.selPending := rfl
@[simp] theorem spend_carryTree : (spend p pj s).carryTree = s.carryTree := rfl
@[simp] theorem spend_leaves : (spend p pj s).leaves = s.leaves := rfl
@[simp] theorem spend_treeBusy : (spend p pj s).treeBusy = s.treeBusy := rfl
@[simp] theorem spend_ring : (spend p pj s).ring = s.ring := rfl
@[simp] theorem spend_cws : (spend p pj s).cws = s.cws := rfl
@[simp] theorem spend_ringId : (spend p pj s).ringId = s.ringId := rfl
@[simp] theorem spend_ringPos : (spend p pj s).ringPos = s.ringPos := rfl
@[simp] theorem spend_ringSize : (spend p pj s).ringSize = s.ringSize := rfl
@[simp] theorem spend_c2Role : (spend p pj s).c2Role = s.c2Role := rfl
@[simp] theorem spend_tempo : (spend p pj s).tempo = s.tempo := rfl
@[simp] theorem spend_snap : (spend p pj s).snap = s.snap := rfl
@[simp] theorem spend_twin : (spend p pj s).twin = s.twin := rfl
@[simp] theorem spend_heron : (spend p pj s).heron = s.heron := rfl
@[simp] theorem spend_mbox : (spend p pj s).mbox = s.mbox := rfl
@[simp] theorem spend_plant : (spend p pj s).plant = s.plant := rfl
@[simp] theorem spend_queues : (spend p pj s).queues = s.queues := rfl
@[simp] theorem spend_flash : (spend p pj s).flash = s.flash := rfl
@[simp] theorem spend_flashNext : (spend p pj s).flashNext = s.flashNext := rfl
@[simp] theorem spend_ranks : (spend p pj s).ranks = s.ranks := rfl
@[simp] theorem spend_jobs : (spend p pj s).jobs = s.jobs := rfl
@[simp] theorem spend_images : (spend p pj s).images = s.images := rfl
@[simp] theorem spend_queries : (spend p pj s).queries = s.queries := rfl
@[simp] theorem spend_out : (spend p pj s).out = s.out := rfl
@[simp] theorem spend_free : (spend p pj s).free = s.free := rfl

end

/-! ## addPend -/

section

variable {p : Nat} {w : PendWr} {s : State}

@[simp] theorem addPend_pending : (addPend p w s).pending = s.pending := rfl
@[simp] theorem addPend_now : (addPend p w s).now = s.now := rfl
@[simp] theorem addPend_ck : (addPend p w s).ck = s.ck := rfl
@[simp] theorem addPend_regs : (addPend p w s).regs = s.regs := rfl
@[simp] theorem addPend_events : (addPend p w s).events = s.events := rfl
@[simp] theorem addPend_shadow : (addPend p w s).shadow = s.shadow := rfl
@[simp] theorem addPend_pendSet : (addPend p w s).pendSet = s.pendSet := rfl
@[simp] theorem addPend_latch : (addPend p w s).latch = s.latch := rfl
@[simp] theorem addPend_staleSeen : (addPend p w s).staleSeen = s.staleSeen := rfl
@[simp] theorem addPend_lodeSample : (addPend p w s).lodeSample = s.lodeSample := rfl
@[simp] theorem addPend_objSample : (addPend p w s).objSample = s.objSample := rfl
@[simp] theorem addPend_objStage : (addPend p w s).objStage = s.objStage := rfl
@[simp] theorem addPend_objOp : (addPend p w s).objOp = s.objOp := rfl
@[simp] theorem addPend_log : (addPend p w s).log = s.log := rfl
@[simp] theorem addPend_service : (addPend p w s).service = s.service := rfl
@[simp] theorem addPend_spareMap : (addPend p w s).spareMap = s.spareMap := rfl
@[simp] theorem addPend_mapGen : (addPend p w s).mapGen = s.mapGen := rfl
@[simp] theorem addPend_spareFens : (addPend p w s).spareFens = s.spareFens := rfl
@[simp] theorem addPend_spareTree : (addPend p w s).spareTree = s.spareTree := rfl
@[simp] theorem addPend_spareCore : (addPend p w s).spareCore = s.spareCore := rfl
@[simp] theorem addPend_spareWay : (addPend p w s).spareWay = s.spareWay := rfl
@[simp] theorem addPend_spareTa : (addPend p w s).spareTa = s.spareTa := rfl
@[simp] theorem addPend_retiredWay : (addPend p w s).retiredWay = s.retiredWay := rfl
@[simp] theorem addPend_wayPending : (addPend p w s).wayPending = s.wayPending := rfl
@[simp] theorem addPend_tierA : (addPend p w s).tierA = s.tierA := rfl
@[simp] theorem addPend_tierB : (addPend p w s).tierB = s.tierB := rfl
@[simp] theorem addPend_cache : (addPend p w s).cache = s.cache := rfl
@[simp] theorem addPend_objs : (addPend p w s).objs = s.objs := rfl
@[simp] theorem addPend_lodes : (addPend p w s).lodes = s.lodes := rfl
@[simp] theorem addPend_arms : (addPend p w s).arms = s.arms := rfl
@[simp] theorem addPend_plans : (addPend p w s).plans = s.plans := rfl
@[simp] theorem addPend_loads : (addPend p w s).loads = s.loads := rfl
@[simp] theorem addPend_streams : (addPend p w s).streams = s.streams := rfl
@[simp] theorem addPend_streamJobs : (addPend p w s).streamJobs = s.streamJobs := rfl
@[simp] theorem addPend_moves : (addPend p w s).moves = s.moves := rfl
@[simp] theorem addPend_ports : (addPend p w s).ports = s.ports := rfl
@[simp] theorem addPend_decisions : (addPend p w s).decisions = s.decisions := rfl
@[simp] theorem addPend_selPending : (addPend p w s).selPending = s.selPending := rfl
@[simp] theorem addPend_carryTree : (addPend p w s).carryTree = s.carryTree := rfl
@[simp] theorem addPend_leaves : (addPend p w s).leaves = s.leaves := rfl
@[simp] theorem addPend_treeBusy : (addPend p w s).treeBusy = s.treeBusy := rfl
@[simp] theorem addPend_ring : (addPend p w s).ring = s.ring := rfl
@[simp] theorem addPend_cws : (addPend p w s).cws = s.cws := rfl
@[simp] theorem addPend_ringId : (addPend p w s).ringId = s.ringId := rfl
@[simp] theorem addPend_ringPos : (addPend p w s).ringPos = s.ringPos := rfl
@[simp] theorem addPend_ringSize : (addPend p w s).ringSize = s.ringSize := rfl
@[simp] theorem addPend_c2Role : (addPend p w s).c2Role = s.c2Role := rfl
@[simp] theorem addPend_tempo : (addPend p w s).tempo = s.tempo := rfl
@[simp] theorem addPend_snap : (addPend p w s).snap = s.snap := rfl
@[simp] theorem addPend_twin : (addPend p w s).twin = s.twin := rfl
@[simp] theorem addPend_heron : (addPend p w s).heron = s.heron := rfl
@[simp] theorem addPend_mbox : (addPend p w s).mbox = s.mbox := rfl
@[simp] theorem addPend_plant : (addPend p w s).plant = s.plant := rfl
@[simp] theorem addPend_queues : (addPend p w s).queues = s.queues := rfl
@[simp] theorem addPend_flash : (addPend p w s).flash = s.flash := rfl
@[simp] theorem addPend_flashNext : (addPend p w s).flashNext = s.flashNext := rfl
@[simp] theorem addPend_ranks : (addPend p w s).ranks = s.ranks := rfl
@[simp] theorem addPend_jobs : (addPend p w s).jobs = s.jobs := rfl
@[simp] theorem addPend_images : (addPend p w s).images = s.images := rfl
@[simp] theorem addPend_queries : (addPend p w s).queries = s.queries := rfl
@[simp] theorem addPend_out : (addPend p w s).out = s.out := rfl
@[simp] theorem addPend_free : (addPend p w s).free = s.free := rfl

end

/-! ## markSlot -/

section

variable {p slot : Nat} {s : State}

@[simp] theorem markSlot_pending : (markSlot p slot s).pending = s.pending := rfl
@[simp] theorem markSlot_now : (markSlot p slot s).now = s.now := rfl
@[simp] theorem markSlot_ck : (markSlot p slot s).ck = s.ck := rfl
@[simp] theorem markSlot_regs : (markSlot p slot s).regs = s.regs := rfl
@[simp] theorem markSlot_events : (markSlot p slot s).events = s.events := rfl
@[simp] theorem markSlot_shadow : (markSlot p slot s).shadow = s.shadow := rfl
@[simp] theorem markSlot_pendSet : (markSlot p slot s).pendSet = s.pendSet := rfl
@[simp] theorem markSlot_latch : (markSlot p slot s).latch = s.latch := rfl
@[simp] theorem markSlot_staleSeen : (markSlot p slot s).staleSeen = s.staleSeen := rfl
@[simp] theorem markSlot_lodeSample : (markSlot p slot s).lodeSample = s.lodeSample := rfl
@[simp] theorem markSlot_objSample : (markSlot p slot s).objSample = s.objSample := rfl
@[simp] theorem markSlot_objStage : (markSlot p slot s).objStage = s.objStage := rfl
@[simp] theorem markSlot_objOp : (markSlot p slot s).objOp = s.objOp := rfl
@[simp] theorem markSlot_log : (markSlot p slot s).log = s.log := rfl
@[simp] theorem markSlot_service : (markSlot p slot s).service = s.service := rfl
@[simp] theorem markSlot_spareMap : (markSlot p slot s).spareMap = s.spareMap := rfl
@[simp] theorem markSlot_mapGen : (markSlot p slot s).mapGen = s.mapGen := rfl
@[simp] theorem markSlot_spareFens : (markSlot p slot s).spareFens = s.spareFens := rfl
@[simp] theorem markSlot_spareTree : (markSlot p slot s).spareTree = s.spareTree := rfl
@[simp] theorem markSlot_spareCore : (markSlot p slot s).spareCore = s.spareCore := rfl
@[simp] theorem markSlot_spareWay : (markSlot p slot s).spareWay = s.spareWay := rfl
@[simp] theorem markSlot_spareTa : (markSlot p slot s).spareTa = s.spareTa := rfl
@[simp] theorem markSlot_retiredWay : (markSlot p slot s).retiredWay = s.retiredWay := rfl
@[simp] theorem markSlot_wayPending : (markSlot p slot s).wayPending = s.wayPending := rfl
@[simp] theorem markSlot_tierA : (markSlot p slot s).tierA = s.tierA := rfl
@[simp] theorem markSlot_tierB : (markSlot p slot s).tierB = s.tierB := rfl
@[simp] theorem markSlot_cache : (markSlot p slot s).cache = s.cache := rfl
@[simp] theorem markSlot_objs : (markSlot p slot s).objs = s.objs := rfl
@[simp] theorem markSlot_lodes : (markSlot p slot s).lodes = s.lodes := rfl
@[simp] theorem markSlot_arms : (markSlot p slot s).arms = s.arms := rfl
@[simp] theorem markSlot_plans : (markSlot p slot s).plans = s.plans := rfl
@[simp] theorem markSlot_loads : (markSlot p slot s).loads = s.loads := rfl
@[simp] theorem markSlot_streams : (markSlot p slot s).streams = s.streams := rfl
@[simp] theorem markSlot_streamJobs : (markSlot p slot s).streamJobs = s.streamJobs := rfl
@[simp] theorem markSlot_moves : (markSlot p slot s).moves = s.moves := rfl
@[simp] theorem markSlot_ports : (markSlot p slot s).ports = s.ports := rfl
@[simp] theorem markSlot_decisions : (markSlot p slot s).decisions = s.decisions := rfl
@[simp] theorem markSlot_selPending : (markSlot p slot s).selPending = s.selPending := rfl
@[simp] theorem markSlot_carryTree : (markSlot p slot s).carryTree = s.carryTree := rfl
@[simp] theorem markSlot_leaves : (markSlot p slot s).leaves = s.leaves := rfl
@[simp] theorem markSlot_treeBusy : (markSlot p slot s).treeBusy = s.treeBusy := rfl
@[simp] theorem markSlot_ring : (markSlot p slot s).ring = s.ring := rfl
@[simp] theorem markSlot_cws : (markSlot p slot s).cws = s.cws := rfl
@[simp] theorem markSlot_ringId : (markSlot p slot s).ringId = s.ringId := rfl
@[simp] theorem markSlot_ringPos : (markSlot p slot s).ringPos = s.ringPos := rfl
@[simp] theorem markSlot_ringSize : (markSlot p slot s).ringSize = s.ringSize := rfl
@[simp] theorem markSlot_c2Role : (markSlot p slot s).c2Role = s.c2Role := rfl
@[simp] theorem markSlot_tempo : (markSlot p slot s).tempo = s.tempo := rfl
@[simp] theorem markSlot_snap : (markSlot p slot s).snap = s.snap := rfl
@[simp] theorem markSlot_twin : (markSlot p slot s).twin = s.twin := rfl
@[simp] theorem markSlot_heron : (markSlot p slot s).heron = s.heron := rfl
@[simp] theorem markSlot_mbox : (markSlot p slot s).mbox = s.mbox := rfl
@[simp] theorem markSlot_plant : (markSlot p slot s).plant = s.plant := rfl
@[simp] theorem markSlot_queues : (markSlot p slot s).queues = s.queues := rfl
@[simp] theorem markSlot_flash : (markSlot p slot s).flash = s.flash := rfl
@[simp] theorem markSlot_flashNext : (markSlot p slot s).flashNext = s.flashNext := rfl
@[simp] theorem markSlot_ranks : (markSlot p slot s).ranks = s.ranks := rfl
@[simp] theorem markSlot_jobs : (markSlot p slot s).jobs = s.jobs := rfl
@[simp] theorem markSlot_images : (markSlot p slot s).images = s.images := rfl
@[simp] theorem markSlot_queries : (markSlot p slot s).queries = s.queries := rfl
@[simp] theorem markSlot_out : (markSlot p slot s).out = s.out := rfl
@[simp] theorem markSlot_free : (markSlot p slot s).free = s.free := rfl

end

/-! ## Readers -/

section

variable {off : Nat} {v : Word} {s : State} {x y z : Nat}

@[simp] theorem fenOf_setReg : fenOf (setReg off v s) x = fenOf s x := rfl
@[simp] theorem cwOf_setReg : cwOf (setReg off v s) x = cwOf s x := rfl
@[simp] theorem lodeOf_setReg : lodeOf (setReg off v s) x = lodeOf s x := rfl
@[simp] theorem objOf_setReg : objOf (setReg off v s) x = objOf s x := rfl
@[simp] theorem streamOf_setReg : streamOf (setReg off v s) x = streamOf s x := rfl
@[simp] theorem planOf_setReg : planOf (setReg off v s) x = planOf s x := rfl
@[simp] theorem queueOf_setReg : queueOf (setReg off v s) x = queueOf s x := rfl
@[simp] theorem pfenOf_setReg : pfenOf (setReg off v s) x = pfenOf s x := rfl
@[simp] theorem logicalOf_setReg : logicalOf (setReg off v s) x = logicalOf s x := rfl
@[simp] theorem rankOf_setReg : rankOf (setReg off v s) x = rankOf s x := rfl
@[simp] theorem flashOf_setReg : flashOf (setReg off v s) x = flashOf s x := rfl
@[simp] theorem ckRuns_setReg : ckRuns (setReg off v s) = ckRuns s := rfl
@[simp] theorem tempoStopped_setReg : tempoStopped (setReg off v s) = tempoStopped s := rfl
@[simp] theorem plansOf_setReg : plansOf (setReg off v s) = plansOf s := rfl

end

section

variable {p o : Nat} {v : Word} {s : State} {x y z : Nat}

@[simp] theorem fenOf_setFenReg : fenOf (setFenReg p o v s) x = fenOf s x := rfl
@[simp] theorem cwOf_setFenReg : cwOf (setFenReg p o v s) x = cwOf s x := rfl
@[simp] theorem lodeOf_setFenReg : lodeOf (setFenReg p o v s) x = lodeOf s x := rfl
@[simp] theorem objOf_setFenReg : objOf (setFenReg p o v s) x = objOf s x := rfl
@[simp] theorem streamOf_setFenReg : streamOf (setFenReg p o v s) x = streamOf s x := rfl
@[simp] theorem planOf_setFenReg : planOf (setFenReg p o v s) x = planOf s x := rfl
@[simp] theorem queueOf_setFenReg : queueOf (setFenReg p o v s) x = queueOf s x := rfl
@[simp] theorem pfenOf_setFenReg : pfenOf (setFenReg p o v s) x = pfenOf s x := rfl
@[simp] theorem logicalOf_setFenReg : logicalOf (setFenReg p o v s) x = logicalOf s x := rfl
@[simp] theorem rankOf_setFenReg : rankOf (setFenReg p o v s) x = rankOf s x := rfl
@[simp] theorem flashOf_setFenReg : flashOf (setFenReg p o v s) x = flashOf s x := rfl
@[simp] theorem ckRuns_setFenReg : ckRuns (setFenReg p o v s) = ckRuns s := rfl
@[simp] theorem tempoStopped_setFenReg : tempoStopped (setFenReg p o v s) = tempoStopped s := rfl
@[simp] theorem plansOf_setFenReg : plansOf (setFenReg p o v s) = plansOf s := rfl

end

section

variable {off : Nat} {v : Word × Word} {s : State} {x y z : Nat}

@[simp] theorem reg_noteEvents : reg (noteEvents off v s) x = reg s x := rfl
@[simp] theorem regBit_noteEvents : regBit (noteEvents off v s) x y = regBit s x y := rfl
@[simp] theorem regBits_noteEvents : regBits (noteEvents off v s) x y z = regBits s x y z := rfl
@[simp] theorem fenReg_noteEvents : fenReg (noteEvents off v s) x y = fenReg s x y := rfl
@[simp] theorem fenOf_noteEvents : fenOf (noteEvents off v s) x = fenOf s x := rfl
@[simp] theorem cwOf_noteEvents : cwOf (noteEvents off v s) x = cwOf s x := rfl
@[simp] theorem lodeOf_noteEvents : lodeOf (noteEvents off v s) x = lodeOf s x := rfl
@[simp] theorem objOf_noteEvents : objOf (noteEvents off v s) x = objOf s x := rfl
@[simp] theorem streamOf_noteEvents : streamOf (noteEvents off v s) x = streamOf s x := rfl
@[simp] theorem planOf_noteEvents : planOf (noteEvents off v s) x = planOf s x := rfl
@[simp] theorem queueOf_noteEvents : queueOf (noteEvents off v s) x = queueOf s x := rfl
@[simp] theorem pfenOf_noteEvents : pfenOf (noteEvents off v s) x = pfenOf s x := rfl
@[simp] theorem logicalOf_noteEvents : logicalOf (noteEvents off v s) x = logicalOf s x := rfl
@[simp] theorem rankOf_noteEvents : rankOf (noteEvents off v s) x = rankOf s x := rfl
@[simp] theorem flashOf_noteEvents : flashOf (noteEvents off v s) x = flashOf s x := rfl
@[simp] theorem ckRuns_noteEvents : ckRuns (noteEvents off v s) = ckRuns s := rfl
@[simp] theorem tempoStopped_noteEvents : tempoStopped (noteEvents off v s) = tempoStopped s := rfl
@[simp] theorem ringSizeOf_noteEvents : ringSizeOf (noteEvents off v s) x = ringSizeOf s x := rfl
@[simp] theorem plansOf_noteEvents : plansOf (noteEvents off v s) = plansOf s := rfl

end

section

variable {off : Nat} {f : Word → Word} {s : State} {x y z : Nat}

@[simp] theorem fenOf_eventReg : fenOf (eventReg off f s) x = fenOf s x := rfl
@[simp] theorem cwOf_eventReg : cwOf (eventReg off f s) x = cwOf s x := rfl
@[simp] theorem lodeOf_eventReg : lodeOf (eventReg off f s) x = lodeOf s x := rfl
@[simp] theorem objOf_eventReg : objOf (eventReg off f s) x = objOf s x := rfl
@[simp] theorem streamOf_eventReg : streamOf (eventReg off f s) x = streamOf s x := rfl
@[simp] theorem planOf_eventReg : planOf (eventReg off f s) x = planOf s x := rfl
@[simp] theorem queueOf_eventReg : queueOf (eventReg off f s) x = queueOf s x := rfl
@[simp] theorem pfenOf_eventReg : pfenOf (eventReg off f s) x = pfenOf s x := rfl
@[simp] theorem logicalOf_eventReg : logicalOf (eventReg off f s) x = logicalOf s x := rfl
@[simp] theorem rankOf_eventReg : rankOf (eventReg off f s) x = rankOf s x := rfl
@[simp] theorem flashOf_eventReg : flashOf (eventReg off f s) x = flashOf s x := rfl
@[simp] theorem ckRuns_eventReg : ckRuns (eventReg off f s) = ckRuns s := rfl
@[simp] theorem tempoStopped_eventReg : tempoStopped (eventReg off f s) = tempoStopped s := rfl
@[simp] theorem plansOf_eventReg : plansOf (eventReg off f s) = plansOf s := rfl

end

section

variable {off : Nat} {s : State} {x y z : Nat}

@[simp] theorem fenOf_clearRead : fenOf (clearRead off s) x = fenOf s x := by simp [fenOf]
@[simp] theorem cwOf_clearRead : cwOf (clearRead off s) x = cwOf s x := by simp [cwOf]
@[simp] theorem lodeOf_clearRead : lodeOf (clearRead off s) x = lodeOf s x := by simp [lodeOf]
@[simp] theorem objOf_clearRead : objOf (clearRead off s) x = objOf s x := by simp [objOf]
@[simp] theorem streamOf_clearRead : streamOf (clearRead off s) x = streamOf s x := by simp [streamOf]
@[simp] theorem planOf_clearRead : planOf (clearRead off s) x = planOf s x := by simp [planOf]
@[simp] theorem queueOf_clearRead : queueOf (clearRead off s) x = queueOf s x := by simp [queueOf]
@[simp] theorem pfenOf_clearRead : pfenOf (clearRead off s) x = pfenOf s x := by simp [pfenOf]
@[simp] theorem logicalOf_clearRead : logicalOf (clearRead off s) x = logicalOf s x := by simp [logicalOf]
@[simp] theorem rankOf_clearRead : rankOf (clearRead off s) x = rankOf s x := by simp [rankOf]
@[simp] theorem flashOf_clearRead : flashOf (clearRead off s) x = flashOf s x := by simp [flashOf]
@[simp] theorem ckRuns_clearRead : ckRuns (clearRead off s) = ckRuns s := by simp [ckRuns]
@[simp] theorem tempoStopped_clearRead : tempoStopped (clearRead off s) = tempoStopped s := by simp [tempoStopped]
@[simp] theorem plansOf_clearRead : plansOf (clearRead off s) = plansOf s := by simp [plansOf]

end

section

variable {off : Nat} {v : Word} {s : State} {x y z : Nat}

@[simp] theorem fenOf_orReg : fenOf (orReg off v s) x = fenOf s x := rfl
@[simp] theorem cwOf_orReg : cwOf (orReg off v s) x = cwOf s x := rfl
@[simp] theorem lodeOf_orReg : lodeOf (orReg off v s) x = lodeOf s x := rfl
@[simp] theorem objOf_orReg : objOf (orReg off v s) x = objOf s x := rfl
@[simp] theorem streamOf_orReg : streamOf (orReg off v s) x = streamOf s x := rfl
@[simp] theorem planOf_orReg : planOf (orReg off v s) x = planOf s x := rfl
@[simp] theorem queueOf_orReg : queueOf (orReg off v s) x = queueOf s x := rfl
@[simp] theorem pfenOf_orReg : pfenOf (orReg off v s) x = pfenOf s x := rfl
@[simp] theorem logicalOf_orReg : logicalOf (orReg off v s) x = logicalOf s x := rfl
@[simp] theorem rankOf_orReg : rankOf (orReg off v s) x = rankOf s x := rfl
@[simp] theorem flashOf_orReg : flashOf (orReg off v s) x = flashOf s x := rfl
@[simp] theorem ckRuns_orReg : ckRuns (orReg off v s) = ckRuns s := rfl
@[simp] theorem tempoStopped_orReg : tempoStopped (orReg off v s) = tempoStopped s := rfl
@[simp] theorem plansOf_orReg : plansOf (orReg off v s) = plansOf s := rfl

end

section

variable {off n : Nat} {s : State} {x y z : Nat}

@[simp] theorem fenOf_bump : fenOf (bump off n s) x = fenOf s x := by simp [fenOf]
@[simp] theorem cwOf_bump : cwOf (bump off n s) x = cwOf s x := by simp [cwOf]
@[simp] theorem lodeOf_bump : lodeOf (bump off n s) x = lodeOf s x := by simp [lodeOf]
@[simp] theorem objOf_bump : objOf (bump off n s) x = objOf s x := by simp [objOf]
@[simp] theorem streamOf_bump : streamOf (bump off n s) x = streamOf s x := by simp [streamOf]
@[simp] theorem planOf_bump : planOf (bump off n s) x = planOf s x := by simp [planOf]
@[simp] theorem queueOf_bump : queueOf (bump off n s) x = queueOf s x := by simp [queueOf]
@[simp] theorem pfenOf_bump : pfenOf (bump off n s) x = pfenOf s x := by simp [pfenOf]
@[simp] theorem logicalOf_bump : logicalOf (bump off n s) x = logicalOf s x := by simp [logicalOf]
@[simp] theorem rankOf_bump : rankOf (bump off n s) x = rankOf s x := by simp [rankOf]
@[simp] theorem flashOf_bump : flashOf (bump off n s) x = flashOf s x := by simp [flashOf]
@[simp] theorem ckRuns_bump : ckRuns (bump off n s) = ckRuns s := by simp [ckRuns]
@[simp] theorem tempoStopped_bump : tempoStopped (bump off n s) = tempoStopped s := by simp [tempoStopped]
@[simp] theorem plansOf_bump : plansOf (bump off n s) = plansOf s := by simp [plansOf]

end

section

variable {p o n : Nat} {s : State} {x y z : Nat}

@[simp] theorem fenOf_fenBump : fenOf (fenBump p o n s) x = fenOf s x := by simp [fenOf]
@[simp] theorem cwOf_fenBump : cwOf (fenBump p o n s) x = cwOf s x := by simp [cwOf]
@[simp] theorem lodeOf_fenBump : lodeOf (fenBump p o n s) x = lodeOf s x := by simp [lodeOf]
@[simp] theorem objOf_fenBump : objOf (fenBump p o n s) x = objOf s x := by simp [objOf]
@[simp] theorem streamOf_fenBump : streamOf (fenBump p o n s) x = streamOf s x := by simp [streamOf]
@[simp] theorem planOf_fenBump : planOf (fenBump p o n s) x = planOf s x := by simp [planOf]
@[simp] theorem queueOf_fenBump : queueOf (fenBump p o n s) x = queueOf s x := by simp [queueOf]
@[simp] theorem pfenOf_fenBump : pfenOf (fenBump p o n s) x = pfenOf s x := by simp [pfenOf]
@[simp] theorem logicalOf_fenBump : logicalOf (fenBump p o n s) x = logicalOf s x := by simp [logicalOf]
@[simp] theorem rankOf_fenBump : rankOf (fenBump p o n s) x = rankOf s x := by simp [rankOf]
@[simp] theorem flashOf_fenBump : flashOf (fenBump p o n s) x = flashOf s x := by simp [flashOf]
@[simp] theorem ckRuns_fenBump : ckRuns (fenBump p o n s) = ckRuns s := by simp [ckRuns]
@[simp] theorem tempoStopped_fenBump : tempoStopped (fenBump p o n s) = tempoStopped s := by simp [tempoStopped]
@[simp] theorem plansOf_fenBump : plansOf (fenBump p o n s) = plansOf s := by simp [plansOf]

end

section

variable {p : Nat} {e : NumEv} {s : State} {x y z : Nat}

@[simp] theorem fenOf_countEv : fenOf (countEv p e s) x = fenOf s x := by simp [fenOf]
@[simp] theorem cwOf_countEv : cwOf (countEv p e s) x = cwOf s x := by simp [cwOf]
@[simp] theorem lodeOf_countEv : lodeOf (countEv p e s) x = lodeOf s x := by simp [lodeOf]
@[simp] theorem objOf_countEv : objOf (countEv p e s) x = objOf s x := by simp [objOf]
@[simp] theorem streamOf_countEv : streamOf (countEv p e s) x = streamOf s x := by simp [streamOf]
@[simp] theorem planOf_countEv : planOf (countEv p e s) x = planOf s x := by simp [planOf]
@[simp] theorem queueOf_countEv : queueOf (countEv p e s) x = queueOf s x := by simp [queueOf]
@[simp] theorem pfenOf_countEv : pfenOf (countEv p e s) x = pfenOf s x := by simp [pfenOf]
@[simp] theorem logicalOf_countEv : logicalOf (countEv p e s) x = logicalOf s x := by simp [logicalOf]
@[simp] theorem rankOf_countEv : rankOf (countEv p e s) x = rankOf s x := by simp [rankOf]
@[simp] theorem flashOf_countEv : flashOf (countEv p e s) x = flashOf s x := by simp [flashOf]
@[simp] theorem ckRuns_countEv : ckRuns (countEv p e s) = ckRuns s := by simp [ckRuns]
@[simp] theorem tempoStopped_countEv : tempoStopped (countEv p e s) = tempoStopped s := by simp [tempoStopped]
@[simp] theorem plansOf_countEv : plansOf (countEv p e s) = plansOf s := by simp [plansOf]

end

section

variable {o : Out} {s : State} {x y z : Nat}

@[simp] theorem reg_emit : reg (emit o s) x = reg s x := rfl
@[simp] theorem regBit_emit : regBit (emit o s) x y = regBit s x y := rfl
@[simp] theorem regBits_emit : regBits (emit o s) x y z = regBits s x y z := rfl
@[simp] theorem fenReg_emit : fenReg (emit o s) x y = fenReg s x y := rfl
@[simp] theorem fenOf_emit : fenOf (emit o s) x = fenOf s x := rfl
@[simp] theorem cwOf_emit : cwOf (emit o s) x = cwOf s x := rfl
@[simp] theorem lodeOf_emit : lodeOf (emit o s) x = lodeOf s x := rfl
@[simp] theorem objOf_emit : objOf (emit o s) x = objOf s x := rfl
@[simp] theorem streamOf_emit : streamOf (emit o s) x = streamOf s x := rfl
@[simp] theorem planOf_emit : planOf (emit o s) x = planOf s x := rfl
@[simp] theorem queueOf_emit : queueOf (emit o s) x = queueOf s x := rfl
@[simp] theorem pfenOf_emit : pfenOf (emit o s) x = pfenOf s x := rfl
@[simp] theorem logicalOf_emit : logicalOf (emit o s) x = logicalOf s x := rfl
@[simp] theorem rankOf_emit : rankOf (emit o s) x = rankOf s x := rfl
@[simp] theorem flashOf_emit : flashOf (emit o s) x = flashOf s x := rfl
@[simp] theorem ckRuns_emit : ckRuns (emit o s) = ckRuns s := rfl
@[simp] theorem tempoStopped_emit : tempoStopped (emit o s) = tempoStopped s := rfl
@[simp] theorem ringSizeOf_emit : ringSizeOf (emit o s) x = ringSizeOf s x := rfl
@[simp] theorem plansOf_emit : plansOf (emit o s) = plansOf s := rfl

end

section

variable {p : Nat} {f : Fen} {s : State} {x y z : Nat}

@[simp] theorem reg_putFen : reg (putFen p f s) x = reg s x := rfl
@[simp] theorem regBit_putFen : regBit (putFen p f s) x y = regBit s x y := rfl
@[simp] theorem regBits_putFen : regBits (putFen p f s) x y z = regBits s x y z := rfl
@[simp] theorem fenReg_putFen : fenReg (putFen p f s) x y = fenReg s x y := rfl
@[simp] theorem cwOf_putFen : cwOf (putFen p f s) x = cwOf s x := rfl
@[simp] theorem lodeOf_putFen : lodeOf (putFen p f s) x = lodeOf s x := rfl
@[simp] theorem objOf_putFen : objOf (putFen p f s) x = objOf s x := rfl
@[simp] theorem streamOf_putFen : streamOf (putFen p f s) x = streamOf s x := rfl
@[simp] theorem planOf_putFen : planOf (putFen p f s) x = planOf s x := rfl
@[simp] theorem queueOf_putFen : queueOf (putFen p f s) x = queueOf s x := rfl
@[simp] theorem pfenOf_putFen : pfenOf (putFen p f s) x = pfenOf s x := rfl
@[simp] theorem logicalOf_putFen : logicalOf (putFen p f s) x = logicalOf s x := rfl
@[simp] theorem rankOf_putFen : rankOf (putFen p f s) x = rankOf s x := rfl
@[simp] theorem flashOf_putFen : flashOf (putFen p f s) x = flashOf s x := rfl
@[simp] theorem ckRuns_putFen : ckRuns (putFen p f s) = ckRuns s := rfl
@[simp] theorem tempoStopped_putFen : tempoStopped (putFen p f s) = tempoStopped s := rfl
@[simp] theorem ringSizeOf_putFen : ringSizeOf (putFen p f s) x = ringSizeOf s x := rfl
@[simp] theorem plansOf_putFen : plansOf (putFen p f s) = plansOf s := rfl

end

section

variable {p : Nat} {g : Fen → Fen} {s : State} {x y z : Nat}

@[simp] theorem reg_modFen : reg (modFen p g s) x = reg s x := rfl
@[simp] theorem regBit_modFen : regBit (modFen p g s) x y = regBit s x y := rfl
@[simp] theorem regBits_modFen : regBits (modFen p g s) x y z = regBits s x y z := rfl
@[simp] theorem fenReg_modFen : fenReg (modFen p g s) x y = fenReg s x y := rfl
@[simp] theorem cwOf_modFen : cwOf (modFen p g s) x = cwOf s x := rfl
@[simp] theorem lodeOf_modFen : lodeOf (modFen p g s) x = lodeOf s x := rfl
@[simp] theorem objOf_modFen : objOf (modFen p g s) x = objOf s x := rfl
@[simp] theorem streamOf_modFen : streamOf (modFen p g s) x = streamOf s x := rfl
@[simp] theorem planOf_modFen : planOf (modFen p g s) x = planOf s x := rfl
@[simp] theorem queueOf_modFen : queueOf (modFen p g s) x = queueOf s x := rfl
@[simp] theorem pfenOf_modFen : pfenOf (modFen p g s) x = pfenOf s x := rfl
@[simp] theorem logicalOf_modFen : logicalOf (modFen p g s) x = logicalOf s x := rfl
@[simp] theorem rankOf_modFen : rankOf (modFen p g s) x = rankOf s x := rfl
@[simp] theorem flashOf_modFen : flashOf (modFen p g s) x = flashOf s x := rfl
@[simp] theorem ckRuns_modFen : ckRuns (modFen p g s) = ckRuns s := rfl
@[simp] theorem tempoStopped_modFen : tempoStopped (modFen p g s) = tempoStopped s := rfl
@[simp] theorem ringSizeOf_modFen : ringSizeOf (modFen p g s) x = ringSizeOf s x := rfl
@[simp] theorem plansOf_modFen : plansOf (modFen p g s) = plansOf s := rfl

end

section

variable {c : Nat} {g : Causeway → Causeway} {s : State} {x y z : Nat}

@[simp] theorem reg_modCw : reg (modCw c g s) x = reg s x := rfl
@[simp] theorem regBit_modCw : regBit (modCw c g s) x y = regBit s x y := rfl
@[simp] theorem regBits_modCw : regBits (modCw c g s) x y z = regBits s x y z := rfl
@[simp] theorem fenReg_modCw : fenReg (modCw c g s) x y = fenReg s x y := rfl
@[simp] theorem fenOf_modCw : fenOf (modCw c g s) x = fenOf s x := rfl
@[simp] theorem lodeOf_modCw : lodeOf (modCw c g s) x = lodeOf s x := rfl
@[simp] theorem objOf_modCw : objOf (modCw c g s) x = objOf s x := rfl
@[simp] theorem streamOf_modCw : streamOf (modCw c g s) x = streamOf s x := rfl
@[simp] theorem planOf_modCw : planOf (modCw c g s) x = planOf s x := rfl
@[simp] theorem queueOf_modCw : queueOf (modCw c g s) x = queueOf s x := rfl
@[simp] theorem pfenOf_modCw : pfenOf (modCw c g s) x = pfenOf s x := rfl
@[simp] theorem logicalOf_modCw : logicalOf (modCw c g s) x = logicalOf s x := rfl
@[simp] theorem rankOf_modCw : rankOf (modCw c g s) x = rankOf s x := rfl
@[simp] theorem flashOf_modCw : flashOf (modCw c g s) x = flashOf s x := rfl
@[simp] theorem ckRuns_modCw : ckRuns (modCw c g s) = ckRuns s := rfl
@[simp] theorem tempoStopped_modCw : tempoStopped (modCw c g s) = tempoStopped s := rfl
@[simp] theorem ringSizeOf_modCw : ringSizeOf (modCw c g s) x = ringSizeOf s x := rfl
@[simp] theorem plansOf_modCw : plansOf (modCw c g s) = plansOf s := rfl

end

section

variable {g : Plant → Plant} {s : State} {x y z : Nat}

@[simp] theorem reg_modPlant : reg (modPlant g s) x = reg s x := rfl
@[simp] theorem regBit_modPlant : regBit (modPlant g s) x y = regBit s x y := rfl
@[simp] theorem regBits_modPlant : regBits (modPlant g s) x y z = regBits s x y z := rfl
@[simp] theorem fenReg_modPlant : fenReg (modPlant g s) x y = fenReg s x y := rfl
@[simp] theorem fenOf_modPlant : fenOf (modPlant g s) x = fenOf s x := rfl
@[simp] theorem cwOf_modPlant : cwOf (modPlant g s) x = cwOf s x := rfl
@[simp] theorem lodeOf_modPlant : lodeOf (modPlant g s) x = lodeOf s x := rfl
@[simp] theorem objOf_modPlant : objOf (modPlant g s) x = objOf s x := rfl
@[simp] theorem streamOf_modPlant : streamOf (modPlant g s) x = streamOf s x := rfl
@[simp] theorem planOf_modPlant : planOf (modPlant g s) x = planOf s x := rfl
@[simp] theorem queueOf_modPlant : queueOf (modPlant g s) x = queueOf s x := rfl
@[simp] theorem pfenOf_modPlant : pfenOf (modPlant g s) x = pfenOf s x := rfl
@[simp] theorem logicalOf_modPlant : logicalOf (modPlant g s) x = logicalOf s x := rfl
@[simp] theorem rankOf_modPlant : rankOf (modPlant g s) x = rankOf s x := rfl
@[simp] theorem flashOf_modPlant : flashOf (modPlant g s) x = flashOf s x := rfl
@[simp] theorem tempoStopped_modPlant : tempoStopped (modPlant g s) = tempoStopped s := rfl
@[simp] theorem ringSizeOf_modPlant : ringSizeOf (modPlant g s) x = ringSizeOf s x := rfl
@[simp] theorem plansOf_modPlant : plansOf (modPlant g s) = plansOf s := rfl

end

section

variable {g : Tempo → Tempo} {s : State} {x y z : Nat}

@[simp] theorem reg_modTempo : reg (modTempo g s) x = reg s x := rfl
@[simp] theorem regBit_modTempo : regBit (modTempo g s) x y = regBit s x y := rfl
@[simp] theorem regBits_modTempo : regBits (modTempo g s) x y z = regBits s x y z := rfl
@[simp] theorem fenReg_modTempo : fenReg (modTempo g s) x y = fenReg s x y := rfl
@[simp] theorem fenOf_modTempo : fenOf (modTempo g s) x = fenOf s x := rfl
@[simp] theorem cwOf_modTempo : cwOf (modTempo g s) x = cwOf s x := rfl
@[simp] theorem lodeOf_modTempo : lodeOf (modTempo g s) x = lodeOf s x := rfl
@[simp] theorem objOf_modTempo : objOf (modTempo g s) x = objOf s x := rfl
@[simp] theorem streamOf_modTempo : streamOf (modTempo g s) x = streamOf s x := rfl
@[simp] theorem planOf_modTempo : planOf (modTempo g s) x = planOf s x := rfl
@[simp] theorem queueOf_modTempo : queueOf (modTempo g s) x = queueOf s x := rfl
@[simp] theorem pfenOf_modTempo : pfenOf (modTempo g s) x = pfenOf s x := rfl
@[simp] theorem logicalOf_modTempo : logicalOf (modTempo g s) x = logicalOf s x := rfl
@[simp] theorem rankOf_modTempo : rankOf (modTempo g s) x = rankOf s x := rfl
@[simp] theorem flashOf_modTempo : flashOf (modTempo g s) x = flashOf s x := rfl
@[simp] theorem ckRuns_modTempo : ckRuns (modTempo g s) = ckRuns s := rfl
@[simp] theorem ringSizeOf_modTempo : ringSizeOf (modTempo g s) x = ringSizeOf s x := rfl
@[simp] theorem plansOf_modTempo : plansOf (modTempo g s) = plansOf s := rfl

end

section

variable {l : Nat} {g : Lode → Lode} {s : State} {x y z : Nat}

@[simp] theorem reg_modLode : reg (modLode l g s) x = reg s x := rfl
@[simp] theorem regBit_modLode : regBit (modLode l g s) x y = regBit s x y := rfl
@[simp] theorem regBits_modLode : regBits (modLode l g s) x y z = regBits s x y z := rfl
@[simp] theorem fenReg_modLode : fenReg (modLode l g s) x y = fenReg s x y := rfl
@[simp] theorem fenOf_modLode : fenOf (modLode l g s) x = fenOf s x := rfl
@[simp] theorem cwOf_modLode : cwOf (modLode l g s) x = cwOf s x := rfl
@[simp] theorem objOf_modLode : objOf (modLode l g s) x = objOf s x := rfl
@[simp] theorem streamOf_modLode : streamOf (modLode l g s) x = streamOf s x := rfl
@[simp] theorem planOf_modLode : planOf (modLode l g s) x = planOf s x := rfl
@[simp] theorem queueOf_modLode : queueOf (modLode l g s) x = queueOf s x := rfl
@[simp] theorem pfenOf_modLode : pfenOf (modLode l g s) x = pfenOf s x := rfl
@[simp] theorem logicalOf_modLode : logicalOf (modLode l g s) x = logicalOf s x := rfl
@[simp] theorem rankOf_modLode : rankOf (modLode l g s) x = rankOf s x := rfl
@[simp] theorem flashOf_modLode : flashOf (modLode l g s) x = flashOf s x := rfl
@[simp] theorem ckRuns_modLode : ckRuns (modLode l g s) = ckRuns s := rfl
@[simp] theorem tempoStopped_modLode : tempoStopped (modLode l g s) = tempoStopped s := rfl
@[simp] theorem ringSizeOf_modLode : ringSizeOf (modLode l g s) x = ringSizeOf s x := rfl
@[simp] theorem plansOf_modLode : plansOf (modLode l g s) = plansOf s := rfl

end

section

variable {o : Nat} {g : Obj → Obj} {s : State} {x y z : Nat}

@[simp] theorem reg_modObj : reg (modObj o g s) x = reg s x := rfl
@[simp] theorem regBit_modObj : regBit (modObj o g s) x y = regBit s x y := rfl
@[simp] theorem regBits_modObj : regBits (modObj o g s) x y z = regBits s x y z := rfl
@[simp] theorem fenReg_modObj : fenReg (modObj o g s) x y = fenReg s x y := rfl
@[simp] theorem fenOf_modObj : fenOf (modObj o g s) x = fenOf s x := rfl
@[simp] theorem cwOf_modObj : cwOf (modObj o g s) x = cwOf s x := rfl
@[simp] theorem lodeOf_modObj : lodeOf (modObj o g s) x = lodeOf s x := rfl
@[simp] theorem streamOf_modObj : streamOf (modObj o g s) x = streamOf s x := rfl
@[simp] theorem planOf_modObj : planOf (modObj o g s) x = planOf s x := rfl
@[simp] theorem queueOf_modObj : queueOf (modObj o g s) x = queueOf s x := rfl
@[simp] theorem pfenOf_modObj : pfenOf (modObj o g s) x = pfenOf s x := rfl
@[simp] theorem logicalOf_modObj : logicalOf (modObj o g s) x = logicalOf s x := rfl
@[simp] theorem rankOf_modObj : rankOf (modObj o g s) x = rankOf s x := rfl
@[simp] theorem flashOf_modObj : flashOf (modObj o g s) x = flashOf s x := rfl
@[simp] theorem ckRuns_modObj : ckRuns (modObj o g s) = ckRuns s := rfl
@[simp] theorem tempoStopped_modObj : tempoStopped (modObj o g s) = tempoStopped s := rfl
@[simp] theorem ringSizeOf_modObj : ringSizeOf (modObj o g s) x = ringSizeOf s x := rfl
@[simp] theorem plansOf_modObj : plansOf (modObj o g s) = plansOf s := rfl

end

section

variable {k : Nat} {g : Stream → Stream} {s : State} {x y z : Nat}

@[simp] theorem reg_modStream : reg (modStream k g s) x = reg s x := rfl
@[simp] theorem regBit_modStream : regBit (modStream k g s) x y = regBit s x y := rfl
@[simp] theorem regBits_modStream : regBits (modStream k g s) x y z = regBits s x y z := rfl
@[simp] theorem fenReg_modStream : fenReg (modStream k g s) x y = fenReg s x y := rfl
@[simp] theorem fenOf_modStream : fenOf (modStream k g s) x = fenOf s x := rfl
@[simp] theorem cwOf_modStream : cwOf (modStream k g s) x = cwOf s x := rfl
@[simp] theorem lodeOf_modStream : lodeOf (modStream k g s) x = lodeOf s x := rfl
@[simp] theorem objOf_modStream : objOf (modStream k g s) x = objOf s x := rfl
@[simp] theorem planOf_modStream : planOf (modStream k g s) x = planOf s x := rfl
@[simp] theorem queueOf_modStream : queueOf (modStream k g s) x = queueOf s x := rfl
@[simp] theorem pfenOf_modStream : pfenOf (modStream k g s) x = pfenOf s x := rfl
@[simp] theorem logicalOf_modStream : logicalOf (modStream k g s) x = logicalOf s x := rfl
@[simp] theorem rankOf_modStream : rankOf (modStream k g s) x = rankOf s x := rfl
@[simp] theorem flashOf_modStream : flashOf (modStream k g s) x = flashOf s x := rfl
@[simp] theorem ckRuns_modStream : ckRuns (modStream k g s) = ckRuns s := rfl
@[simp] theorem tempoStopped_modStream : tempoStopped (modStream k g s) = tempoStopped s := rfl
@[simp] theorem ringSizeOf_modStream : ringSizeOf (modStream k g s) x = ringSizeOf s x := rfl
@[simp] theorem plansOf_modStream : plansOf (modStream k g s) = plansOf s := rfl

end

section

variable {k : Nat} {a : Option Plan} {s : State} {x y z : Nat}

@[simp] theorem reg_putPlan : reg (putPlan k a s) x = reg s x := rfl
@[simp] theorem regBit_putPlan : regBit (putPlan k a s) x y = regBit s x y := rfl
@[simp] theorem regBits_putPlan : regBits (putPlan k a s) x y z = regBits s x y z := rfl
@[simp] theorem fenReg_putPlan : fenReg (putPlan k a s) x y = fenReg s x y := rfl
@[simp] theorem fenOf_putPlan : fenOf (putPlan k a s) x = fenOf s x := rfl
@[simp] theorem cwOf_putPlan : cwOf (putPlan k a s) x = cwOf s x := rfl
@[simp] theorem lodeOf_putPlan : lodeOf (putPlan k a s) x = lodeOf s x := rfl
@[simp] theorem objOf_putPlan : objOf (putPlan k a s) x = objOf s x := rfl
@[simp] theorem streamOf_putPlan : streamOf (putPlan k a s) x = streamOf s x := rfl
@[simp] theorem queueOf_putPlan : queueOf (putPlan k a s) x = queueOf s x := rfl
@[simp] theorem pfenOf_putPlan : pfenOf (putPlan k a s) x = pfenOf s x := rfl
@[simp] theorem logicalOf_putPlan : logicalOf (putPlan k a s) x = logicalOf s x := rfl
@[simp] theorem rankOf_putPlan : rankOf (putPlan k a s) x = rankOf s x := rfl
@[simp] theorem flashOf_putPlan : flashOf (putPlan k a s) x = flashOf s x := rfl
@[simp] theorem ckRuns_putPlan : ckRuns (putPlan k a s) = ckRuns s := rfl
@[simp] theorem tempoStopped_putPlan : tempoStopped (putPlan k a s) = tempoStopped s := rfl
@[simp] theorem ringSizeOf_putPlan : ringSizeOf (putPlan k a s) x = ringSizeOf s x := rfl

end

section

variable {q : Nat} {a : Queue} {s : State} {x y z : Nat}

@[simp] theorem reg_putQueue : reg (putQueue q a s) x = reg s x := rfl
@[simp] theorem regBit_putQueue : regBit (putQueue q a s) x y = regBit s x y := rfl
@[simp] theorem regBits_putQueue : regBits (putQueue q a s) x y z = regBits s x y z := rfl
@[simp] theorem fenReg_putQueue : fenReg (putQueue q a s) x y = fenReg s x y := rfl
@[simp] theorem fenOf_putQueue : fenOf (putQueue q a s) x = fenOf s x := rfl
@[simp] theorem cwOf_putQueue : cwOf (putQueue q a s) x = cwOf s x := rfl
@[simp] theorem lodeOf_putQueue : lodeOf (putQueue q a s) x = lodeOf s x := rfl
@[simp] theorem objOf_putQueue : objOf (putQueue q a s) x = objOf s x := rfl
@[simp] theorem streamOf_putQueue : streamOf (putQueue q a s) x = streamOf s x := rfl
@[simp] theorem planOf_putQueue : planOf (putQueue q a s) x = planOf s x := rfl
@[simp] theorem pfenOf_putQueue : pfenOf (putQueue q a s) x = pfenOf s x := rfl
@[simp] theorem logicalOf_putQueue : logicalOf (putQueue q a s) x = logicalOf s x := rfl
@[simp] theorem rankOf_putQueue : rankOf (putQueue q a s) x = rankOf s x := rfl
@[simp] theorem flashOf_putQueue : flashOf (putQueue q a s) x = flashOf s x := rfl
@[simp] theorem ckRuns_putQueue : ckRuns (putQueue q a s) = ckRuns s := rfl
@[simp] theorem tempoStopped_putQueue : tempoStopped (putQueue q a s) = tempoStopped s := rfl
@[simp] theorem ringSizeOf_putQueue : ringSizeOf (putQueue q a s) x = ringSizeOf s x := rfl
@[simp] theorem plansOf_putQueue : plansOf (putQueue q a s) = plansOf s := rfl

end

section

variable {g : Snap → Snap} {s : State} {x y z : Nat}

@[simp] theorem reg_modSnap : reg (modSnap g s) x = reg s x := rfl
@[simp] theorem regBit_modSnap : regBit (modSnap g s) x y = regBit s x y := rfl
@[simp] theorem regBits_modSnap : regBits (modSnap g s) x y z = regBits s x y z := rfl
@[simp] theorem fenReg_modSnap : fenReg (modSnap g s) x y = fenReg s x y := rfl
@[simp] theorem fenOf_modSnap : fenOf (modSnap g s) x = fenOf s x := rfl
@[simp] theorem cwOf_modSnap : cwOf (modSnap g s) x = cwOf s x := rfl
@[simp] theorem lodeOf_modSnap : lodeOf (modSnap g s) x = lodeOf s x := rfl
@[simp] theorem objOf_modSnap : objOf (modSnap g s) x = objOf s x := rfl
@[simp] theorem streamOf_modSnap : streamOf (modSnap g s) x = streamOf s x := rfl
@[simp] theorem planOf_modSnap : planOf (modSnap g s) x = planOf s x := rfl
@[simp] theorem queueOf_modSnap : queueOf (modSnap g s) x = queueOf s x := rfl
@[simp] theorem pfenOf_modSnap : pfenOf (modSnap g s) x = pfenOf s x := rfl
@[simp] theorem logicalOf_modSnap : logicalOf (modSnap g s) x = logicalOf s x := rfl
@[simp] theorem rankOf_modSnap : rankOf (modSnap g s) x = rankOf s x := rfl
@[simp] theorem flashOf_modSnap : flashOf (modSnap g s) x = flashOf s x := rfl
@[simp] theorem ckRuns_modSnap : ckRuns (modSnap g s) = ckRuns s := rfl
@[simp] theorem tempoStopped_modSnap : tempoStopped (modSnap g s) = tempoStopped s := rfl
@[simp] theorem ringSizeOf_modSnap : ringSizeOf (modSnap g s) x = ringSizeOf s x := rfl
@[simp] theorem plansOf_modSnap : plansOf (modSnap g s) = plansOf s := rfl

end

section

variable {g : Twin → Twin} {s : State} {x y z : Nat}

@[simp] theorem reg_modTwin : reg (modTwin g s) x = reg s x := rfl
@[simp] theorem regBit_modTwin : regBit (modTwin g s) x y = regBit s x y := rfl
@[simp] theorem regBits_modTwin : regBits (modTwin g s) x y z = regBits s x y z := rfl
@[simp] theorem fenReg_modTwin : fenReg (modTwin g s) x y = fenReg s x y := rfl
@[simp] theorem fenOf_modTwin : fenOf (modTwin g s) x = fenOf s x := rfl
@[simp] theorem cwOf_modTwin : cwOf (modTwin g s) x = cwOf s x := rfl
@[simp] theorem lodeOf_modTwin : lodeOf (modTwin g s) x = lodeOf s x := rfl
@[simp] theorem objOf_modTwin : objOf (modTwin g s) x = objOf s x := rfl
@[simp] theorem streamOf_modTwin : streamOf (modTwin g s) x = streamOf s x := rfl
@[simp] theorem planOf_modTwin : planOf (modTwin g s) x = planOf s x := rfl
@[simp] theorem queueOf_modTwin : queueOf (modTwin g s) x = queueOf s x := rfl
@[simp] theorem pfenOf_modTwin : pfenOf (modTwin g s) x = pfenOf s x := rfl
@[simp] theorem logicalOf_modTwin : logicalOf (modTwin g s) x = logicalOf s x := rfl
@[simp] theorem rankOf_modTwin : rankOf (modTwin g s) x = rankOf s x := rfl
@[simp] theorem flashOf_modTwin : flashOf (modTwin g s) x = flashOf s x := rfl
@[simp] theorem ckRuns_modTwin : ckRuns (modTwin g s) = ckRuns s := rfl
@[simp] theorem tempoStopped_modTwin : tempoStopped (modTwin g s) = tempoStopped s := rfl
@[simp] theorem ringSizeOf_modTwin : ringSizeOf (modTwin g s) x = ringSizeOf s x := rfl
@[simp] theorem plansOf_modTwin : plansOf (modTwin g s) = plansOf s := rfl

end

section

variable {g : Heron → Heron} {s : State} {x y z : Nat}

@[simp] theorem reg_modHeron : reg (modHeron g s) x = reg s x := rfl
@[simp] theorem regBit_modHeron : regBit (modHeron g s) x y = regBit s x y := rfl
@[simp] theorem regBits_modHeron : regBits (modHeron g s) x y z = regBits s x y z := rfl
@[simp] theorem fenReg_modHeron : fenReg (modHeron g s) x y = fenReg s x y := rfl
@[simp] theorem fenOf_modHeron : fenOf (modHeron g s) x = fenOf s x := rfl
@[simp] theorem cwOf_modHeron : cwOf (modHeron g s) x = cwOf s x := rfl
@[simp] theorem lodeOf_modHeron : lodeOf (modHeron g s) x = lodeOf s x := rfl
@[simp] theorem objOf_modHeron : objOf (modHeron g s) x = objOf s x := rfl
@[simp] theorem streamOf_modHeron : streamOf (modHeron g s) x = streamOf s x := rfl
@[simp] theorem planOf_modHeron : planOf (modHeron g s) x = planOf s x := rfl
@[simp] theorem queueOf_modHeron : queueOf (modHeron g s) x = queueOf s x := rfl
@[simp] theorem pfenOf_modHeron : pfenOf (modHeron g s) x = pfenOf s x := rfl
@[simp] theorem logicalOf_modHeron : logicalOf (modHeron g s) x = logicalOf s x := rfl
@[simp] theorem rankOf_modHeron : rankOf (modHeron g s) x = rankOf s x := rfl
@[simp] theorem flashOf_modHeron : flashOf (modHeron g s) x = flashOf s x := rfl
@[simp] theorem ckRuns_modHeron : ckRuns (modHeron g s) = ckRuns s := rfl
@[simp] theorem tempoStopped_modHeron : tempoStopped (modHeron g s) = tempoStopped s := rfl
@[simp] theorem ringSizeOf_modHeron : ringSizeOf (modHeron g s) x = ringSizeOf s x := rfl
@[simp] theorem plansOf_modHeron : plansOf (modHeron g s) = plansOf s := rfl

end

section

variable {g : Mailbox → Mailbox} {s : State} {x y z : Nat}

@[simp] theorem reg_modMbox : reg (modMbox g s) x = reg s x := rfl
@[simp] theorem regBit_modMbox : regBit (modMbox g s) x y = regBit s x y := rfl
@[simp] theorem regBits_modMbox : regBits (modMbox g s) x y z = regBits s x y z := rfl
@[simp] theorem fenReg_modMbox : fenReg (modMbox g s) x y = fenReg s x y := rfl
@[simp] theorem fenOf_modMbox : fenOf (modMbox g s) x = fenOf s x := rfl
@[simp] theorem cwOf_modMbox : cwOf (modMbox g s) x = cwOf s x := rfl
@[simp] theorem lodeOf_modMbox : lodeOf (modMbox g s) x = lodeOf s x := rfl
@[simp] theorem objOf_modMbox : objOf (modMbox g s) x = objOf s x := rfl
@[simp] theorem streamOf_modMbox : streamOf (modMbox g s) x = streamOf s x := rfl
@[simp] theorem planOf_modMbox : planOf (modMbox g s) x = planOf s x := rfl
@[simp] theorem queueOf_modMbox : queueOf (modMbox g s) x = queueOf s x := rfl
@[simp] theorem pfenOf_modMbox : pfenOf (modMbox g s) x = pfenOf s x := rfl
@[simp] theorem logicalOf_modMbox : logicalOf (modMbox g s) x = logicalOf s x := rfl
@[simp] theorem rankOf_modMbox : rankOf (modMbox g s) x = rankOf s x := rfl
@[simp] theorem flashOf_modMbox : flashOf (modMbox g s) x = flashOf s x := rfl
@[simp] theorem ckRuns_modMbox : ckRuns (modMbox g s) = ckRuns s := rfl
@[simp] theorem tempoStopped_modMbox : tempoStopped (modMbox g s) = tempoStopped s := rfl
@[simp] theorem ringSizeOf_modMbox : ringSizeOf (modMbox g s) x = ringSizeOf s x := rfl
@[simp] theorem plansOf_modMbox : plansOf (modMbox g s) = plansOf s := rfl

end

section

variable {r : Nat} {g : Rank → Rank} {s : State} {x y z : Nat}

@[simp] theorem reg_modRank : reg (modRank r g s) x = reg s x := rfl
@[simp] theorem regBit_modRank : regBit (modRank r g s) x y = regBit s x y := rfl
@[simp] theorem regBits_modRank : regBits (modRank r g s) x y z = regBits s x y z := rfl
@[simp] theorem fenReg_modRank : fenReg (modRank r g s) x y = fenReg s x y := rfl
@[simp] theorem fenOf_modRank : fenOf (modRank r g s) x = fenOf s x := rfl
@[simp] theorem cwOf_modRank : cwOf (modRank r g s) x = cwOf s x := rfl
@[simp] theorem lodeOf_modRank : lodeOf (modRank r g s) x = lodeOf s x := rfl
@[simp] theorem objOf_modRank : objOf (modRank r g s) x = objOf s x := rfl
@[simp] theorem streamOf_modRank : streamOf (modRank r g s) x = streamOf s x := rfl
@[simp] theorem planOf_modRank : planOf (modRank r g s) x = planOf s x := rfl
@[simp] theorem queueOf_modRank : queueOf (modRank r g s) x = queueOf s x := rfl
@[simp] theorem pfenOf_modRank : pfenOf (modRank r g s) x = pfenOf s x := rfl
@[simp] theorem logicalOf_modRank : logicalOf (modRank r g s) x = logicalOf s x := rfl
@[simp] theorem flashOf_modRank : flashOf (modRank r g s) x = flashOf s x := rfl
@[simp] theorem ckRuns_modRank : ckRuns (modRank r g s) = ckRuns s := rfl
@[simp] theorem tempoStopped_modRank : tempoStopped (modRank r g s) = tempoStopped s := rfl
@[simp] theorem ringSizeOf_modRank : ringSizeOf (modRank r g s) x = ringSizeOf s x := rfl
@[simp] theorem plansOf_modRank : plansOf (modRank r g s) = plansOf s := rfl

end

section

variable {q : Nat} {g : FlashQueue → FlashQueue} {s : State} {x y z : Nat}

@[simp] theorem reg_modFlash : reg (modFlash q g s) x = reg s x := rfl
@[simp] theorem regBit_modFlash : regBit (modFlash q g s) x y = regBit s x y := rfl
@[simp] theorem regBits_modFlash : regBits (modFlash q g s) x y z = regBits s x y z := rfl
@[simp] theorem fenReg_modFlash : fenReg (modFlash q g s) x y = fenReg s x y := rfl
@[simp] theorem fenOf_modFlash : fenOf (modFlash q g s) x = fenOf s x := rfl
@[simp] theorem cwOf_modFlash : cwOf (modFlash q g s) x = cwOf s x := rfl
@[simp] theorem lodeOf_modFlash : lodeOf (modFlash q g s) x = lodeOf s x := rfl
@[simp] theorem objOf_modFlash : objOf (modFlash q g s) x = objOf s x := rfl
@[simp] theorem streamOf_modFlash : streamOf (modFlash q g s) x = streamOf s x := rfl
@[simp] theorem planOf_modFlash : planOf (modFlash q g s) x = planOf s x := rfl
@[simp] theorem queueOf_modFlash : queueOf (modFlash q g s) x = queueOf s x := rfl
@[simp] theorem pfenOf_modFlash : pfenOf (modFlash q g s) x = pfenOf s x := rfl
@[simp] theorem logicalOf_modFlash : logicalOf (modFlash q g s) x = logicalOf s x := rfl
@[simp] theorem rankOf_modFlash : rankOf (modFlash q g s) x = rankOf s x := rfl
@[simp] theorem ckRuns_modFlash : ckRuns (modFlash q g s) = ckRuns s := rfl
@[simp] theorem tempoStopped_modFlash : tempoStopped (modFlash q g s) = tempoStopped s := rfl
@[simp] theorem ringSizeOf_modFlash : ringSizeOf (modFlash q g s) x = ringSizeOf s x := rfl
@[simp] theorem plansOf_modFlash : plansOf (modFlash q g s) = plansOf s := rfl

end

section

variable {t : Nat} {s : State} {x y z : Nat}

@[simp] theorem reg_advanceTo : reg (advanceTo t s) x = reg s x := by simp [reg]
@[simp] theorem regBit_advanceTo : regBit (advanceTo t s) x y = regBit s x y := by simp [regBit, reg]
@[simp] theorem regBits_advanceTo : regBits (advanceTo t s) x y z = regBits s x y z := by simp [regBits, reg]
@[simp] theorem fenReg_advanceTo : fenReg (advanceTo t s) x y = fenReg s x y := by simp [fenReg, reg]
@[simp] theorem fenOf_advanceTo : fenOf (advanceTo t s) x = fenOf s x := by simp [fenOf]
@[simp] theorem cwOf_advanceTo : cwOf (advanceTo t s) x = cwOf s x := by simp [cwOf]
@[simp] theorem lodeOf_advanceTo : lodeOf (advanceTo t s) x = lodeOf s x := by simp [lodeOf]
@[simp] theorem objOf_advanceTo : objOf (advanceTo t s) x = objOf s x := by simp [objOf]
@[simp] theorem streamOf_advanceTo : streamOf (advanceTo t s) x = streamOf s x := by simp [streamOf]
@[simp] theorem planOf_advanceTo : planOf (advanceTo t s) x = planOf s x := by simp [planOf]
@[simp] theorem queueOf_advanceTo : queueOf (advanceTo t s) x = queueOf s x := by simp [queueOf]
@[simp] theorem pfenOf_advanceTo : pfenOf (advanceTo t s) x = pfenOf s x := by simp [pfenOf]
@[simp] theorem logicalOf_advanceTo : logicalOf (advanceTo t s) x = logicalOf s x := by simp [logicalOf]
@[simp] theorem rankOf_advanceTo : rankOf (advanceTo t s) x = rankOf s x := by simp [rankOf]
@[simp] theorem flashOf_advanceTo : flashOf (advanceTo t s) x = flashOf s x := by simp [flashOf]
@[simp] theorem ckRuns_advanceTo : ckRuns (advanceTo t s) = ckRuns s := by simp [ckRuns]
@[simp] theorem tempoStopped_advanceTo : tempoStopped (advanceTo t s) = tempoStopped s := by simp [tempoStopped]
@[simp] theorem ringSizeOf_advanceTo : ringSizeOf (advanceTo t s) x = ringSizeOf s x := by simp [ringSizeOf]
@[simp] theorem plansOf_advanceTo : plansOf (advanceTo t s) = plansOf s := by simp [plansOf]

end

section

variable {c : Nat} {s : State} {x y z : Nat}

@[simp] theorem reg_advanceCk : reg (advanceCk c s) x = reg s x := by simp [reg]
@[simp] theorem regBit_advanceCk : regBit (advanceCk c s) x y = regBit s x y := by simp [regBit, reg]
@[simp] theorem regBits_advanceCk : regBits (advanceCk c s) x y z = regBits s x y z := by simp [regBits, reg]
@[simp] theorem fenReg_advanceCk : fenReg (advanceCk c s) x y = fenReg s x y := by simp [fenReg, reg]
@[simp] theorem fenOf_advanceCk : fenOf (advanceCk c s) x = fenOf s x := by simp [fenOf]
@[simp] theorem cwOf_advanceCk : cwOf (advanceCk c s) x = cwOf s x := by simp [cwOf]
@[simp] theorem lodeOf_advanceCk : lodeOf (advanceCk c s) x = lodeOf s x := by simp [lodeOf]
@[simp] theorem objOf_advanceCk : objOf (advanceCk c s) x = objOf s x := by simp [objOf]
@[simp] theorem streamOf_advanceCk : streamOf (advanceCk c s) x = streamOf s x := by simp [streamOf]
@[simp] theorem planOf_advanceCk : planOf (advanceCk c s) x = planOf s x := by simp [planOf]
@[simp] theorem queueOf_advanceCk : queueOf (advanceCk c s) x = queueOf s x := by simp [queueOf]
@[simp] theorem pfenOf_advanceCk : pfenOf (advanceCk c s) x = pfenOf s x := by simp [pfenOf]
@[simp] theorem logicalOf_advanceCk : logicalOf (advanceCk c s) x = logicalOf s x := by simp [logicalOf]
@[simp] theorem rankOf_advanceCk : rankOf (advanceCk c s) x = rankOf s x := by simp [rankOf]
@[simp] theorem flashOf_advanceCk : flashOf (advanceCk c s) x = flashOf s x := by simp [flashOf]
@[simp] theorem ckRuns_advanceCk : ckRuns (advanceCk c s) = ckRuns s := by simp [ckRuns]
@[simp] theorem tempoStopped_advanceCk : tempoStopped (advanceCk c s) = tempoStopped s := by simp [tempoStopped]
@[simp] theorem ringSizeOf_advanceCk : ringSizeOf (advanceCk c s) x = ringSizeOf s x := by simp [ringSizeOf]
@[simp] theorem plansOf_advanceCk : plansOf (advanceCk c s) = plansOf s := by simp [plansOf]

end

section

variable {k : LogKind} {source : Nat} {detail : List Nat} {s : State} {x y z : Nat}

@[simp] theorem fenOf_logAdd : fenOf (logAdd k source detail s) x = fenOf s x := by simp [fenOf]
@[simp] theorem cwOf_logAdd : cwOf (logAdd k source detail s) x = cwOf s x := by simp [cwOf]
@[simp] theorem lodeOf_logAdd : lodeOf (logAdd k source detail s) x = lodeOf s x := by simp [lodeOf]
@[simp] theorem objOf_logAdd : objOf (logAdd k source detail s) x = objOf s x := by simp [objOf]
@[simp] theorem streamOf_logAdd : streamOf (logAdd k source detail s) x = streamOf s x := by simp [streamOf]
@[simp] theorem planOf_logAdd : planOf (logAdd k source detail s) x = planOf s x := by simp [planOf]
@[simp] theorem queueOf_logAdd : queueOf (logAdd k source detail s) x = queueOf s x := by simp [queueOf]
@[simp] theorem pfenOf_logAdd : pfenOf (logAdd k source detail s) x = pfenOf s x := by simp [pfenOf]
@[simp] theorem logicalOf_logAdd : logicalOf (logAdd k source detail s) x = logicalOf s x := by simp [logicalOf]
@[simp] theorem rankOf_logAdd : rankOf (logAdd k source detail s) x = rankOf s x := by simp [rankOf]
@[simp] theorem flashOf_logAdd : flashOf (logAdd k source detail s) x = flashOf s x := by simp [flashOf]
@[simp] theorem ckRuns_logAdd : ckRuns (logAdd k source detail s) = ckRuns s := by simp [ckRuns]
@[simp] theorem tempoStopped_logAdd : tempoStopped (logAdd k source detail s) = tempoStopped s := by simp [tempoStopped]
@[simp] theorem plansOf_logAdd : plansOf (logAdd k source detail s) = plansOf s := by simp [plansOf]

end

section

variable {c : Cmd} {st : Status} {final : Bool} {res : BitVec 96} {s : State} {x y z : Nat}

@[simp] theorem fenOf_replyWith : fenOf (replyWith c st final res s) x = fenOf s x := by simp [fenOf]
@[simp] theorem cwOf_replyWith : cwOf (replyWith c st final res s) x = cwOf s x := by simp [cwOf]
@[simp] theorem lodeOf_replyWith : lodeOf (replyWith c st final res s) x = lodeOf s x := by simp [lodeOf]
@[simp] theorem objOf_replyWith : objOf (replyWith c st final res s) x = objOf s x := by simp [objOf]
@[simp] theorem streamOf_replyWith : streamOf (replyWith c st final res s) x = streamOf s x := by simp [streamOf]
@[simp] theorem planOf_replyWith : planOf (replyWith c st final res s) x = planOf s x := by simp [planOf]
@[simp] theorem pfenOf_replyWith : pfenOf (replyWith c st final res s) x = pfenOf s x := by simp [pfenOf]
@[simp] theorem logicalOf_replyWith : logicalOf (replyWith c st final res s) x = logicalOf s x := by simp [logicalOf]
@[simp] theorem rankOf_replyWith : rankOf (replyWith c st final res s) x = rankOf s x := by simp [rankOf]
@[simp] theorem flashOf_replyWith : flashOf (replyWith c st final res s) x = flashOf s x := by simp [flashOf]
@[simp] theorem ckRuns_replyWith : ckRuns (replyWith c st final res s) = ckRuns s := by simp [ckRuns]
@[simp] theorem tempoStopped_replyWith : tempoStopped (replyWith c st final res s) = tempoStopped s := by simp [tempoStopped]
@[simp] theorem plansOf_replyWith : plansOf (replyWith c st final res s) = plansOf s := by simp [plansOf]

end

section

variable {c : Cmd} {st : Status} {s : State} {x y z : Nat}

@[simp] theorem fenOf_reply : fenOf (reply c st s) x = fenOf s x := by simp [fenOf]
@[simp] theorem cwOf_reply : cwOf (reply c st s) x = cwOf s x := by simp [cwOf]
@[simp] theorem lodeOf_reply : lodeOf (reply c st s) x = lodeOf s x := by simp [lodeOf]
@[simp] theorem objOf_reply : objOf (reply c st s) x = objOf s x := by simp [objOf]
@[simp] theorem streamOf_reply : streamOf (reply c st s) x = streamOf s x := by simp [streamOf]
@[simp] theorem planOf_reply : planOf (reply c st s) x = planOf s x := by simp [planOf]
@[simp] theorem pfenOf_reply : pfenOf (reply c st s) x = pfenOf s x := by simp [pfenOf]
@[simp] theorem logicalOf_reply : logicalOf (reply c st s) x = logicalOf s x := by simp [logicalOf]
@[simp] theorem rankOf_reply : rankOf (reply c st s) x = rankOf s x := by simp [rankOf]
@[simp] theorem flashOf_reply : flashOf (reply c st s) x = flashOf s x := by simp [flashOf]
@[simp] theorem ckRuns_reply : ckRuns (reply c st s) = ckRuns s := by simp [ckRuns]
@[simp] theorem tempoStopped_reply : tempoStopped (reply c st s) = tempoStopped s := by simp [tempoStopped]
@[simp] theorem plansOf_reply : plansOf (reply c st s) = plansOf s := by simp [plansOf]

end

section

variable {q : Nat} {reason : BitVec 2} {s : State} {x y z : Nat}

@[simp] theorem fenOf_stopQueue : fenOf (stopQueue q reason s) x = fenOf s x := rfl
@[simp] theorem cwOf_stopQueue : cwOf (stopQueue q reason s) x = cwOf s x := rfl
@[simp] theorem lodeOf_stopQueue : lodeOf (stopQueue q reason s) x = lodeOf s x := rfl
@[simp] theorem objOf_stopQueue : objOf (stopQueue q reason s) x = objOf s x := rfl
@[simp] theorem streamOf_stopQueue : streamOf (stopQueue q reason s) x = streamOf s x := rfl
@[simp] theorem planOf_stopQueue : planOf (stopQueue q reason s) x = planOf s x := rfl
@[simp] theorem pfenOf_stopQueue : pfenOf (stopQueue q reason s) x = pfenOf s x := rfl
@[simp] theorem logicalOf_stopQueue : logicalOf (stopQueue q reason s) x = logicalOf s x := rfl
@[simp] theorem rankOf_stopQueue : rankOf (stopQueue q reason s) x = rankOf s x := rfl
@[simp] theorem flashOf_stopQueue : flashOf (stopQueue q reason s) x = flashOf s x := rfl
@[simp] theorem ckRuns_stopQueue : ckRuns (stopQueue q reason s) = ckRuns s := rfl
@[simp] theorem tempoStopped_stopQueue : tempoStopped (stopQueue q reason s) = tempoStopped s := rfl
@[simp] theorem plansOf_stopQueue : plansOf (stopQueue q reason s) = plansOf s := rfl

end

section

variable {p pj : Nat} {s : State} {x y z : Nat}

@[simp] theorem reg_spend : reg (spend p pj s) x = reg s x := rfl
@[simp] theorem regBit_spend : regBit (spend p pj s) x y = regBit s x y := rfl
@[simp] theorem regBits_spend : regBits (spend p pj s) x y z = regBits s x y z := rfl
@[simp] theorem fenReg_spend : fenReg (spend p pj s) x y = fenReg s x y := rfl
@[simp] theorem cwOf_spend : cwOf (spend p pj s) x = cwOf s x := rfl
@[simp] theorem lodeOf_spend : lodeOf (spend p pj s) x = lodeOf s x := rfl
@[simp] theorem objOf_spend : objOf (spend p pj s) x = objOf s x := rfl
@[simp] theorem streamOf_spend : streamOf (spend p pj s) x = streamOf s x := rfl
@[simp] theorem planOf_spend : planOf (spend p pj s) x = planOf s x := rfl
@[simp] theorem queueOf_spend : queueOf (spend p pj s) x = queueOf s x := rfl
@[simp] theorem pfenOf_spend : pfenOf (spend p pj s) x = pfenOf s x := rfl
@[simp] theorem logicalOf_spend : logicalOf (spend p pj s) x = logicalOf s x := rfl
@[simp] theorem rankOf_spend : rankOf (spend p pj s) x = rankOf s x := rfl
@[simp] theorem flashOf_spend : flashOf (spend p pj s) x = flashOf s x := rfl
@[simp] theorem ckRuns_spend : ckRuns (spend p pj s) = ckRuns s := rfl
@[simp] theorem tempoStopped_spend : tempoStopped (spend p pj s) = tempoStopped s := rfl
@[simp] theorem ringSizeOf_spend : ringSizeOf (spend p pj s) x = ringSizeOf s x := rfl
@[simp] theorem plansOf_spend : plansOf (spend p pj s) = plansOf s := rfl

end

section

variable {p : Nat} {w : PendWr} {s : State} {x y z : Nat}

@[simp] theorem reg_addPend : reg (addPend p w s) x = reg s x := rfl
@[simp] theorem regBit_addPend : regBit (addPend p w s) x y = regBit s x y := rfl
@[simp] theorem regBits_addPend : regBits (addPend p w s) x y z = regBits s x y z := rfl
@[simp] theorem fenReg_addPend : fenReg (addPend p w s) x y = fenReg s x y := rfl
@[simp] theorem cwOf_addPend : cwOf (addPend p w s) x = cwOf s x := rfl
@[simp] theorem lodeOf_addPend : lodeOf (addPend p w s) x = lodeOf s x := rfl
@[simp] theorem objOf_addPend : objOf (addPend p w s) x = objOf s x := rfl
@[simp] theorem streamOf_addPend : streamOf (addPend p w s) x = streamOf s x := rfl
@[simp] theorem planOf_addPend : planOf (addPend p w s) x = planOf s x := rfl
@[simp] theorem queueOf_addPend : queueOf (addPend p w s) x = queueOf s x := rfl
@[simp] theorem pfenOf_addPend : pfenOf (addPend p w s) x = pfenOf s x := rfl
@[simp] theorem logicalOf_addPend : logicalOf (addPend p w s) x = logicalOf s x := rfl
@[simp] theorem rankOf_addPend : rankOf (addPend p w s) x = rankOf s x := rfl
@[simp] theorem flashOf_addPend : flashOf (addPend p w s) x = flashOf s x := rfl
@[simp] theorem ckRuns_addPend : ckRuns (addPend p w s) = ckRuns s := rfl
@[simp] theorem tempoStopped_addPend : tempoStopped (addPend p w s) = tempoStopped s := rfl
@[simp] theorem ringSizeOf_addPend : ringSizeOf (addPend p w s) x = ringSizeOf s x := rfl
@[simp] theorem plansOf_addPend : plansOf (addPend p w s) = plansOf s := rfl

end

section

variable {p slot : Nat} {s : State} {x y z : Nat}

@[simp] theorem reg_markSlot : reg (markSlot p slot s) x = reg s x := rfl
@[simp] theorem regBit_markSlot : regBit (markSlot p slot s) x y = regBit s x y := rfl
@[simp] theorem regBits_markSlot : regBits (markSlot p slot s) x y z = regBits s x y z := rfl
@[simp] theorem fenReg_markSlot : fenReg (markSlot p slot s) x y = fenReg s x y := rfl
@[simp] theorem cwOf_markSlot : cwOf (markSlot p slot s) x = cwOf s x := rfl
@[simp] theorem lodeOf_markSlot : lodeOf (markSlot p slot s) x = lodeOf s x := rfl
@[simp] theorem objOf_markSlot : objOf (markSlot p slot s) x = objOf s x := rfl
@[simp] theorem streamOf_markSlot : streamOf (markSlot p slot s) x = streamOf s x := rfl
@[simp] theorem planOf_markSlot : planOf (markSlot p slot s) x = planOf s x := rfl
@[simp] theorem queueOf_markSlot : queueOf (markSlot p slot s) x = queueOf s x := rfl
@[simp] theorem pfenOf_markSlot : pfenOf (markSlot p slot s) x = pfenOf s x := rfl
@[simp] theorem logicalOf_markSlot : logicalOf (markSlot p slot s) x = logicalOf s x := rfl
@[simp] theorem rankOf_markSlot : rankOf (markSlot p slot s) x = rankOf s x := rfl
@[simp] theorem flashOf_markSlot : flashOf (markSlot p slot s) x = flashOf s x := rfl
@[simp] theorem ckRuns_markSlot : ckRuns (markSlot p slot s) = ckRuns s := rfl
@[simp] theorem tempoStopped_markSlot : tempoStopped (markSlot p slot s) = tempoStopped s := rfl
@[simp] theorem ringSizeOf_markSlot : ringSizeOf (markSlot p slot s) x = ringSizeOf s x := rfl
@[simp] theorem plansOf_markSlot : plansOf (markSlot p slot s) = plansOf s := rfl

end


/-! ## Reads after writes -/

theorem fileGet_filePut (m : SMap (Option Word)) (off o : Nat) (v : Word) :
    fileGet (filePut m off v) o = if o = off then v else fileGet m o := by
  unfold fileGet filePut
  rw [mapGet_mapPut]
  split
  · next h => subst h; split <;> simp_all
  · rfl

theorem reg_setReg (off o : Nat) (v : Word) (s : State) : reg (setReg off v s) o = if o = off then v else reg s o :=
  fileGet_filePut ..
@[simp] theorem reg_setReg_same (off : Nat) (v : Word) (s : State) : reg (setReg off v s) off = v := by
  rw [reg_setReg, if_pos rfl]
theorem reg_setReg_ne (off o : Nat) (v : Word) (s : State) (h : o ≠ off) : reg (setReg off v s) o = reg s o := by
  rw [reg_setReg, if_neg h]
theorem reg_eventReg (off o : Nat) (f : Word → Word) (s : State) :
    reg (eventReg off f s) o = if o = off then f (reg s off) else reg s o :=
  reg_setReg ..
theorem reg_bump (off n o : Nat) (s : State) :
    reg (bump off n s) o = if o = off then (if n = 0 then reg s off else satCount (reg s off) n) else reg s o := by
  unfold bump
  split
  · split <;> simp_all
  · rw [reg_eventReg]
theorem reg_orReg (off o : Nat) (v : Word) (s : State) : reg (orReg off v s) o = if o = off then reg s off ||| v else reg s o :=
  reg_eventReg ..
theorem reg_clearRead (off o : Nat) (s : State) : reg (clearRead off s) o = if o = off then survivors s off else reg s o := by
  unfold clearRead
  dsimp only
  rw [reg_setReg]
  split
  · rfl
  · split <;> rfl

theorem fenOf_putFen (p q : Nat) (f : Fen) (s : State) : fenOf (putFen p f s) q = if q = p then f else fenOf s q := mapGet_mapPut ..
@[simp] theorem fenOf_putFen_same (p : Nat) (f : Fen) (s : State) : fenOf (putFen p f s) p = f := mapGet_mapPut_same ..
theorem fenOf_putFen_ne (p q : Nat) (f : Fen) (s : State) (h : q ≠ p) : fenOf (putFen p f s) q = fenOf s q :=
  mapGet_mapPut_ne _ _ _ _ _ h
theorem fenOf_modFen (p q : Nat) (g : Fen → Fen) (s : State) :
    fenOf (modFen p g s) q = if q = p then g (fenOf s p) else fenOf s q := mapGet_mapPut ..
@[simp] theorem fenOf_modFen_same (p : Nat) (g : Fen → Fen) (s : State) : fenOf (modFen p g s) p = g (fenOf s p) :=
  mapGet_mapPut_same ..
theorem fenOf_modFen_ne (p q : Nat) (g : Fen → Fen) (s : State) (h : q ≠ p) : fenOf (modFen p g s) q = fenOf s q :=
  mapGet_mapPut_ne _ _ _ _ _ h
theorem fenOf_spend (p pj q : Nat) (s : State) :
    fenOf (spend p pj s) q = if q = p then { fenOf s p with energyPj := (fenOf s p).energyPj + pj } else fenOf s q := fenOf_modFen ..
theorem fenOf_addPend (p : Nat) (w : PendWr) (q : Nat) (s : State) :
    fenOf (addPend p w s) q = if q = p then { fenOf s p with pend := pendInsert w (fenOf s p).pend } else fenOf s q := fenOf_modFen ..
@[simp] theorem fenOf_addPend_same (p : Nat) (w : PendWr) (s : State) :
    fenOf (addPend p w s) p = { fenOf s p with pend := pendInsert w (fenOf s p).pend } := fenOf_modFen_same ..
@[simp] theorem fenOf_spend_same (p pj : Nat) (s : State) :
    fenOf (spend p pj s) p = { fenOf s p with energyPj := (fenOf s p).energyPj + pj } := fenOf_modFen_same ..
theorem cwOf_modCw (x y : Nat) (g : Causeway → Causeway) (s : State) : cwOf (modCw x g s) y = if y = x then g (cwOf s x) else cwOf s y :=
  mapGet_mapPut ..
@[simp] theorem cwOf_modCw_same (x : Nat) (g : Causeway → Causeway) (s : State) : cwOf (modCw x g s) x = g (cwOf s x) := mapGet_mapPut_same ..
theorem cwOf_modCw_ne (x y : Nat) (g : Causeway → Causeway) (s : State) (h : y ≠ x) : cwOf (modCw x g s) y = cwOf s y := mapGet_mapPut_ne _ _ _ _ _ h
theorem lodeOf_modLode (x y : Nat) (g : Lode → Lode) (s : State) : lodeOf (modLode x g s) y = if y = x then g (lodeOf s x) else lodeOf s y :=
  mapGet_mapPut ..
@[simp] theorem lodeOf_modLode_same (x : Nat) (g : Lode → Lode) (s : State) : lodeOf (modLode x g s) x = g (lodeOf s x) := mapGet_mapPut_same ..
theorem lodeOf_modLode_ne (x y : Nat) (g : Lode → Lode) (s : State) (h : y ≠ x) : lodeOf (modLode x g s) y = lodeOf s y := mapGet_mapPut_ne _ _ _ _ _ h
theorem objOf_modObj (x y : Nat) (g : Obj → Obj) (s : State) : objOf (modObj x g s) y = if y = x then g (objOf s x) else objOf s y :=
  mapGet_mapPut ..
@[simp] theorem objOf_modObj_same (x : Nat) (g : Obj → Obj) (s : State) : objOf (modObj x g s) x = g (objOf s x) := mapGet_mapPut_same ..
theorem objOf_modObj_ne (x y : Nat) (g : Obj → Obj) (s : State) (h : y ≠ x) : objOf (modObj x g s) y = objOf s y := mapGet_mapPut_ne _ _ _ _ _ h
theorem streamOf_modStream (x y : Nat) (g : Stream → Stream) (s : State) : streamOf (modStream x g s) y = if y = x then g (streamOf s x) else streamOf s y :=
  mapGet_mapPut ..
@[simp] theorem streamOf_modStream_same (x : Nat) (g : Stream → Stream) (s : State) : streamOf (modStream x g s) x = g (streamOf s x) := mapGet_mapPut_same ..
theorem streamOf_modStream_ne (x y : Nat) (g : Stream → Stream) (s : State) (h : y ≠ x) : streamOf (modStream x g s) y = streamOf s y := mapGet_mapPut_ne _ _ _ _ _ h
theorem rankOf_modRank (x y : Nat) (g : Rank → Rank) (s : State) : rankOf (modRank x g s) y = if y = x then g (rankOf s x) else rankOf s y :=
  mapGet_mapPut ..
@[simp] theorem rankOf_modRank_same (x : Nat) (g : Rank → Rank) (s : State) : rankOf (modRank x g s) x = g (rankOf s x) := mapGet_mapPut_same ..
theorem rankOf_modRank_ne (x y : Nat) (g : Rank → Rank) (s : State) (h : y ≠ x) : rankOf (modRank x g s) y = rankOf s y := mapGet_mapPut_ne _ _ _ _ _ h
theorem flashOf_modFlash (x y : Nat) (g : FlashQueue → FlashQueue) (s : State) : flashOf (modFlash x g s) y = if y = x then g (flashOf s x) else flashOf s y :=
  mapGet_mapPut ..
@[simp] theorem flashOf_modFlash_same (x : Nat) (g : FlashQueue → FlashQueue) (s : State) : flashOf (modFlash x g s) x = g (flashOf s x) := mapGet_mapPut_same ..
theorem flashOf_modFlash_ne (x y : Nat) (g : FlashQueue → FlashQueue) (s : State) (h : y ≠ x) : flashOf (modFlash x g s) y = flashOf s y := mapGet_mapPut_ne _ _ _ _ _ h
theorem planOf_putPlan (x y : Nat) (v : Option Plan) (s : State) : planOf (putPlan x v s) y = if y = x then v else planOf s y := mapGet_mapPut ..
@[simp] theorem planOf_putPlan_same (x : Nat) (v : Option Plan) (s : State) : planOf (putPlan x v s) x = v := mapGet_mapPut_same ..
theorem planOf_putPlan_ne (x y : Nat) (v : Option Plan) (s : State) (h : y ≠ x) : planOf (putPlan x v s) y = planOf s y := mapGet_mapPut_ne _ _ _ _ _ h
theorem queueOf_putQueue (x y : Nat) (v : Queue) (s : State) : queueOf (putQueue x v s) y = if y = x then v else queueOf s y := mapGet_mapPut ..
@[simp] theorem queueOf_putQueue_same (x : Nat) (v : Queue) (s : State) : queueOf (putQueue x v s) x = v := mapGet_mapPut_same ..
theorem queueOf_putQueue_ne (x y : Nat) (v : Queue) (s : State) (h : y ≠ x) : queueOf (putQueue x v s) y = queueOf s y := mapGet_mapPut_ne _ _ _ _ _ h

@[simp] theorem pendInsert_mem (w x : PendWr) (l : List PendWr) : x ∈ pendInsert w l ↔ x = w ∨ x ∈ l := by
  induction l with
  | nil => simp [pendInsert]
  | cons y l ih =>
    unfold pendInsert
    split
    · simp
    · simp only [List.mem_cons, ih]
      constructor
      · rintro (h | h | h) <;> simp [h]
      · rintro (h | h | h) <;> simp [h]

/-- The events of the MK cycle of an event are those before it and what it did (R12). -/
theorem eventsOf_eventReg (off : Nat) (f : Word → Word) (s : State) :
    eventsOf (eventReg off f s) off =
      some (((eventsOf s off).getD (reg s off, 0#32)).1, f ((eventsOf s off).getD (reg s off, 0#32)).2) := by
  have h : (eventReg off f s).events.cycle = mkCycle (eventReg off f s) := rfl
  unfold eventsOf
  rw [if_pos h]
  exact mapGet_mapPut_same ..

end Sys2Proof.Machine
end

