-- ==== Sys2Proof/Laws/Command.lean ====
section
/-!
SUPPORT. What acceptance of a packet, a reply and the issue of a slot's operation do, each once.
-/

namespace Sys2Proof.Machine

/-! ## Acceptance -/

@[simp] theorem packetCheck_putQueue (opcode : Nat) (p : Packet) (k : Nat) (x : Queue) (s : State) :
    packetCheck opcode p (putQueue k x s) = packetCheck opcode p s := rfl

/-- A command that passes steps 1 to 3 of R499 runs on the state in which its queue has moved on. -/
theorem acceptCmd_accepted {opcode : Nat} {q : Fin 16} {p : Packet} {s : State} {tgt : Target}
    (h : Accepted opcode q p s tgt) (body : Cmd → Target → State → State) :
    acceptCmd opcode q.val p body s = body (cmdOf opcode q p s) tgt (taken opcode q p s) := by
  unfold acceptCmd
  rw [if_pos h.ready]
  dsimp only
  rw [if_neg (fun k => k h.seq)]
  simp only [packetCheck_putQueue, h.check]
  rfl

/-- A packet that steps 2 and 3 of R499 refuse is answered with the status of the check that failed. -/
theorem acceptCmd_refused {opcode : Nat} {q : Fin 16} {p : Packet} {s : State} {st : Status}
    (hr : cmdReady opcode q.val p s = true) (hs : p.qseq = (queueOf s q.val).expSeq) (hc : packetCheck opcode p s = .inl st)
    (body : Cmd → Target → State → State) :
    acceptCmd opcode q.val p body s = reply (cmdOf opcode q p s) st (taken opcode q p s) := by
  unfold acceptCmd
  rw [if_pos hr]
  dsimp only
  rw [if_neg (fun k => k hs)]
  simp only [packetCheck_putQueue, hc]
  rfl

/-- A packet that may not be accepted changes nothing. -/
theorem acceptCmd_notReady {opcode q : Nat} {p : Packet} {s : State} (h : cmdReady opcode q p s = false)
    (body : Cmd → Target → State → State) : acceptCmd opcode q p body s = s := by
  unfold acceptCmd
  rw [if_neg (by simp [h])]

/-- What the state in which an accepted command runs has of its queue. -/
theorem queueOf_taken (opcode : Nat) (q : Fin 16) (p : Packet) (s : State) :
    queueOf (taken opcode q p s) q.val = { queueOf s q.val with
      head := ((queueOf s q.val).head + 1) % ringSizeOf s q.val
      inprog := (queueOf s q.val).inprog ++ [(cmdOf opcode q p s, repliesOf opcode)], expSeq := (queueOf s q.val).expSeq + 1 } := by
  simp [taken]

/-- Acceptance leaves every other queue. -/
theorem queueOf_taken_ne (opcode : Nat) (q : Fin 16) (p : Packet) (s : State) (k : Nat) (h : k ≠ q.val) :
    queueOf (taken opcode q p s) k = queueOf s k := by
  simp [taken, queueOf_putQueue_ne _ _ _ _ h]

section

variable {opcode : Nat} {q : Fin 16} {p : Packet} {s : State} {x y z : Nat}

@[simp] theorem taken_pending : (taken opcode q p s).pending = s.pending := rfl
@[simp] theorem taken_now : (taken opcode q p s).now = s.now := rfl
@[simp] theorem taken_ck : (taken opcode q p s).ck = s.ck := rfl
@[simp] theorem taken_fens : (taken opcode q p s).fens = s.fens := rfl
@[simp] theorem taken_regs : (taken opcode q p s).regs = s.regs := rfl
@[simp] theorem taken_events : (taken opcode q p s).events = s.events := rfl
@[simp] theorem taken_shadow : (taken opcode q p s).shadow = s.shadow := rfl
@[simp] theorem taken_pendSet : (taken opcode q p s).pendSet = s.pendSet := rfl
@[simp] theorem taken_latch : (taken opcode q p s).latch = s.latch := rfl
@[simp] theorem taken_staleSeen : (taken opcode q p s).staleSeen = s.staleSeen := rfl
@[simp] theorem taken_lodeSample : (taken opcode q p s).lodeSample = s.lodeSample := rfl
@[simp] theorem taken_objSample : (taken opcode q p s).objSample = s.objSample := rfl
@[simp] theorem taken_objStage : (taken opcode q p s).objStage = s.objStage := rfl
@[simp] theorem taken_objOp : (taken opcode q p s).objOp = s.objOp := rfl
@[simp] theorem taken_log : (taken opcode q p s).log = s.log := rfl
@[simp] theorem taken_service : (taken opcode q p s).service = s.service := rfl
@[simp] theorem taken_spareMap : (taken opcode q p s).spareMap = s.spareMap := rfl
@[simp] theorem taken_mapGen : (taken opcode q p s).mapGen = s.mapGen := rfl
@[simp] theorem taken_spareFens : (taken opcode q p s).spareFens = s.spareFens := rfl
@[simp] theorem taken_spareTree : (taken opcode q p s).spareTree = s.spareTree := rfl
@[simp] theorem taken_spareCore : (taken opcode q p s).spareCore = s.spareCore := rfl
@[simp] theorem taken_spareWay : (taken opcode q p s).spareWay = s.spareWay := rfl
@[simp] theorem taken_spareTa : (taken opcode q p s).spareTa = s.spareTa := rfl
@[simp] theorem taken_retiredWay : (taken opcode q p s).retiredWay = s.retiredWay := rfl
@[simp] theorem taken_wayPending : (taken opcode q p s).wayPending = s.wayPending := rfl
@[simp] theorem taken_tierA : (taken opcode q p s).tierA = s.tierA := rfl
@[simp] theorem taken_tierB : (taken opcode q p s).tierB = s.tierB := rfl
@[simp] theorem taken_cache : (taken opcode q p s).cache = s.cache := rfl
@[simp] theorem taken_objs : (taken opcode q p s).objs = s.objs := rfl
@[simp] theorem taken_lodes : (taken opcode q p s).lodes = s.lodes := rfl
@[simp] theorem taken_arms : (taken opcode q p s).arms = s.arms := rfl
@[simp] theorem taken_plans : (taken opcode q p s).plans = s.plans := rfl
@[simp] theorem taken_loads : (taken opcode q p s).loads = s.loads := rfl
@[simp] theorem taken_streams : (taken opcode q p s).streams = s.streams := rfl
@[simp] theorem taken_streamJobs : (taken opcode q p s).streamJobs = s.streamJobs := rfl
@[simp] theorem taken_moves : (taken opcode q p s).moves = s.moves := rfl
@[simp] theorem taken_ports : (taken opcode q p s).ports = s.ports := rfl
@[simp] theorem taken_decisions : (taken opcode q p s).decisions = s.decisions := rfl
@[simp] theorem taken_selPending : (taken opcode q p s).selPending = s.selPending := rfl
@[simp] theorem taken_carryTree : (taken opcode q p s).carryTree = s.carryTree := rfl
@[simp] theorem taken_leaves : (taken opcode q p s).leaves = s.leaves := rfl
@[simp] theorem taken_treeBusy : (taken opcode q p s).treeBusy = s.treeBusy := rfl
@[simp] theorem taken_ring : (taken opcode q p s).ring = s.ring := rfl
@[simp] theorem taken_cws : (taken opcode q p s).cws = s.cws := rfl
@[simp] theorem taken_ringId : (taken opcode q p s).ringId = s.ringId := rfl
@[simp] theorem taken_ringPos : (taken opcode q p s).ringPos = s.ringPos := rfl
@[simp] theorem taken_ringSize : (taken opcode q p s).ringSize = s.ringSize := rfl
@[simp] theorem taken_c2Role : (taken opcode q p s).c2Role = s.c2Role := rfl
@[simp] theorem taken_tempo : (taken opcode q p s).tempo = s.tempo := rfl
@[simp] theorem taken_snap : (taken opcode q p s).snap = s.snap := rfl
@[simp] theorem taken_twin : (taken opcode q p s).twin = s.twin := rfl
@[simp] theorem taken_heron : (taken opcode q p s).heron = s.heron := rfl
@[simp] theorem taken_mbox : (taken opcode q p s).mbox = s.mbox := rfl
@[simp] theorem taken_plant : (taken opcode q p s).plant = s.plant := rfl
@[simp] theorem taken_flash : (taken opcode q p s).flash = s.flash := rfl
@[simp] theorem taken_flashNext : (taken opcode q p s).flashNext = s.flashNext := rfl
@[simp] theorem taken_ranks : (taken opcode q p s).ranks = s.ranks := rfl
@[simp] theorem taken_jobs : (taken opcode q p s).jobs = s.jobs := rfl
@[simp] theorem taken_images : (taken opcode q p s).images = s.images := rfl
@[simp] theorem taken_queries : (taken opcode q p s).queries = s.queries := rfl
@[simp] theorem taken_out : (taken opcode q p s).out = s.out := rfl
@[simp] theorem taken_free : (taken opcode q p s).free = s.free := rfl
@[simp] theorem reg_taken : reg (taken opcode q p s) x = reg s x := rfl
@[simp] theorem regBit_taken : regBit (taken opcode q p s) x y = regBit s x y := rfl
@[simp] theorem regBits_taken : regBits (taken opcode q p s) x y z = regBits s x y z := rfl
@[simp] theorem fenReg_taken : fenReg (taken opcode q p s) x y = fenReg s x y := rfl
@[simp] theorem fenOf_taken : fenOf (taken opcode q p s) x = fenOf s x := rfl
@[simp] theorem cwOf_taken : cwOf (taken opcode q p s) x = cwOf s x := rfl
@[simp] theorem lodeOf_taken : lodeOf (taken opcode q p s) x = lodeOf s x := rfl
@[simp] theorem objOf_taken : objOf (taken opcode q p s) x = objOf s x := rfl
@[simp] theorem streamOf_taken : streamOf (taken opcode q p s) x = streamOf s x := rfl
@[simp] theorem planOf_taken : planOf (taken opcode q p s) x = planOf s x := rfl
@[simp] theorem pfenOf_taken : pfenOf (taken opcode q p s) x = pfenOf s x := rfl
@[simp] theorem logicalOf_taken : logicalOf (taken opcode q p s) x = logicalOf s x := rfl
@[simp] theorem rankOf_taken : rankOf (taken opcode q p s) x = rankOf s x := rfl
@[simp] theorem flashOf_taken : flashOf (taken opcode q p s) x = flashOf s x := rfl
@[simp] theorem ckRuns_taken : ckRuns (taken opcode q p s) = ckRuns s := rfl
@[simp] theorem tempoStopped_taken : tempoStopped (taken opcode q p s) = tempoStopped s := rfl
@[simp] theorem ringSizeOf_taken : ringSizeOf (taken opcode q p s) x = ringSizeOf s x := rfl
@[simp] theorem plansOf_taken : plansOf (taken opcode q p s) = plansOf s := rfl

end

/-! ## Issue -/

/-- An operation that issues runs on the state at its issue. -/
theorem issueOp_issues {p : Fin 72} {slot : Nat} {s : State} (h : Issues p slot s) (body : State → State) :
    issueOp p.val slot body s = body (atIssue p.val slot s) := by
  unfold issueOp
  rw [if_pos h.can]
  dsimp only
  rw [if_neg (by simp [h.clean])]

/-- A fen that cannot issue leaves the state as it is. -/
theorem issueOp_not {p slot : Nat} {s : State} (h : canIssue s p slot = false) (body : State → State) :
    issueOp p slot body s = s := by
  unfold issueOp
  rw [if_neg (by simp [h])]

end Sys2Proof.Machine
end

