-- ==== Sys2Proof/Laws/Fold.lean ====
section
/-!
SUPPORT. What folds keep, and what a sparse map lists.
-/

namespace Sys2Proof.Machine

/-- What each step of a fold keeps, the fold keeps. -/
theorem foldl_keeps {α β : Type} {P : α → Prop} {f : α → β → α} (h : ∀ s x, P s → P (f s x)) :
    ∀ (l : List β) (s : α), P s → P (l.foldl f s)
  | [], _, hs => hs
  | x :: l, s, hs => foldl_keeps h l (f s x) (h s x hs)

/-- A reading that no step of a fold changes, the fold does not change. -/
theorem foldl_same {α β γ : Type} {g : α → γ} {f : α → β → α} (h : ∀ s x, g (f s x) = g s) :
    ∀ (l : List β) (s : α), g (l.foldl f s) = g s
  | [], _ => rfl
  | x :: l, s => by rw [List.foldl_cons, foldl_same h l, h]

/-- What a map gives for a key that is not its default is listed in it. -/
theorem mem_of_mapGet {β : Type} {d b : β} {i : Nat} : ∀ {m : SMap β}, mapGet d m i = b → b ≠ d → (i, b) ∈ m
  | [], h, hd => absurd h.symm hd
  | (k, v) :: m, h, hd => by
    simp only [mapGet] at h
    split at h
    · next hk => subst hk; subst h; exact List.mem_cons_self
    · split at h
      · exact absurd h.symm hd
      · exact List.mem_cons_of_mem _ (mem_of_mapGet h hd)

end Sys2Proof.Machine
end

