-- ==== Sys2Proof/Tests/Slice0.lean ====
section
/-!
SUPPORT. Tests of one step each, and for each statement a state and operands that meet its hypotheses.
-/

namespace Sys2Proof.Tests

open Sys2Proof Sys2Proof.Machine

set_option maxRecDepth 100000
set_option Elab.async false
set_option exponentiation.threshold 4096

/-! ## Small states and packets -/

/-- A packet with tag 7 and sequence number 0: its length, target, epoch and parameter bytes. -/
def pk (len target epoch params : Nat) : Packet :=
  ⟨0, 7, BitVec.ofNat 16 len, BitVec.ofNat 16 target, BitVec.ofNat 32 epoch, 0, BitVec.ofNat 384 params⟩

/-- A packet for the block. -/
def pkB (len params : Nat) : Packet := pk len 0xFFFF 0 params

/-- The firmware runs and queue 0 holds one command. -/
def sQ (s : State) : State := { s with mbox := { s.mbox with fw := .running }, queues := [(0, { enabled := true, tail := 1 })] }

/-- That state right after reset. -/
def sR : State := sQ State.reset

/-- The tempo runs. -/
def running (s : State) : State := { s with tempo := { s.tempo with running := true } }

/-- The tier domain is up. -/
def tierUp (s : State) : State := { s with plant := { s.plant with tierUp := true } }

/-- Acceptance as one test. -/
def accB (opcode : Nat) (q : Fin 16) (p : Packet) (s : State) (tgt : Target) : Bool :=
  cmdReady opcode q.val p s && decide (p.qseq = (queueOf s q.val).expSeq) && decide (packetCheck opcode p s = .inr tgt)

theorem acc {opcode : Nat} {q : Fin 16} {p : Packet} {s : State} {tgt : Target} (h : accB opcode q p s tgt = true) :
    Accepted opcode q p s tgt := by
  simp only [accB, Bool.and_eq_true, decide_eq_true_eq] at h
  exact ⟨h.1.1, h.1.2, h.2⟩

/-- Whether an outcome is a next state of a kind. -/
def runs (o : Host.Outcome State Fault Refusal) (f : State → Bool) : Bool :=
  match o with
  | .next t => f t
  | _ => false

/-- The last thing that was sent. -/
def lastOut (t : State) : Option Out := t.out.getLast?

/-- Whether the last thing sent is a final reply of queue 0 with a status. -/
def answered (st : Status) (t : State) : Bool :=
  match lastOut t with
  | some (.reply 0 0 b) => decide (b.extractLsb' 16 16 = st) && b.getLsbD 44
  | _ => false

/-! ## Steps, the queue and the log -/

theorem witness_StepRunsFrontCommand :
    ({ State.reset with pending := [.errPopWrite, .rstCtrlWarm] } : State).pending = .errPopWrite :: [.rstCtrlWarm] := rfl

theorem witness_IdleStepIsOneCk : State.reset.pending = [] := rfl

theorem test_idle_is_one_ck : runs (step State.reset) (fun t => decide (t.now = 2 ∧ t.ck = 1)) = true := by decide

theorem witness_StepKeepsInvariant :
    Inv { State.reset with pending := [.errPopWrite] } ∧
      step { State.reset with pending := [.errPopWrite] } = .next State.reset := ⟨⟨by decide, by decide, by decide⟩, rfl⟩

theorem witness_CommandsKeepQueueAndTime : exec .errPopWrite State.reset = .next State.reset := rfl

theorem witness_MisalignedAccessFaults : (1#20).toNat % 4 ≠ 0 ∧ (0xFFFFF#20).toNat % 4 ≠ 0 := by decide

/-- Queue 0 with its reply tail at the last entry but one, and at the last of 16, and with two rings. -/
theorem witness_ReplyIsPosted :
    (repliesFor { replies := { tail := 14 } } 0).tail + 1 < (repliesFor {} 0).size ∧
      (repliesFor {} 0).size ≤ (repliesFor { replies := { tail := 15 } } 0).tail + 1 ∧
      repliesFor { gen := 1, old := [(0, { base := 0x1000, tail := 3 })] } 0 = { base := 0x1000, tail := 3 } ∧ (0 : Nat) ≠ 1 := by
  decide

/-- R493: a command that was in progress when its queue was disabled and enabled again is answered in the old ring. -/
theorem test_reply_old_ring :
    let c : Cmd := cmdOf 0x01 0 (pkB 0 0) sR
    let s : State := { sR with queues := [(0, { replies := { base := 0x1000, tail := 3 }, inprog := [(c, 1)] })] }
    (match execCqEnable 0 5 s with
      | .next t => decide ((reply c stOk t).out.map (fun o => match o with | .reply _ a _ => a | _ => 0) = [0x1060] ∧
          (queueOf (reply c stOk t) 0).replies = { size := 32 })
      | _ => false) = true := by decide

def logEntry : LogEntry := ⟨1, false, 2, 3, 4⟩

/-- A state whose log holds `n` entries. -/
def sLog (n : Nat) (s : State) : State := { s with log := List.replicate n logEntry }

theorem witness_ErrorLogHolds256 :
    (sLog 255 State.reset).log.length < 256 ∧ 256 ≤ (sLog 256 State.reset).log.length ∧
      (sLog 1 State.reset).log = logEntry :: [] ∧ lkFatal.2 = true ∧ lkReserved.2 = false := by decide

theorem test_log_full :
    (logAdd lkFatal 0x300 [5] (sLog 256 State.reset)).log.length = 256 ∧
      reg (logAdd lkFatal 0x300 [5] (sLog 256 State.reset)) 0x400C = 1#32 := by decide

/-! ## Packets -/

theorem witness_PacketChecksInOrder :
    cmdReady 0x22 0 (pkB 4 0) State.reset = false ∧
      (cmdReady 0x22 0 { pkB 4 0 with qseq := 1 } sR = true ∧ ({ pkB 4 0 with qseq := 1 } : Packet).qseq ≠ (queueOf sR 0).expSeq) ∧
      (cmdReady 0x22 0 (pkB 5 0) sR = true ∧ (pkB 5 0).qseq = (queueOf sR 0).expSeq ∧
        packetCheck 0x22 (pkB 5 0) sR = .inl stRefusedConfig) := by decide

theorem test_sequence : runs (exec (.holdObject 0 { pkB 4 0 with qseq := 1 }) sR) (fun t =>
    answered stRefusedConfig t && decide ((queueOf t 0).stopped ∧ (queueOf t 0).reason = 1 ∧ (queueOf t 0).expSeq = 0)) = true := by decide

theorem witness_NopQueryAndMode_nop : Accepted 0x01 0 (pkB 0 0) sR .block ∧
    (opForm (0xFF#8).toNat = none ∧ cmdReady (0xFF#8).toNat 0 (pkB 0 0) sR = true ∧ (pkB 0 0).qseq = (queueOf sR 0).expSeq) :=
  ⟨acc (by decide), by decide⟩

theorem witness_NopQueryAndMode_query :
    (Accepted 0x02 0 (pkB 16 0xF0003) sR .block ∧ queryRecord sR (pkB 16 0xF0003) = some (16, 0) ∧ par (pkB 16 0xF0003) 8 8 = 0) ∧
      (Accepted 0x02 0 (pkB 16 0x400000000000FFF0002) sR .block ∧
        queryRecord sR (pkB 16 0x400000000000FFF0002) = some (48, 0) ∧
        par (pkB 16 0x400000000000FFF0002) 8 8 ≠ 0 ∧ par (pkB 16 0x400000000000FFF0002) 8 8 % 64 = 0) ∧
      ({ sR with queries := [(cmdOf 0x02 0 (pkB 16 0) sR, 5)] } : State).queries.find? (fun y => decide (y.1.q = (0 : Fin 16).val)) =
        some (cmdOf 0x02 0 (pkB 16 0) sR, 5) :=
  ⟨⟨acc (by decide), by decide⟩, ⟨acc (by decide), by decide⟩, by decide⟩

theorem witness_NopQueryAndMode_mode :
    (Accepted 0x50 0 (pkB 4 1) sR .block ∧ par (pkB 4 1) 0 1 < 2 ∧ tempoStopped sR = true) ∧
      (Accepted 0x50 0 (pkB 4 0) (running sR) .block ∧ par (pkB 4 0) 0 1 < 2 ∧ tempoStopped (running sR) = false) ∧
      ((queueOf sR 0).enabled = true ∧ (queueOf sR 0).stopped = false ∧ (queueOf sR 0).head ≠ (queueOf sR 0).tail ∧
        sR.mbox.fw = .running ∧ 1 ≤ replyRoom sR 0) :=
  ⟨⟨acc (by decide), by decide⟩, ⟨acc (by decide), by decide⟩, by decide⟩

theorem test_nop : runs (exec (.nop 0 1 (pkB 0 0)) sR) (answered stOk) = true := by decide

theorem test_query : runs (exec (.query 0 (pkB 16 0xF0003)) sR) (answered stOk) = true := by decide

theorem test_setMode : runs (exec (.setMode 0 (pkB 4 0)) sR) (fun t => answered stOk t && !t.service) = true := by decide

theorem test_cmdFetchErr : runs (exec (.cmdFetchErr 0) sR) (fun t =>
    decide ((queueOf t 0).stopped ∧ (queueOf t 0).reason = 2 ∧ t.log.length = 1)) = true := by decide

/-! ## Plans and COMMIT -/

/-- A binding of one tile of logical fen 0's array 0. -/
def bind1 (index depth : Nat) : Binding := ⟨index, false, 1, [(0, 0, depth)], [(0, 0, depth)], 1⟩

/-- A plan of logical fen 0 with two bindings. -/
def plan1 : Plan := ⟨1, 0, false, false, 100, [bind1 0 0, bind1 1 1], [], [], [], [], 0, 0, List.replicate 6 0, 0, []⟩

/-- A state in which plan 15 is that plan. -/
def sPlan (s : State) : State := { s with plans := [(15, some plan1)] }

theorem witness_PlanCommands_load :
    Accepted 0x08 0 (pkB 16 0x0F000020000000000000001000) sR .block ∧ par (pkB 16 0x0F000020000000000000001000) 12 1 < 16 ∧
      par (pkB 16 0x0F000020000000000000001000) 0 8 % 4096 = 0 := ⟨acc (by decide), by decide⟩

theorem test_loadPlan : runs (exec (.loadPlan 0 (pkB 16 0x0F000020000000000000001000)) sR) (fun t =>
    decide (lastOut t = some (.fabricFetch 0x1000 0x2000) ∧ t.loads.length = 1)) = true := by decide

/-- A LOAD_PLAN of plan 15 whose image is awaited. -/
def planJob : LoadPlanJob := ⟨cmdOf 0x08 0 (pkB 16 0) sR, 0x1000, 0x1000, 15⟩

theorem witness_PlanCommands_refused :
    ({ sR with loads := [planJob] } : State).loads = planJob :: [] ∧
      (match checkImage sR planJob none with | .inl _ => true | .inr _ => false) = true := by decide

/-- A plan image of no fens: header, one directory entry and its CRC. -/
def planImg : List Byte := leBytes 80 (0x01014E504C31 + 80 * 2 ^ 64 + 2778229323 * 2 ^ 96 + 2 ^ 512)

theorem witness_PlanCommands_installed :
    ({ sR with loads := [{ planJob with size := 80 }] } : State).loads = { planJob with size := 80 } :: [] ∧
      (match checkImage sR { planJob with size := 80 } (some planImg) with | .inl _ => false | .inr _ => true) = true := by decide

/-- `sPlan` with a lode of the plan that has a transfer in flight. -/
def sPlanBusy (s : State) : State := modLode 3 (fun x => { x with plan := some 15, inflight := [⟨0, 0, 0, [], [], none, 0, 0, [], 0, []⟩] }) (sPlan s)

theorem witness_PlanCommands_unload :
    (Accepted 0x09 0 (pkB 4 15) (sPlan (running sR)) .block ∧ planOf (sPlan (running sR)) (par (pkB 4 15) 0 1) = some plan1 ∧ plan1.gone = false ∧
      tempoStopped (sPlan (running sR)) = false) ∧
      (Accepted 0x09 0 (pkB 4 15) (sPlan sR) .block ∧ planOf (sPlan sR) (par (pkB 4 15) 0 1) = some plan1 ∧
        tempoStopped (sPlan sR) = true ∧ planHasLodes (sPlan sR) (par (pkB 4 15) 0 1) = false) ∧
      (Accepted 0x09 0 (pkB 4 15) (sPlanBusy sR) .block ∧ planOf (sPlanBusy sR) (par (pkB 4 15) 0 1) = some plan1 ∧
        tempoStopped (sPlanBusy sR) = true ∧ (lodeOf (sPlanBusy sR) 3).plan = some (par (pkB 4 15) 0 1) ∧
        (lodeOf (sPlanBusy sR) 3).inflight ≠ []) :=
  ⟨⟨acc (by decide), by decide⟩, ⟨acc (by decide), by decide⟩, acc (by decide), by decide⟩

theorem test_unloadPlan : runs (exec (.unloadPlan 0 (pkB 4 15)) (sPlan sR)) (fun t =>
    answered stOk t && decide (plansOf t = [])) = true := by decide

theorem witness_CommitTakesEffect :
    (Accepted 0x0A 0 (pkB 0 0) sR .block ∧ (commitChecks (taken 0x0A 0 (pkB 0 0) sR) sR.shadow).find? (fun x => !x.2) = none ∧
      tempoStopped sR = true) ∧
      (Accepted 0x0A 0 (pkB 0 0) (running sR) .block ∧
        (commitChecks (taken 0x0A 0 (pkB 0 0) (running sR)) sR.shadow).find? (fun x => !x.2) = none ∧
        tempoStopped (running sR) = false) ∧
      (commitChecks (taken 0x0A 0 (pkB 0 0) sR) [(0x1004, some 199#32)]).find? (fun x => !x.2) = some (0x1004, false) :=
  ⟨⟨acc (by decide), by decide⟩, ⟨acc (by decide), by decide⟩, by decide⟩

theorem test_commit : runs (exec (.commit 0 (pkB 0 0)) { sR with shadow := [(0x1004, some 200#32)] }) (fun t =>
    answered stOk t && decide (reg t 0x1004 = 200#32)) = true := by decide

/-! ## Lodes -/

/-- The tier engine works. -/
def sT : State := tierUp sR

theorem witness_LodeCommands_arm :
    Accepted 0x10 0 (pkB 16 0x400000000000000003FF) sT .block ∧ par (pkB 16 0x400000000000000003FF) 0 2 < 1024 ∧ tierWorks sT = true :=
  ⟨acc (by decide), by decide⟩

/-- An ARM_LODE of lode 1023 whose descriptor is awaited. -/
def armJob : ArmJob := ⟨1023, 0x4000, cmdOf 0x10 0 (pkB 16 0) sR⟩

/-- The lode is being armed. -/
def sArm : State := { sT with arms := [armJob] }

/-- A fabric read lode's descriptor. -/
def fabricRead : BitVec 512 := 2

theorem witness_LodeCommands_fetched :
    sArm.arms.find? (fun j => decide (j.l = (1023 : Fin 1024).val)) = some armJob ∧
      armCheck { sArm with arms := sArm.arms.erase armJob } 1023 fabricRead = .inr [] ∧
      armCheck { sArm with arms := sArm.arms.erase armJob } 1023 (2 ^ 51) = .inl stRefusedConfig := by decide

theorem test_armed : runs (exec (.lodeDescriptorFetched 1023 fabricRead) sArm) (fun t =>
    answered stOk t && decide ((lodeOf t 1023).st = .armed ∧ (lodeOf t 1023).gen = 1)) = true := by decide

/-- A state in which lode 1023 is armed with a descriptor. -/
def sLode (d : BitVec 512) (s : State) : State := { s with lodes := [(1023, { desc := d, st := .armed })] }

theorem witness_LodeCommands_rearm (d : BitVec 512) (hd : d = fabricRead ∨ d = 0x22) :
    Accepted 0x11 0 (pkB 16 0x3FF) (sLode d sT) .block ∧ par (pkB 16 0x3FF) 0 2 < 1024 ∧ par (pkB 16 0x3FF) 2 1 < 4 ∧
      tierWorks (sLode d sT) = true ∧ (lodeOf (sLode d sT) 1023).st ≠ .free ∧
      ldOk (withBases (lodeOf (sLode d sT) 1023).desc 0 0) = true ∧
      ldPersist (lodeOf (sLode d sT) 1023).desc = decide (d = 0x22) ∧
      (d = 0x22 → resolveLode (basesReleased 1023 (taken 0x11 0 (pkB 16 0x3FF) (sLode d sT))) (withBases d 0 0) = .inr []) ∧
      (d = fabricRead → resolveLode (lodeReleased 1023 (taken 0x11 0 (pkB 16 0x3FF) (sLode d sT))) (withBases d 0 0) = .inr []) := by
  rcases hd with rfl | rfl <;> exact ⟨acc (by decide), by decide⟩

theorem witness_LodeCommands_halt :
    Accepted 0x12 0 (pkB 4 0x3FF) (sLode fabricRead sT) .block ∧ par (pkB 4 0x3FF) 0 2 < 1024 ∧
      (lodeOf (sLode fabricRead sT) (par (pkB 4 0x3FF) 0 2)).st ≠ .free ∧
      (lodeOf (sLode fabricRead sT) (par (pkB 4 0x3FF) 0 2)).plan = none := ⟨acc (by decide), by decide⟩

theorem test_haltLode : runs (exec (.haltLode 0 (pkB 4 0x3FF)) (sLode fabricRead sT)) (fun t =>
    answered stOk t && decide ((lodeOf t 1023).st = .halted)) = true := by decide

/-! ## Streams -/

/-- Logical fen 0 is pfen 0, which is ON, and plan 15 is loaded. -/
def sOn (f : Fen) (s : State) : State :=
  { s with fens := [(0, { f with pwr := { st := .on } })], spareMap := [(0, some 0)] }

/-- That state with the firmware running and a plan loaded. -/
def sStr : State := sPlan (sOn {} sR)

/-- Stream 7 open on binding 0 of plan 15. -/
def stream7 (mode : BitVec 2) : Stream :=
  { sid := 7, st := .open, initMode := mode, plan := 15, tiles := [(0, 0, 0)], initHandle := 0x1003 }

/-- The last stream context holds it. -/
def sOpen (mode : BitVec 2) (s : State) : State := { s with streams := [(8191, stream7 mode)] }

/-- Object 3 of epoch 1. -/
def sObj (o : Obj) (s : State) : State := { s with objs := [(3, { o with valid := true, epoch := 1 })] }

theorem idle7 {s : State} (h : s.streamJobs = []) : StreamIdle 7 s := by simp [StreamIdle, h]

/-- STREAM_OPEN of stream 7 on plan 15's binding 0 in a mode. -/
def openPk (mode : Nat) : Packet := pkB 16 (0xF0007 + mode * 2 ^ 24 + 0x1003 * 2 ^ 64)

theorem witness_StreamCommands_open :
    StreamIdle (BitVec.ofNat 16 (par (openPk 0) 0 2)) sStr ∧
      (∀ m : Fin 3, Accepted 0x18 0 (openPk m.val) (sObj { size := 2 } sStr) .block ∧
        bindingOf sStr (par (openPk m.val) 2 1) (par (openPk m.val) 4 2) = some (bind1 0 0) ∧ freeStream sStr = some 0 ∧
        streamBy sStr 7 = none ∧ par (openPk m.val) 3 1 < 3 ∧ bindingHeld sStr 15 0 7 = false ∧
        initCheck (sObj { size := 2 } sStr) (BitVec.ofNat 32 (par (openPk m.val) 8 4)) (par (openPk m.val) 12 4) 1 = none) :=
  ⟨idle7 rfl, fun m => ⟨acc (by revert m; decide), by revert m; decide⟩⟩

theorem test_streamOpen : runs (exec (.streamOpen 0 (openPk 2)) sStr) (fun t =>
    answered stOk t && decide ((streamOf t 0).st = .awaiting ∧ (streamOf t 0).sid = 7 ∧ (streamOf t 0).tiles = [(0, 0, 0)])) = true := by
  decide

theorem witness_StreamCommands_close :
    StreamIdle (BitVec.ofNat 16 (par (pkB 4 7) 0 2)) (sOpen 0 sStr) ∧
      (Accepted 0x19 0 (pkB 4 7) (sOpen 0 sStr) .block ∧ streamBy (sOpen 0 sStr) 7 = some 8191 ∧ tempoStopped (sOpen 0 sStr) = true) ∧
      (Accepted 0x19 0 (pkB 4 7) (running (sOpen 0 sStr)) .block ∧ streamBy (running (sOpen 0 sStr)) 7 = some 8191 ∧
        tempoStopped (running (sOpen 0 sStr)) = false) :=
  ⟨idle7 rfl, ⟨acc (by decide), by decide⟩, acc (by decide), by decide⟩

theorem test_streamClose : runs (exec (.streamClose 0 (pkB 4 7)) (sOpen 0 sStr)) (fun t =>
    answered stOk t && decide (t.streams = [])) = true := by decide

theorem witness_StreamCommands_reset :
    StreamIdle (BitVec.ofNat 16 (par (pkB 4 7) 0 2)) (sOpen 0 sStr) ∧
      (∀ m : Fin 2, Accepted 0x1A 0 (pkB 4 7) (sObj { size := 2 } (sOpen (BitVec.ofNat 2 m.val) sStr)) .block ∧
        streamBy (sOpen (BitVec.ofNat 2 m.val) sStr) 7 = some 8191 ∧
        streamBinding (sOpen (BitVec.ofNat 2 m.val) sStr) (stream7 (BitVec.ofNat 2 m.val)) = some (bind1 0 0) ∧
        (stream7 (BitVec.ofNat 2 m.val)).st = .open ∧ (stream7 (BitVec.ofNat 2 m.val)).initMode ≠ 2 ∧
        initCheck (sObj { size := 2 } (sOpen (BitVec.ofNat 2 m.val) sStr)) (stream7 0).initHandle (stream7 0).initOffset.toNat 1 = none) :=
  ⟨idle7 rfl, fun m => ⟨acc (by revert m; decide), by revert m; decide⟩⟩

/-- STATE_MOVE of stream 7 to binding 1 of plan 15. -/
def movePk : Packet := pkB 24 0x1000F00000007

theorem witness_StreamCommands_move :
    StreamIdle (BitVec.ofNat 16 (par movePk 0 2)) (sOpen 0 sStr) ∧ Accepted 0x1B 0 movePk (sOpen 0 sStr) .block ∧
      streamBy (sOpen 0 sStr) 7 = some 8191 ∧ streamBinding (sOpen 0 sStr) (stream7 0) = some (bind1 0 0) ∧
      (streamOf (sOpen 0 sStr) 8191).st = .open ∧ par movePk 2 1 < 2 ∧
      moveDestCheck movePk (stream7 0) (bind1 0 0) (taken 0x1B 0 movePk (sOpen 0 sStr)) = .inr [(0, 0, 1)] :=
  ⟨idle7 rfl, acc (by decide), by decide⟩

theorem test_stateMove : runs (exec (.stateMove 0 movePk) (sOpen 0 sStr)) (fun t =>
    decide ((streamOf t 8191).st = .moving ∧ t.moves.length = 1 ∧ (tileOf (fenOf t 0) 0 0).frozen)) = true := by decide

/-- A move of two tiles to a tier object. -/
def move2 (written read : Nat) : Move :=
  { sid := 7, incoming := false, copy := false, dest := 1, plan := 0, binding := 0, handle := 0x1003, offset := 0, cw := 0, remoteSid := 0,
    src := [(0, 0, 0), (0, 0, 1)], dst := [], readDone := read, writeDone := written, tierWr := 1 }

theorem witness_MoveTierWriteDone :
    (moveOf { sOpen 0 sStr with moves := [move2 0 2] } 7 false = some (move2 0 2) ∧ (move2 0 2).dest = 1 ∧ 0 < (move2 0 2).tierWr ∧
      (move2 0 2).writeDone + 1 < (move2 0 2).src.length) ∧
      (moveOf { sOpen 0 sStr with moves := [move2 1 2] } 7 false = some (move2 1 2) ∧ (move2 1 2).dest = 1 ∧
        (move2 1 2).src.length ≤ (move2 1 2).writeDone + 1 ∧ (move2 1 2).src.length ≤ (move2 1 2).readDone ∧ (move2 1 2).tierWr = 1 ∧
        (∀ j ∈ (sOpen 0 sStr).streamJobs, j.sid = 7 → j.started = true) ∧ (sOpen 0 sStr).streamJobs = [] ∧ streamBy (sOpen 0 sStr) 7 = some 8191 ∧ (move2 1 2).copy = false) := by decide

theorem test_moveTierWriteDone : runs (exec (.stateMoveTierWriteDone 7) { sOpen 0 sStr with moves := [move2 1 2] }) (fun t =>
    decide (t.moves = [] ∧ t.streams = [])) = true := by decide

/-! ## Objects -/

theorem witness_ObjectHolds (n : Nat) (hn : n = 0 ∨ n = 0xFFFE ∨ n = 0xFFFF ∨ n = 1) :
    Accepted 0x22 0 (pkB 4 0x1003) (sObj { holds := n } sR) .block ∧ Accepted 0x23 0 (pkB 4 0x1003) (sObj { holds := n } sR) .block ∧
      objCurrent (sObj { holds := n } sR) (BitVec.ofNat 32 (par (pkB 4 0x1003) 0 4)) = some 3 ∧
      (objOf (sObj { holds := n } sR) 3).holds = n ∧ objCurrent (sObj { holds := n } sR) (BitVec.ofNat 32 (par (pkB 4 0x1004) 0 4)) = none := by
  rcases hn with rfl | rfl | rfl | rfl <;> exact ⟨acc (by decide), acc (by decide), by decide⟩

theorem test_holdObject : runs (exec (.holdObject 0 (pkB 4 0x1003)) (sObj { holds := 0xFFFE } sR)) (fun t =>
    answered stOk t && decide ((objOf t 3).holds = 0xFFFF)) = true := by decide

theorem test_releaseObject : runs (exec (.releaseObject 0 (pkB 4 0x1003)) (sObj {} sR)) (fun t =>
    answered stRefusedConfig t && decide ((objOf t 3).holds = 0)) = true := by decide

/-- PROMOTE of object 3 to a tier at address 0x2000. -/
def promotePk (tier : Nat) : Packet := pkB 16 (0x20000000000000001003 + tier * 2 ^ 32)

/-- An object whose home is tier B, copied at tier A or not. -/
def objB (res dirty : Bool) : Obj := { home := 1, size := 3, homeAddr := 0x1000, resA := res, addrA := 0x2000, dirty := dirty }

theorem witness_PromoteAndDemote_promote :
    objCurrent (sObj (objB false false) sR) (BitVec.ofNat 32 (par (promotePk 0) 0 4)) = some 3 ∧
      (Accepted 0x20 0 (promotePk 0) (sObj (objB false false) sR) .block ∧
        promoteOk (objOf (sObj (objB false false) sR) 3) (par (promotePk 0) 4 1) (par (promotePk 0) 8 8) = true ∧
        resAt (objB false false) true = false ∧ pendAt (objB false false) true = false) ∧
      (Accepted 0x20 0 (promotePk 1) (sObj { home := 2, size := 3 } sR) .block ∧
        promoteOk (objOf (sObj { home := 2, size := 3 } sR) 3) (par (promotePk 1) 4 1) (par (promotePk 1) 8 8) = true) ∧
      (Accepted 0x20 0 (promotePk 0) (sObj (objB true false) sR) .block ∧
        promoteOk (objOf (sObj (objB true false) sR) 3) (par (promotePk 0) 4 1) (par (promotePk 0) 8 8) = true ∧
        resAt (objB true false) true = true ∧ addrAt (objB true false) true = par (promotePk 0) 8 8 ∧ (objB true false).writeback = false) :=
  ⟨by decide, ⟨acc (by decide), by decide⟩, ⟨acc (by decide), by decide⟩, acc (by decide), by decide⟩

theorem test_promote : runs (exec (.promote 0 (promotePk 0)) (sObj (objB false false) sR)) (fun t =>
    decide ((objOf t 3).holds = 1 ∧ (objOf t 3).pendA ∧ (objOf t 3).addrA = 0x2000 ∧ t.out = [])) = true := by decide

/-- DEMOTE of object 3 from tier A with a timeout in ms. -/
def demotePk (ms : Nat) : Packet := pkB 8 (0x1003 + ms * 2 ^ 48)

theorem witness_PromoteAndDemote_demote (dirty : Bool) :
    Accepted 0x21 0 (demotePk 0) (sObj (objB true dirty) sR) .block ∧ Accepted 0x21 0 (demotePk 1) (sObj (objB true dirty) sR) .block ∧
      par (demotePk 0) 4 1 = 0 ∧ (objB true dirty).home ≠ 0 ∧ (resAt (objB true dirty) true || pendAt (objB true dirty) true) = true ∧
      demoteFree (sObj (objB true dirty) sR) 3 true = true ∧ (objB true dirty).writeback = false ∧ (objB true dirty).dirty = dirty ∧
      demoteFree (sObj { objB true dirty with holds := 1 } sR) 3 true = false ∧ par (demotePk 0) 6 2 = 0 ∧ par (demotePk 1) 6 2 ≠ 0 := by
  cases dirty <;> exact ⟨acc (by decide), acc (by decide), by decide⟩

theorem test_demote_held : runs (exec (.demote 0 (demotePk 0)) (sObj { objB true false with holds := 1 } sR)) (fun t =>
    answered stHeld t && (objOf t 3).resA) = true := by decide

theorem test_demote : runs (exec (.demote 0 (demotePk 0)) (sObj (objB true false) sR)) (fun t =>
    answered stOk t && !(objOf t 3).resA) = true := by decide

/-- A DEMOTE that is deferred. -/
def demoteJob : ObjJob := ⟨cmdOf 0x21 0 (demotePk 1) sR, false, true, 4500000, false⟩

theorem witness_CopiesAdvanceAndEnd_extent (done : Nat) (hd : done = 0 ∨ done = 2) :
    let s := sObj { objB false false with pendA := true, doneA := done } (tierUp sR)
    let n := min 2 (3 - done)
    tierWorks s = true ∧ (objOf s 3).pendA = true ∧ 0 < n ∧
      anyRank s .waking (some .b) [0x1000 + 4096 * done, 0x1000 + 4096 * done + 4096 * n - 1] = false ∧
      anyRank s .off (some .b) [0x1000 + 4096 * done, 0x1000 + 4096 * done + 4096 * n - 1] = false ∧
      (done = 0 → done + n ≠ 3) ∧ (done = 2 → done + n = 3) := by
  rcases hd with rfl | rfl <;> decide

theorem witness_CopiesAdvanceAndEnd_flash :
    let s := fun l => sObj { home := 2, size := 40, pendB := true, extDone := l } (tierUp sR)
    (tierWorks (s [0]) = true ∧ (objOf (s [0]) 3).pendB = true ∧ runPages 40 1 [0] 0 = 32) ∧
      ((objOf (s [32, 0]) 3).pendB = true ∧ runPages 40 2 [32, 0] 0 = 40) := by decide

theorem witness_CopiesAdvanceAndEnd_demote :
    let s := fun d => sObj { objB true d with jobs := [demoteJob] } sR
    (∀ d, (objOf (s d) 3).jobs.find? (fun j => !j.promote && !j.started && demoteFree (s d) 3 j.toA) = some demoteJob ∧
      (objOf (s d) 3).writeback = false ∧ demoteJob.toA = true ∧ (objOf (s d) 3).dirty = d) ∧
      (let t := sObj { objB true true with writeback := true, demoting := true } (tierUp sR)
       tierWorks t = true ∧ (objOf t 3).writeback = true ∧ ranksOn t (objOf t 3).homeAddr.toNat (4096 * (objOf t 3).size) = true ∧
         (objOf t 3).jobs = [] ∧ demoteFree t 3 true = true) := by decide

theorem witness_CopiesAdvanceAndEnd_timeout :
    let s := sObj { objB true false with holds := 1, jobs := [demoteJob] } sR
    let late := (objOf s 3).jobs.filter fun j => !j.promote && !j.started && !demoteFree s 3 j.toA
    late.find? (fun j => late.all fun i => decide (j.deadline ≤ i.deadline)) = some demoteJob := by decide

theorem test_demoteTimeout : runs (exec (.demoteTimeout 3) (sObj { objB true false with holds := 1, jobs := [demoteJob] } sR)) (fun t =>
    answered stHeld t && decide ((objOf t 3).resA ∧ t.now = 4500000)) = true := by decide

theorem test_extent : runs (exec (.promotionExtentComplete 3 ⟨false, []⟩)
    (sObj { home := 2, size := 40, pendB := true, extDone := [32, 0] } (tierUp sR))) (fun t => (objOf t 3).resB) = true := by decide

/-- Staging words for an object of one page in tier A, with the firmware running. -/
def sStage : State := { sR with objStage := [(2, 1#32)] }

/-- The operation that object 0 then takes. -/
def stageOp : ObjOp := ⟨1, 0, 0, [(2, 1#32)]⟩

theorem witness_ObjectCommands :
    (sStage.objOp = none ∧ sStage.mbox.fw = .running ∧ (objOf sStage (objSel sStage)).valid = false ∧
      createOk (bitsOf (stageWord stageOp 0) 1 0) (stageWord stageOp 2).toNat
        ((stageWord stageOp 4).toNat + 2 ^ 32 * (stageWord stageOp 5).toNat) (bitsOf (stageWord stageOp 11) 3 0) = true ∧
      createOk 2 (2 ^ 30) 1 12 = true ∧ createOk 1 (2 ^ 28) 0 12 = true ∧ createOk 1 (2 ^ 28) 4096 12 = false) ∧
      (let s := { sR with objs := [(0, ({ valid := true, epoch := 0xFFFFF } : Obj))] }
       s.objOp = none ∧ s.mbox.fw = .running ∧ (objOf s (objSel s)).valid = true ∧ objBusy (objOf s (objSel s)) 0xFFFFF = none ∧
         (objOf s (objSel s)).dirty = false ∧ objBusy (objOf s (objSel s)) 1 = some stEpochMismatch) ∧
      (State.reset.objOp = none ∧ State.reset.mbox.fw ≠ .running) ∧
      ({ State.reset with objOp := some stageOp } : State).objOp ≠ none := by decide

theorem test_objCreate : runs (exec (.objCreate 0) sStage) (fun t =>
    decide (objOf t 0 = { valid := true, epoch := 1, size := 1 } ∧ reg t 0x6068 = 0#32)) = true := by decide

theorem test_objRenew_wraps : runs (exec (.objRenew 0xFFFFF) { sR with objs := [(0, { valid := true, epoch := 0xFFFFF })] })
    (fun t => decide ((objOf t 0).epoch = 1)) = true := by decide

theorem test_objCreate_waits : runs (exec (.objCreate 0) State.reset) (fun t =>
    decide (reg t 0x6068 = 0x10000#32 ∧ (objOf t 0).valid = false)) = true := by decide

/-! ## Tempo and snapshots -/

/-- TEMPO_CONFIG names a role. -/
def sRole (r : Nat) (s : State) : State := { s with regs := [(0x1000, some (BitVec.ofNat 32 (0x100 + r)))] }

theorem witness_TempoCommands_start (r : Fin 3) :
    Accepted 0x28 0 (pkB 8 0xFFFFFFFFFFFF) (sRole r.val sR) .block ∧ (sRole r.val sR).plant.fatal = 0 ∧ tempoStopped (sRole r.val sR) = true ∧
      tempoRole (sRole r.val sR) = r.val ∧ (sRole r.val sR).tempo.ringHold = false := ⟨acc (by revert r; decide), by revert r; decide⟩

theorem witness_TempoCommands_stop (r : Fin 3) :
    Accepted 0x29 0 (pkB 0 0) (sRole r.val sR) .block ∧ Accepted 0x29 0 (pkB 0 0) (running (sRole r.val sR)) .block ∧
      Accepted 0x2A 0 (pkB 0 0) (running (sRole r.val sR)) .block ∧ tempoStopped (sRole r.val sR) = true ∧
      tempoStopped (running (sRole r.val sR)) = false ∧ (running sR).tempo.awaitFirst = false ∧ (running sR).tempo.cmdHold = false ∧
      (running sR).tempo.ringHold = false ∧ tempoRole (running (sRole r.val sR)) = r.val ∧ (running sR).tempo.marks.any (·.hold) = false ∧
      (running sR).tempo.atG = false :=
  ⟨acc (by revert r; decide), acc (by revert r; decide), acc (by revert r; decide), by revert r; decide⟩

theorem witness_TempoCommands_held :
    let s := { running sR with tempo := { (running sR).tempo with cmdHold := true } }
    Accepted 0x29 0 (pkB 0 0) s .block ∧ tempoStopped s = false ∧ s.tempo.cmdHold = true ∧ s.tempo.ringHold = false ∧
      s.tempo.stopCmds = [] ∧ s.tempo.holdCmds = [] ∧ s.tempo.startCmds = [] := ⟨acc (by decide), by decide⟩

theorem test_tempoStart : runs (exec (.tempoStart 0 (pkB 8 5)) sR) (fun t =>
    decide (t.tempo.running ∧ t.tempo.count = 5 ∧ t.tempo.due = some 18000 ∧ t.out = [])) = true := by decide

theorem test_tempoStop : runs (exec (.tempoStop 0 (pkB 0 0)) sR) (answered stOk) = true := by decide

theorem test_tempoHold_follower : runs (exec (.tempoHold 0 (pkB 0 0)) (running (sRole 2 sR))) (answered stRefusedConfig) = true := by decide

/-- SNAPSHOT into the area at address 0x1000. -/
def snapPk : Packet := pkB 16 (0x1000 + 57524 * 2 ^ 64)

theorem witness_SnapshotCommands_arm (s : State) (hs : s = sR ∨ s = running sR) :
    Accepted 0x30 0 snapPk s .block ∧ imgPages ≤ par snapPk 8 4 ∧ par snapPk 0 8 % 4096 = 0 ∧ par snapPk 0 8 + 4096 * par snapPk 8 4 ≤ 2 ^ 40 ∧
      ranksOn s (par snapPk 0 8) (4096 * par snapPk 8 4) = true ∧ s.snap.armedCmd = none ∧ s.snap.draining = false ∧
      tempoStopped s = decide (s = sR) := by
  rcases hs with rfl | rfl <;> exact ⟨acc (by decide), by decide⟩

theorem test_snapshot_arms : runs (exec (.snapshot 0 snapPk) (running sR)) (fun t =>
    decide (t.snap.armedCmd = some (cmdOf 0x30 0 snapPk sR, 0x1000) ∧ t.out = [])) = true := by decide

/-- Tier B with complete headers at addresses 0 and 2 ^ 30. -/
def sHead (s : State) : State :=
  tierWrite .b (2 ^ 30) (leBytes 32 (0x00014E534E31 + 2 ^ 120 + 57524 * 2 ^ 224))
    (tierWrite .b 0 (leBytes 32 (0x00014E534E31 + 2 ^ 120 + 57524 * 2 ^ 224)) s)

theorem witness_SnapshotCommands_restore :
    (Accepted 0x31 0 (pk 16 0 0 0) (sHead (sOn { life := { stale := false } } sR)) (.fen 0) ∧
      noSegment (sHead sStr) = true ∧ (pfenOf sStr 0).isSome = true ∧ moveTouches sStr (some 0) = false ∧ restoreOff sStr (some 0) = false) ∧
      (Accepted 0x31 0 (pkB 16 0) (sHead sR) .block ∧ noSegment (sHead sR) = true ∧ moveTouches (sHead sR) none = false ∧
        headOk (sHead sR) (par (pkB 16 0) 0 8) = true) := ⟨⟨acc (by decide), by decide⟩, acc (by decide), by decide⟩

theorem test_restore : runs (exec (.restore 0 (pkB 16 0)) (sHead sR)) (fun t => decide (t.images.length = 1 ∧ t.out = [])) = true := by decide

/-- COMPARE of the images at addresses 0 and 2 ^ 30. -/
def comparePk : Packet := pkB 24 (2 ^ 30 * 2 ^ 64)

theorem witness_SnapshotCommands_compare :
    Accepted 0x32 0 comparePk (sHead sR) .block ∧ par comparePk 16 1 < 2 ∧ par comparePk 17 1 < 2 ∧
      headOk (sHead sR) (par comparePk 0 8) = true ∧ headOk (sHead sR) (par comparePk 8 8) = true := ⟨acc (by decide), by decide⟩

/-- A RESTORE of fen 0, and a COMPARE, under way. -/
def imgJob (compare : Bool) : ImageJob := ⟨cmdOf 0x31 0 (pkB 16 0) sR, compare, some 0, 0, 0, false, false, 0, []⟩

theorem witness_SnapshotCommands_events :
    ({ sR with images := [imgJob false] } : State).images.find? (fun j => !j.compare) = some (imgJob false) ∧
      ({ sR with images := [imgJob true] } : State).images.find? (fun j => j.compare) = some (imgJob true) ∧
      (let s := { sR with snap := { draining := true, addr := 0x1000 } }
       s.snap.draining = true ∧ imgRanksOn s s.snap.addr = true ∧ s.tempo.actAt = none) := by decide

/-- The digest of a page of zeros. -/
def zeroDigest : BitVec 64 := crc64 (List.replicate 4096 0#8)

/-- A digest table at address 0's image, `n` entries of the digest `d`, over pages of zeros. -/
def sDig (n : Nat) (d : BitVec 64) (s : State) : State :=
  { s with tierB := mapPutRun 0#8 [] (4096 * imgTable) ((List.range (8 * n)).map fun i => (leBytes 8 d.toNat).getD (i % 8) 0#8) }

/-- A number that fits is read back from its bytes. -/
theorem leNat_leBytes (n v : Nat) (h : v < 2 ^ (8 * n)) : leNat (leBytes n v) = v := by
  have key : ∀ n v, leNat (leBytes n v) = v % 2 ^ (8 * n) := by
    intro n
    induction n with
    | zero => intro v; simp [leBytes, leNat, Nat.mod_one]
    | succ n ih =>
      intro v
      have : leBytes (n + 1) v = BitVec.ofNat 8 v :: leBytes n (v / 256) := by
        simp only [leBytes, List.range_succ_eq_map, List.map_cons, List.map_map]
        congr 1
        · simp
        · apply List.map_congr_left
          intro i _
          simp only [Function.comp, Nat.succ_eq_add_one]
          rw [Nat.div_div_eq_div_mul, Nat.mul_add, Nat.pow_add, Nat.mul_comm]; 
      rw [this, show leNat (BitVec.ofNat 8 v :: leBytes n (v / 256)) = (BitVec.ofNat 8 v).toNat + 256 * leNat (leBytes n (v / 256)) from rfl, ih,
        BitVec.toNat_ofNat, show 8 * (n + 1) = 8 + 8 * n by omega, Nat.pow_add, Nat.mod_mul]
  rw [key, Nat.mod_eq_of_lt h]

/-- The pages of such an image are zeros. -/
theorem page_sDig (n : Nat) (d : BitVec 64) (s : State) (k : Nat) (h : k < imgTable) :
    pageDigest (sDig n d s) 0 k = zeroDigest := by
  suffices tierRead (sDig n d s) .b (0 + 4096 * k) 4096 = List.replicate 4096 0#8 by
    rw [pageDigest, this, zeroDigest]
  apply List.ext_getElem (by rw [List.length_replicate, tierRead, mapRun, List.length_map, List.length_range])
  intro i h1 h2
  have h3 : i < 4096 := by rwa [List.length_replicate] at h2
  simp only [tierRead, mapRun, List.getElem_map, List.getElem_range, List.getElem_replicate]
  show mapGet 0#8 (mapPutRun 0#8 [] _ _) _ = _
  rw [mapGet_mapPutRun, if_neg (by unfold imgTable at *; omega)]; rfl

/-- An entry of its table. -/
theorem entry_sDig (n : Nat) (d : BitVec 64) (s : State) (k : Nat) (h : k < n) : tableEntry (sDig n d s) 0 k = d := by
  have : tierRead (sDig n d s) .b (0 + 4096 * imgTable + 8 * k) 8 = leBytes 8 d.toNat := by
    apply List.ext_getElem (by simp [tierRead, mapRun, leBytes])
    intro i h1 h2
    have h3 : i < 8 := by simpa [tierRead, mapRun] using h1
    simp only [tierRead, mapRun, List.getElem_map, List.getElem_range]
    show mapGet 0#8 (mapPutRun 0#8 [] _ _) _ = _
    rw [mapGet_mapPutRun, if_pos (by simp; omega)]
    rw [show 0 + 4096 * imgTable + 8 * k + i - 4096 * imgTable = 8 * k + i by omega]
    have h4 : 8 * k + i < 8 * n := by omega
    have h5 : (8 * k + i) % 8 = i := by omega
    simp [List.getD_eq_getElem?_getD, h4, h5, h2]
  rw [tableEntry, this, leNat_leBytes 8 _ d.isLt]; simp

/-- Whether its pages agree with the table. -/
theorem pageOk_sDig (n : Nat) (d : BitVec 64) (s : State) (k : Nat) (h : k < n) (ht : k < imgTable) :
    pageOk (sDig n d s) 0 k = decide (zeroDigest = d) := by
  rw [pageOk, page_sDig n d s k ht, entry_sDig n d s k h]

/-- The RESTORE of fen 0 at work on such an image. -/
def sRest (d : BitVec 64) : State := sDig 1000 d { sOn {} sR with images := [imgJob false] }

/-- The first of 67 pages is the first that fails where it fails. -/
theorem find_first (f : Nat → Bool) (h : f 0 = true) : (List.range 67).find? f = some 0 := by
  rw [List.range_eq_range', List.range'_succ (n := 66), List.find?_cons, h]

/-- A page that the table disagrees with: any digest but that of a page of zeros. -/
theorem digest_fails (d : BitVec 64) (hd : zeroDigest ≠ d) :
    (List.range 67).find? (fun k => !pageOk (sRest d) 0 k) = some 0 := by
  refine find_first _ ?_
  have h : pageOk (sRest d) 0 0 = decide (zeroDigest = d) := pageOk_sDig 1000 d _ 0 (by omega) (by unfold imgTable; omega)
  simp only [h, decide_eq_false hd, Bool.not_false]

theorem witness_SnapshotCommands_digest : ∃ d, ckRuns (sRest d) = true ∧
    (sRest d).images.find? (fun j => !j.compare) = some (imgJob false) ∧
    (List.range 67).find? (fun k => !pageOk (sRest d) (imgJob false).addr1 k) = some 0 :=
  ⟨~~~zeroDigest, rfl, rfl, digest_fails _ (by generalize zeroDigest = x; intro h; have := congrArg (·.getLsbD 0) h; simp at this)⟩

theorem witness_SnapshotCommands_restored :
    ckRuns (sRest zeroDigest) = true ∧ (sRest zeroDigest).images.find? (fun j => !j.compare) = some (imgJob false) ∧
      (List.range 67).find? (fun k => !pageOk (sRest zeroDigest) (imgJob false).addr1 k) = none ∧ (imgJob false).target = some 0 ∧
      pfenOf (sRest zeroDigest) 0 = some 0 ∧ (fenOf (sRest zeroDigest) 0).pwr.st ≠ .off ∧ (imgJob false).badRows = [] ∧
      ∀ d, d < 512 → ∀ k ∈ tilePages (512 * 0 + d), pageOk (sRest zeroDigest) (imgJob false).addr1 k = true := by
  have h (k : Nat) (hk : k < 1000) : pageOk (sRest zeroDigest) (imgJob false).addr1 k = true :=
    (pageOk_sDig 1000 _ _ k hk (by unfold imgTable; omega)).trans (by simp)
  refine ⟨rfl, rfl, List.find?_eq_none.2 fun k hk => by rw [h k (by rw [List.mem_range] at hk; omega)]; decide, rfl, rfl, by decide, rfl, ?_⟩
  intro d hd k hk
  refine h k ?_
  simp only [tilePages, imageBytes, List.mem_cons, List.not_mem_nil, or_false] at hk
  omega

/-! ## A firmware image -/

/-- A signed firmware image with four bytes of code, whose key is the point 2 G and whose nonce is 3. -/
def fwImage : List Byte := leBytes 516 0x403020100000000000000000000000000000000000000000000000000000000000000000000000000000000000000000000000000000000000000000000000000000000000000000000000000000000000000000000000000000000000000000000000000000000000000000000000000000000000000000000000000000000000000000000000000000000000000000000000000000000000000000000000000000000dc4609b28c77ef265344dd9d38f14ad4629202ac0cf4af1b9e4a3d0e04323f9a1e46bd3973a3b3aa016aeed6ff9dd65a31c80005c7e5d7020d582650aebb08b4a66d56d340f2a4be06cd2d2010399dcb987ddc5f7e3c796414fa6f60d4417a0700000000000000000000000000000000000000000000000000000000000000800e940a701e50612de2394de943fd5f25b46a255f504e903ec46cbc75d875b274ba6dfddfe8bfb7ed3c1b5bfaf1808e61df9552c7a9965bf8640ebe6ee8e04f9e6eb99fd107d251d634f4a659590289f0975bc545002669d9d2a37b0599d90804000000000000000000000000000000000000000000000000000000000000000000000000000000000000000000000000000000000000000000000000000000000000000000000000000000000000000000000000000000000000000000000000000000000000000000000000000000090000000000000004000100014e46574d

/-- The fuses hold its key's hash, and the check runs. -/
def sFw : State :=
  { State.reset with
    mbox := { fw := .checking, image := mapPutRun 0#8 [] 0 fwImage }
    plant := { fuses := some ⟨0, 0xc5784551b58b699df46976627781e2b328b69b5171f911f1d197bd41aae55fc692e5a122c4cdf31787de74ade81e2892, true, 0, [], [], [], 31, 0⟩ } }

theorem witness_FirmwareCommands_passes : sFw.mbox.fw = .checking ∧ fwFault sFw = none := by decide +kernel

/-! ## Life and power of fens -/

theorem witness_FenLifeCommands_retire :
    (Accepted 0x38 0 (pk 4 0 0 71) (running (sOn {} sR)) (.fen 0) ∧ moveTouches (running (sOn {} sR)) (some 0) = false ∧
      par (pk 4 0 0 71) 0 1 ≠ 0xFF ∧ spareOk (running (sOn {} sR)) (par (pk 4 0 0 71) 0 1) = true ∧
      noSegment (running (sOn {} sR)) = false) ∧
      (Accepted 0x38 0 (pk 4 0 0 0xFF) (sOn {} sR) (.fen 0) ∧ moveTouches (sOn {} sR) (some 0) = false ∧ par (pk 4 0 0 0xFF) 0 1 = 0xFF ∧
        noSegment (sOn {} sR) = true ∧ pfenOf (sOn {} sR) 0 = some 0 ∧ (fenOf (sOn {} sR) 0).pwr.st ≠ .off) ∧
      (Accepted 0x38 0 (pk 4 0 0 71) (sOn {} sR) (.fen 0) ∧ moveTouches (sOn {} sR) (some 0) = false ∧
        par (pk 4 0 0 71) 0 1 ≠ 0xFF ∧ spareOk (sOn {} sR) (par (pk 4 0 0 71) 0 1) = true ∧ (fenOf (sOn {} sR) 71).pwr.st ≠ .on) :=
  ⟨⟨acc (by decide), by decide⟩, ⟨acc (by decide), by decide⟩, acc (by decide), by decide⟩

theorem test_fenRetire : runs (exec (.fenRetire 0 (pk 4 0 0 0xFF)) (sOn {} sR)) (fun t =>
    decide (pfenOf t 0 = none ∧ t.mapGen = 1 ∧ (fenOf t 0).life.retired)) = true := by decide

theorem witness_FenLifeCommands_admit :
    (∀ s : State, s = sOn {} sR ∨ s = running (sOn {} sR) → Accepted 0x39 0 (pk 4 0 0 1) s (.fen 0) ∧ pfenOf s 0 = some 0 ∧
      (fenOf s 0).life.stale = true ∧ BitVec.ofNat 32 (par (pk 4 0 0 1) 0 4) ≠ 0#32 ∧
      BitVec.ofNat 32 (par (pk 4 0 0 1) 0 4) ≠ (fenOf s 0).life.epoch ∧ fenReg s 0 0x310 = 0#32 ∧ (fenReg s 0 0x718).getLsbD 0 = false ∧
      (fenOf s 0).pwr.st = .on ∧ noSegment s = decide (s = sOn {} sR)) ∧
      (Accepted 0x39 0 (pk 4 0 0 1) { sR with spareMap := [(0, some 0)] } (.fen 0) ∧
        (fenOf { sR with spareMap := [(0, some 0)] } 0).pwr.st ≠ .on) := by
  refine ⟨fun s hs => ?_, acc (by decide), by decide⟩
  rcases hs with rfl | rfl <;> exact ⟨acc (by decide), by decide⟩

theorem test_fenAdmit : runs (exec (.fenAdmit 0 (pk 4 0 0 1)) (sOn {} sR)) (fun t =>
    answered stOk t && decide ((fenOf t 0).life.epoch = 1 ∧ (fenOf t 0).life.stale = false)) = true := by decide

/-- FEN_POWER of pfen 71 to a state. -/
def powerPk (st : Nat) : Packet := pk 4 0x8047 0 st

theorem witness_FenLifeCommands_power (n : Fin 4) :
    Accepted 0x3A 0 (powerPk n.val) sR (.pfen 71) ∧ (pwrOfCode (par (powerPk n.val) 0 1)).isSome = true ∧ fenPlanned sR 71 = false ∧
      (fenOf sR 71).tiles.any (·.2.frozen) = false ∧ sR.ports.any (fun x => decide (x.pfen = 71)) = false ∧
      (fenOf sR 71).life.retired = false ∧ (fenOf sR 71).pwr.job = none ∧
      ((fenOf sR 71).pwr.st = .off ∧ pwrOfCode (par (powerPk 3) 0 1) = some .off ∧ pwrOfCode (par (powerPk 0) 0 1) = some .on) :=
  ⟨acc (by revert n; decide), by revert n; decide⟩

theorem witness_FenLifeCommands_powerWaits :
    let s := { sR with fens := [(71, { pwr := { job := some ⟨.on, none⟩ } })] }
    Accepted 0x3A 0 (powerPk 1) s (.pfen 71) ∧ (fenOf s 71).pwr.job ≠ none := ⟨acc (by decide), by decide⟩

theorem test_fenPower : runs (exec (.fenPower 0 (powerPk 0)) sR) (fun t =>
    decide ((fenOf t 71).pwr.phase = .ramping ∧ t.out = [])) = true := by decide

/-- Pfen 71 in a phase of its transition to OFF. -/
def sPhase (st : PwrSt) (ph : PwrPhase) (target : PwrSt) : State :=
  { State.reset with fens := [(71, { pwr := { st := st, job := some ⟨target, none⟩, phase := ph } })] }

theorem witness_FenTransitions :
    (fenOf (sPhase .on .fenced .off) 71).pwr.phase = .fenced ∧ (fenOf (sPhase .on .draining .off) 71).pwr.phase = .draining ∧
      ((fenOf (sPhase .off .ramping .on) 71).pwr.job = some ⟨.on, none⟩ ∧ (fenOf (sPhase .off .ramping .on) 71).pwr.phase = .ramping ∧
        (fenOf (sPhase .off .ramping .on) 71).pwr.queue = [] ∧ (fenOf (sPhase .off .ramping .on) 71).pwr.st = .off) ∧
      (bitsOf 71#32 6 0 = 71 ∧ (fenOf (sPhase .on .none .off) 71).pwr.st ≠ .retain ∧ (fenOf (sPhase .on .none .off) 71).pwr.st ≠ .off) ∧
      (fenOf { State.reset with fens := [(71, { resetUntil := some 256 })] } 71).resetUntil = some 256 := by decide

theorem test_fenFenceEnd : runs (exec (.fenFenceEnd 71) (sPhase .on .fenced .off)) (fun t =>
    decide (t.now = 512 ∧ (fenOf t 71).pwr.phase = .draining)) = true := by decide

theorem test_fenDrainEnd : runs (exec (.fenDrainEnd 71) (sPhase .on .draining .off)) (fun t =>
    decide (t.now = 0 ∧ (fenOf t 71).pwr.phase = .ramping)) = true := by decide

theorem test_fenPowerDone : runs (exec (.fenPowerTransitionDone 71 false) (sPhase .off .ramping .on)) (fun t =>
    decide ((fenOf t 71).pwr.st = .on ∧ (fenOf t 71).life.stale)) = true := by decide

theorem test_rstFen : runs (exec (.rstFenWrite 71#32) (sPhase .on .none .off)) (fun t =>
    decide ((fenOf t 71).resetUntil = some 256)) = true := by decide

theorem test_fenResetEnd : runs (exec (.fenResetEnd 71) { State.reset with fens := [(71, { resetUntil := some 256 })] }) (fun t =>
    decide (t.ck = 256 ∧ (fenOf t 71).resetUntil = none)) = true := by decide

/-! ## Links -/

/-- Causeway 0 with a content, beside causeways 1 and 2 as reset leaves them. -/
def sCw (x : Causeway) (s : State) : State := { s with cws := [(0, x), (1, { role := 1 }), (2, { role := 4 })] }

theorem witness_LinkCommands_train :
    (Accepted 0x40 0 (pkB 4 0) sR .block ∧ par (pkB 4 0) 0 1 < 3 ∧ par (pkB 4 0) 1 1 = 0 ∧ (cwOf sR 0).role ≠ 4) ∧
      (Accepted 0x40 0 (pkB 4 0x100) (sCw { st := .up } sR) .block ∧ par (pkB 4 0x100) 1 1 = 1 ∧ (cwOf (sCw { st := .up } sR) 0).role ≠ 4 ∧
        (cwOf (sCw { st := .up } sR) 0).st = .up) ∧
      (Accepted 0x40 0 (pkB 4 0x202) sR .block ∧ par (pkB 4 0x202) 0 1 < 3 ∧ par (pkB 4 0x202) 1 1 = 2) :=
  ⟨⟨acc (by decide), by decide⟩, ⟨acc (by decide), by decide⟩, acc (by decide), by decide⟩

theorem witness_LinkCommands_role (p : Packet) (hp : p = pkB 4 0x043F3F0F ∨ p = pkB 4 0x02010000) :
    Accepted 0x41 0 p sR .block ∧ sR.tempo.running = false ∧ par p 0 1 < 16 ∧ par p 2 1 ≠ 0 ∧ par p 2 1 < 64 ∧ par p 1 1 ≤ par p 2 1 ∧
      2 ≤ par p 3 1 ∧ par p 3 1 ≤ 4 := by
  rcases hp with rfl | rfl <;> exact ⟨acc (by decide), by decide⟩

theorem test_linkTrain : runs (exec (.linkTrain 0 (pkB 4 0)) sR) (fun t =>
    decide ((cwOf t 0).st = .training ∧ (cwOf t 0).phase = 1 ∧ t.out = [])) = true := by decide

theorem test_linkRole : runs (exec (.linkRole 0 (pkB 4 0x043F3F0F)) sR) (fun t =>
    decide (t.ringId = 15 ∧ t.ringPos = 63 ∧ t.ringSize = 63 ∧ t.c2Role = 4)) = true := by decide

/-- Causeway 0 in a phase of its training. -/
def sTrain (k : Nat) : State := sCw { st := .training, phase := k, rtt := 1, partnerCaps := some 0 } State.reset

/-- CAPS of the partner on causeway 1 side, at ring address 0 of a ring of one. -/
def capsGood : BitVec 192 := BitVec.ofNat 192 (1 * 2 ^ 16 + 1 * 2 ^ 19 + 8 * 2 ^ 32 + 64 * 2 ^ 40)

theorem witness_LinkCommands_phases :
    (∀ k : Fin 6, 0 < k.val → ((cwOf (sTrain k.val) 0).st = .training ∨ (cwOf (sTrain k.val) 0).st = .retraining) ∧
      (cwOf (sTrain k.val) 0).resetUntil = none ∧ (cwOf (sTrain k.val) 0).phase = k.val) ∧
      (¬ 2 ≤ (lanesIn 0x100#9).length ∧ 2 ≤ (lanesIn 0x101#9).length ∧ (cwOf (sTrain 2) 0).fast = false ∧
        2 ≤ (lanesIn (exclMask (cwOf (sTrain 2) 0).rxExcl ||| 0x101#9)).length) ∧
      (let s := sCw { st := .retraining, phase := 2, fast := true, rxExcl := 8 } State.reset
       (cwOf s 0).st = .retraining ∧ (cwOf s 0).resetUntil = none ∧ (cwOf s 0).fast = true ∧
         exclMask (cwOf s 0).rxExcl ||| 1#9 ≠ exclMask (cwOf s 0).rxExcl) ∧
      (cwOf (sCw { st := .training, phase := 4, exchanges := [(1, 8)] } State.reset) 0).exchanges ≠ [] ∧
      (capsFault (sTrain 3) 0 capsGood = none ∧ capsFault (sTrain 3) 0 0 ≠ none ∧ (cwOf (sTrain 5) 0).partnerCaps = some 0) := by decide

theorem test_trainingUp : runs (exec (.trainingPhaseEnd 0 ⟨0, 0, none⟩) (sTrain 5)) (fun t =>
    decide ((cwOf t 0).st = .up ∧ (cwOf t 0).phase = 0)) = true := by decide

theorem test_trainingDown : runs (exec (.trainingPhaseEnd 0 ⟨3, 0, none⟩) (sTrain 1)) (fun t =>
    decide ((cwOf t 0).st = .down ∧ (cwOf t 0).reason = 3)) = true := by decide

theorem witness_LinkCommands_fails :
    let s := sCw { st := .up } State.reset
    ((cwOf s 0).st = .up ∧ laneFailed s 0 7 .signal = true ∧ regBit s (cwWin 0 0x000) 0 = true) ∧
      (regBit { s with regs := [(cwWin 0 0x000, some 0x1000#32)] } (cwWin 0 0x000) 0 = false ∧
        laneFailed { s with regs := [(cwWin 0 0x000, some 0x1000#32)] } 0 0 .signal = true) := by decide

theorem test_laneFailure : runs (exec (.laneFailure 0 7 .signal) (sCw { st := .up } State.reset)) (fun t =>
    decide ((cwOf t 0).st = .retraining ∧ (cwOf t 0).phase = 2)) = true := by decide

/-! ## Flash queues -/

/-- FLASH_QUEUE_BIND of queue 7. -/
def bindPk (bind : Nat) : Packet := pkB 40 (7 + bind * 2 ^ 8)

/-- Flash queue 7 with a content. -/
def sFlash (x : FlashQueue) : State := { sT with flash := [(7, x)] }

/-- A Read command of object 3. -/
def flashCmd : FlashCmd := ⟨255, 3, 0, 1, false, 0, false⟩

theorem witness_FlashQueues_bind :
    (Accepted 0x48 0 (bindPk 1) sT .block ∧ par (bindPk 1) 0 1 < 8 ∧ tierWorks sT = true ∧ par (bindPk 1) 1 1 = 1 ∧
      (flashOf sT (par (bindPk 1) 0 1)).bound = false ∧ par (bindPk 1) 8 4 + 4 ≤ 2 ^ 28 ∧ par (bindPk 1) 12 4 + 1 ≤ 2 ^ 28 ∧
      par (bindPk 1) 16 4 + 16 ≤ 2 ^ 28) ∧
      (∀ l, l = [] ∨ l = [flashCmd] → Accepted 0x48 0 (bindPk 0) (sFlash { bound := true, out := l }) .block ∧ par (bindPk 0) 1 1 = 0 ∧
        (flashOf (sFlash { bound := true, out := l }) (par (bindPk 0) 0 1)).bound = true ∧
        (flashOf (sFlash { bound := true, out := l }) (par (bindPk 0) 0 1)).unbinding = false) := by
  refine ⟨⟨acc (by decide), by decide⟩, fun l hl => ?_⟩
  rcases hl with rfl | rfl <;> exact ⟨acc (by decide), by decide⟩

theorem test_flashQueueBind : runs (exec (.flashQueueBind 0 (bindPk 1)) sT) (fun t =>
    answered stOk t && decide ((flashOf t 7).bound ∧ (flashOf t 7).phase)) = true := by decide

/-- A copy to tier B of an object of 33 pages, the first extent issued or not. -/
def sExtent (next : Nat) : State :=
  { sFlash { bound := true } with objs := [(3, { home := 2, valid := true, epoch := 1, size := 33, pendB := true, extNext := next })] }

theorem witness_FlashQueues_issue (next : Nat) (hn : next = 0 ∨ next = 32) :
    nextFlash (sExtent next) = some 7 ∧ tierWorks (sExtent next) = true ∧ (objOf (sExtent next) 3).pendB = true ∧
      nextExtent (objOf (sExtent next) 3) = (next, min 32 (33 - next), false) ∧ 0 < min 32 (33 - next) ∧
      flashOut (sExtent next) < 2048 ∧ ranksOn (sExtent next) (4096 * next) (4096 * min 32 (33 - next)) = true := by
  rcases hn with rfl | rfl <;> decide

theorem witness_FlashQueues_again :
    let s := { sFlash { bound := true } with objs := [(3, { home := 2, valid := true, size := 33, pendB := true, extRetry := [(32, 1)] })] }
    nextExtent (objOf s 3) = (32, 1, true) ∧ nextFlash s = some 7 ∧ tierWorks s = true ∧ (objOf s 3).pendB = true ∧ flashOut s < 2048 ∧
      ranksOn s (4096 * 32) 4096 = true := by decide

theorem test_flashExtentIssue : runs (exec (.flashExtentIssue 3) (sExtent 32)) (fun t =>
    decide ((objOf t 3).extNext = 33 ∧ (flashOf t 7).tail = 1 ∧ reg t 0x7208 = 1#32)) = true := by decide

theorem witness_FlashQueues_poll :
    let s := fun c => { sFlash { bound := true, phase := true, out := [c] } with objs := [(3, { pendB := true })] }
    let e : NvmeCqe := ⟨255, false, false, 0, true, []⟩
    ∀ c, c = flashCmd ∨ c = { flashCmd with retried := true } →
      tierWorks (s c) = true ∧ (flashOf (s c) 7).bound = true ∧ (flashOf (s c) 7).out ≠ [] ∧ (flashOf (s c) 7).unbinding = false ∧
      (flashOf (s c) 7).tail = (flashOf (s c) 7).doorbell ∧ (flashOf (s c) 7).out.find? (fun c => decide (c.cid = e.cid.val)) = some c ∧
      e.phase = (flashOf (s c) 7).phase ∧ anyRank (s c) .off (some .b) [4096 * (flashOf (s c) 7).cqBase] = false ∧
      anyRank (s c) .waking (some .b) [4096 * (flashOf (s c) 7).cqBase] = false ∧ (objOf (s c) c.obj).pendB = true ∧
      (flashOf (s c) 7).out.find? (fun c => decide (c.cid = (255 : Fin 256).val) && !c.slow) = some c := by
  rintro s e c (rfl | rfl) <;> decide

theorem test_flashSlow : runs (exec (.flashSlowTimeout 7 255) (sFlash { bound := true, out := [flashCmd] })) (fun t =>
    decide (reg t 0x7214 = 1#32 ∧ t.log.length = 1)) = true := by decide

theorem test_flashPoll : runs (exec (.flashPollTick 7 []) (sFlash { bound := true, out := [flashCmd] })) (fun t =>
    decide (t.now = 4500)) = true := by decide

/-! ## Registers -/

theorem answersBlock (off : Nat) (s : State) (h : fenAt off = none) : Answers off s := by
  intro p o e
  rw [h] at e
  exact nomatch e

theorem answersFen (off p o : Nat) (s : State) (h : fenAt off = some (p, o))
    (g : (fenOf s p).resetUntil = none ∧ (fenAlways o || fenAnswers (fenOf s p)) = true) : Answers off s := by
  intro p' o' e
  rw [h] at e
  cases e
  exact g

theorem witness_RegisterReads :
    ((0x100#20).toNat % 4 = 0 ∧ isRc (0x100#20).toNat = false) ∧
      ((0x400C#20).toNat % 4 = 0 ∧ isRc (0x400C#20).toNat = true ∧ Answers (0x400C#20).toNat State.reset) ∧
      ((0x57400#20).toNat % 4 = 0 ∧ isRc (0x57400#20).toNat = true ∧ fenAt (0x57400#20).toNat = some (71, 0x400) ∧
        (fenOf State.reset 71).resetUntil = none ∧ fenAnswers (fenOf State.reset 71) = false) ∧
      (fenOf { State.reset with fens := [(71, { resetUntil := some 9 })] } 71).resetUntil = some 9 ∧
      Answers (fenWin 0 0xB20) (sOn {} State.reset) ∧
      (let s : State := { sOn { seq := { st := .waiting, stallFrom := 3 } } State.reset with ck := 8 }
       Answers (0x10A08#20).toNat s ∧ isRc (0x10A08#20).toNat = true ∧ fenAt (0x10A08#20).toNat = some (0, 0xA08) ∧
         (fenOf s 0).seq.st = .waiting ∧ (fenOf s 0).seq.stallFrom < s.ck) :=
  ⟨by decide, ⟨by decide, by decide, answersBlock _ _ (by decide)⟩, by decide, by decide, answersFen _ 0 0xB20 _ (by decide) (by decide),
    answersFen _ 0 0xA08 _ (by decide) (by decide), by decide, by decide, by decide, by decide⟩

theorem test_stallRead : runs (exec (.rcRegisterRead 0x10A08#20)
    { sOn { seq := { st := .waiting, stallFrom := 3 } } State.reset with ck := 8 }) (fun t =>
    decide (lastOut t = some (.readValue 0x10A08 5#32) ∧ (fenOf t 0).seq.stallFrom = 8)) = true := by decide

theorem test_readClears : runs (exec (.rcRegisterRead 0x400C#20) { State.reset with regs := [(0x400C, some 9#32)] }) (fun t =>
    decide (lastOut t = some (.readValue 0x400C 9#32) ∧ t.regs = [])) = true := by decide

theorem test_misaligned : exec (.rcRegisterRead 2#20) State.reset = .fault .fabricProtocolViolation := rfl

theorem witness_RegisterWrites_forms :
    (∃ f, formOf 0x4000 = some f ∧ f.access = .w1c) ∧
      (∃ f, formOf 0x3004 = some f ∧ f.access = .rw ∧ (fixEnums (reg State.reset 0x3004) f.enums 5#32).2 = false) ∧
      (∃ f, formOf 0x1004 = some f ∧ f.access = .rws ∧ (fixEnums (fileGet State.reset.shadow 0x1004) f.enums 5#32).2 = false) ∧
      (∃ f, formOf 0x1000 = some f ∧ ∃ e ∈ f.enums, bitsOf 3#32 e.1 e.2.1 < e.2.2.1 ∨ e.2.2.2 < bitsOf 3#32 e.1 e.2.1) ∧
      Answers 0x4000 State.reset ∧ Answers 0x3004 State.reset ∧ Answers 0x1004 State.reset :=
  ⟨⟨_, rfl, by decide⟩, ⟨_, rfl, by decide⟩, ⟨_, rfl, by decide⟩, ⟨_, rfl, (1, 0, 0, 2), by decide, by decide⟩,
    answersBlock _ _ (by decide), answersBlock _ _ (by decide), answersBlock _ _ (by decide)⟩

theorem test_rwsWrite : runs (exec (.registerWrite 0x1004#20 200#32) State.reset) (fun t =>
    decide (fileGet t.shadow 0x1004 = 200#32 ∧ reg t 0x1004 = 400#32)) = true := by decide

theorem witness_RegisterWrites_others :
    (formOf (0x23CC#20).toNat = none ∧ (0x23CC#20).toNat = cqWin 15 0xC ∧ (queueOf State.reset 15).enabled = false ∧
      (queueOf { State.reset with queues := [(15, { enabled := true })] } 15).enabled = true) ∧
      ((0x60AC#20).toNat = 0x6080 + 4 * 11) ∧
      (fenAt (0x57300#20).toNat = some (71, 0x300) ∧ (fenOf State.reset 71).resetUntil = none ∧ fenAlways 0x300 = false ∧
        fenAnswers (fenOf State.reset 71) = false) ∧
      ((1#32).getLsbD 0 = true ∧ (2#32).getLsbD 0 = false ∧ (0x10#32).toNat % 16 = 0 ∧ 5 ≤ (5#32).toNat % 16 ∧ (4#32).toNat % 4 = 0) ∧
      ((0x23FC#20).toNat = cqWin 15 0x3C) ∧ (formOf (0x0#20).toNat = none ∧ fenAt (0x0#20).toNat = none) := by decide

theorem test_ignoredWrite : runs (exec (.registerWrite 0x57300#20 7#32) State.reset) (fun t =>
    decide (reg t 0x20 = 1#32 ∧ reg t 0x57300 = 0xFFFFFF#32)) = true := by decide

theorem witness_QueueRegisters :
    (queueOf sR 0).enabled = true ∧ (queueOf sR 15).enabled = false ∧
    (∃ e ∈ (queueOf { sR with queues := [(15, { inprog := [(cmdOf 0x01 15 (pkB 0 0) sR, 1)] })] } 15).inprog, e.1.gen = 0) ∧ bitsOf 15#32 11 0 < ringSizeOf sR 15 ∧ ringSizeOf sR 15 ≤ bitsOf 16#32 11 0 := by
  decide

theorem test_cqEnable : runs (exec (.cqEnable 15 12#4) sR) (fun t => decide (ringSizeOf t 15 = 4096 ∧ (queueOf t 15).enabled)) = true := by decide

theorem test_cqDoorbell : runs (exec (.cqDoorbellWrite 0 16#32) sR) (fun t => decide (t.log.length = 1 ∧ (queueOf t 0).tail = 1)) = true := by
  decide

theorem witness_ErrPopRules :
    (readReg State.reset 0x4004 = 0#32 ∧ State.reset.log.length ≤ 256) ∧
      ((sLog 255 State.reset).log = logEntry :: List.replicate 254 logEntry ∧ (sLog 255 State.reset).log.length < 256) := by decide

/-! ## Resets, start-up and domains -/

theorem witness_BootAcceptsNothing :
    State.reset.mbox.fw = .boot ∧ bitsOf 15#32 11 0 < ringSizeOf State.reset 15 ∧
      (sR.mbox.fw = .running ∧ (queueOf sR 0).enabled = true ∧ (queueOf sR 0).stopped = false ∧ (queueOf sR 0).head ≠ (queueOf sR 0).tail ∧
        repliesOf 0x48 ≤ replyRoom sR 0 ∧ (queueOf sR 0).inprog = []) := by decide

theorem witness_ResetCommands :
    ((sPlan State.reset).plans ≠ [] ∧ plansOf (sPlan State.reset) ≠ [] ∧ plansOf State.reset = []) ∧
      (let s := { State.reset with plant := { resetUntil := some 9000000, tierResetUntil := some 45000 }, cws := [(2, { resetUntil := some 4500 })] }
       s.plant.resetUntil = some 9000000 ∧ s.plant.tierResetUntil = some 45000 ∧ (cwOf s 2).resetUntil = some 4500) := by decide

theorem test_warmReset : runs (exec .warmResetInput (sOn { life := { stale := false, epoch := 5 } } sR)) (fun t =>
    decide ((fenOf t 0).life.stale ∧ (fenOf t 0).life.epoch = 5 ∧ t.plant.resetCause = 3 ∧ t.queues = [])) = true := by decide

theorem test_coldReset : runs (exec (.blockColdReset false) sT) (fun t => decide (t.plant.resetCause = 0 ∧ t.queues = [])) = true := by decide

theorem test_rstCtrlTier_busy : runs (exec .rstCtrlTier (sPlan State.reset)) (fun t => decide (t.log.length = 1)) = true := by decide

/-- Start-up at a step. -/
def sStep (k : Nat) : State := { State.reset with plant := { step := k } }

theorem witness_StartUpSteps :
    ((sStep 1).plant.step = 1 ∧ (sStep 1).plant.mkLock = false) ∧ (sStep 2).plant.step = 2 ∧ (sStep 3).plant.step = 3 ∧
      (sStep 4).plant.step = 4 ∧ (sStep 6).plant.step ≠ 1 := by decide

theorem test_startupClockLock : runs (exec .startupClockLock (sStep 1)) (fun t =>
    decide (t.plant.step = 2 ∧ t.plant.pll0 ∧ t.plant.mkLock)) = true := by decide

theorem test_spareMapBuild : runs (exec .spareMapBuild (sStep 4)) (fun t =>
    decide (t.plant.step = 5 ∧ pfenOf t 0 = some 0 ∧ pfenOf t 8 = some 9 ∧ pfenOf t 63 = some 70)) = true := by decide +kernel

/-- Both domains' bits are set in PWR_DOMAINS at reset, and a SHARED lode of a plan holds both. -/
def sBusy : State := { State.reset with lodes := [(0, { desc := 16, st := .armed, plan := some 0 })] }

theorem witness_PowerDomains :
    (cacheBusy State.reset = false ∧ tierBusy State.reset = false ∧ regBit State.reset 0x5004 0 = true ∧ regBit State.reset 0x5004 1 = true ∧
      tempoStopped State.reset = true ∧ tempoStopped (running State.reset) = false ∧
      State.reset.plant.tierUp = false ∧ State.reset.plant.tierOnAt = none) ∧
      (cacheBusy sBusy = true ∧ tierBusy sBusy = true) ∧ regBit { State.reset with regs := [(0x5004, some 0#32)] } 0x5004 1 = false ∧
      ({ State.reset with plant := { tierOnAt := some 90000, cacheOnAt := some 5 } } : State).plant.tierOnAt = some 90000 := by decide

theorem test_domainOn : runs (exec (.pwrDomainTierOn true) State.reset) (fun t => decide (t.plant.tierOnAt = some 90000)) = true := by decide

theorem test_domainBusy : runs (exec (.pwrDomainCacheOn false) sBusy) (fun t =>
    decide (t.log.length = 1 ∧ regBit t 0x5004 0 = true)) = true := by decide

/-- Rank 15 in a state. -/
def sRank (st : RankSt) : State := { State.reset with ranks := [(15, { st := st })] }

theorem witness_TierRanks :
    (rankOf (sRank .fenced) 15).st = .fenced ∧ (rankOf (sRank .draining) 15).st = .draining ∧ (rankOf (sRank .waking) 15).st = .waking ∧
      ((rankOf State.reset 15).st = .on ∧ (0x7FFF#32).getLsbD 15 = false) ∧ ((rankOf (sRank .off) 15).st = .off ∧ (0xFFFF#32).getLsbD 15 = true) := by
  decide

theorem test_rankPwr : runs (exec (.tbRankPwrWrite 0x7FFF#32) State.reset) (fun t =>
    decide ((rankOf t 15).st = .fenced ∧ (rankOf t 14).st = .on)) = true := by decide

theorem test_rankDrain : runs (exec (.rankDrainEnd 15) (sRank .draining)) (fun t => decide ((rankOf t 15).st = .waking)) = true := by decide

/-! ## The mailbox, clocks and sensors -/

/-- The firmware slot in a state. -/
def sMb (x : FwSt) : State := { State.reset with mbox := { fw := x } }

theorem witness_FirmwareCommands :
    (sMb .boot).mbox.fw = .boot ∧ (sMb .loading).mbox.fw = .loading ∧ (sMb .checking).mbox.fw = .checking ∧ (sMb .running).mbox.fw = .running ∧
      fwFault (sMb .checking) = some 1 := by decide

theorem test_fwRejected : runs (exec .fwCheckDone (sMb .checking)) (fun t =>
    decide (t.mbox.fw = .boot ∧ t.mbox.reason = 1 ∧ t.log.length = 1)) = true := by decide

/-- MB_ADDR and MB_SPACE set. -/
def sMbAt (space hi lo : Nat) (s : State) : State :=
  { s with regs := [(0xD008, some (BitVec.ofNat 32 space)), (0xD00C, some (BitVec.ofNat 32 lo)), (0xD010, some (BitVec.ofNat 32 hi))] }

theorem witness_MailboxWords :
    (mbAddr (sMbAt 0 0 0xFFFFC State.reset) + 4 ≤ mbSpaceSize (sMbAt 0 0 0xFFFFC State.reset) ∧
      mbRankOff (sMbAt 0 0 0xFFFFC State.reset) (mbAddr (sMbAt 0 0 0xFFFFC State.reset)) = false) ∧
      mbSpaceSize (sMbAt 0 0 0x100000 State.reset) < mbAddr (sMbAt 0 0 0x100000 State.reset) + 4 ∧
      (mbAddr (sMbAt 2 0xFF 0xFFFFFFFC (sRank .off)) + 4 ≤ mbSpaceSize (sMbAt 2 0xFF 0xFFFFFFFC (sRank .off)) ∧
        mbRankOff (sMbAt 2 0xFF 0xFFFFFFFC (sRank .off)) (mbAddr (sMbAt 2 0xFF 0xFFFFFFFC (sRank .off))) = true) ∧
      (sMb .running).mbox.fw = .running := by decide

theorem test_mbWrite : runs (exec (.mbDataAccess (some 0x04030201#32)) (sMbAt 1 0 8 State.reset)) (fun t =>
    decide (tierRead t .a 8 4 = [1, 2, 3, 4] ∧ mbAddr t = 12 ∧ reg t 0xD018 = 1#32)) = true := by decide

theorem witness_ClocksAndFatal :
    let s := fun a b => { State.reset with plant := { pll0 := a, pll1 := b } }
    ((s true true).plant.ckStopped = false ∧ (s true true).plant.fatal = 0 ∧
      (if (s true true).plant.pllActive then (s true true).plant.pll0 else (s true true).plant.pll1) = true ∧
      (if (s true false).plant.pllActive then (s true false).plant.pll0 else (s true false).plant.pll1) = false) ∧
      (let t := { State.reset with plant := { ckStopped := true, stretching := true } }
       t.plant.ckStopped = true ∧ t.plant.fatal = 0 ∧ t.plant.genSpareOk = true ∧ t.plant.stretching = true) ∧
      (let t := { State.reset with plant := { fatal := 1 }, heron := { tripped := [159] } }
       t.plant.fatal ≠ 0 ∧ t.heron.tripped.contains 159 = true) ∧ State.reset.plant.stretching = false := by decide

theorem test_pllLoss : runs (exec .ckPllLockLoss { State.reset with plant := { pll0 := true, pll1 := true } }) (fun t =>
    decide (t.plant.ckStopped ∧ t.plant.pll0 = false ∧ t.plant.fatal = 0)) = true := by decide

theorem test_genLoss : runs (exec .tempoGenLockLoss State.reset) (fun t => decide (t.now = 45 ∧ t.plant.genActive)) = true := by decide

theorem test_droop : runs (exec (.droopDetect 71 0 true) State.reset) (fun t =>
    decide (t.plant.stretching ∧ t.plant.deep ∧ reg t 0x57C10 = 1#32 ∧ reg t 0x1054 = 1#32)) = true := by decide

theorem witness_HeronAndSensors :
    (regBit State.reset 0x5100 0 = true ∧ noSegment State.reset = true ∧ State.reset.heron.triggered = false) ∧
      (regBit { State.reset with regs := [(0x5100, some 0#32)] } 0x5100 0 = false) ∧
      (let s := { running State.reset with heron := { upDone := true, triggered := true, railStale := true } }
       noSegment s = false ∧ s.heron.upDone = true ∧ s.heron.triggered = true ∧ s.heron.railStale = true) ∧
      (3200 ≤ (3200#16).toNat ∧ (4000#16).toNat ≤ 4000 ∧ (3199#16).toNat < 3200 ∧ 4000 < (4001#16).toNat) ∧
      State.reset.heron.railStale = false := by decide

theorem test_rail : runs (exec (.railReadingUpdate 3199) State.reset) (fun t => decide (regBit t 0x5130 3 = true ∧ t.log.length = 1)) = true := by
  decide

theorem test_railStale : runs (exec .railStaleTimeout State.reset) (fun t => decide (t.now = 45000000 ∧ t.heron.railStale)) = true := by decide

/-! ## Boundaries and detectors -/

/-- A SOLO tempo that runs, its boundary due at 100. -/
def sDue (f : Fen) (t : Tempo) : State :=
  { State.reset with fens := [(0, f)], tempo := { t with running := true, count := 5 } }

theorem witness_BoundaryEvents_due (f : Fen) (hf : f = {} ∨ f = { pwr := { st := .on }, seq := { st := .running } }) :
    let s := sDue f { due := some 100, ran := true }
    (s.tempo.running = true ∧ s.tempo.slipped = false ∧ s.tempo.awaitFirst = false ∧ s.plant.fatal = 0 ∧ tempoRole s = 0 ∧ s.tempo.marks = [] ∧
      s.tempo.due = some 100 ∧ s.tempo.atG = false ∧ s.tempo.actAt = none ∧ s.tempo.first = false) ∧
      s.tempo.ran = true ∧ allEnded (advanceTo 100 s) = decide (f = {}) := by
  rcases hf with rfl | rfl <;> decide

theorem test_boundary_held : runs (exec .tempoBoundaryDue (sDue { pwr := { st := .on }, seq := { st := .running } } { due := some 100, ran := true })) (fun t =>
    decide (t.tempo.waitF ∧ t.tempo.held ∧ t.now = 100)) = true := by decide

theorem witness_BoundaryEvents_actions :
    let s := sDue {} { atG := true, gTime := 100 }
    (s.tempo.running = true ∧ s.tempo.atG = true ∧ s.tempo.actAt = none ∧ allEnded s = true ∧ ckRuns s = true ∧ tempoRole s = 0 ∧
      s.tempo.gMark = none ∧ s.tempo.slipped = false ∧ s.tempo.stopCmds = [] ∧ s.tempo.holdCmds = [] ∧ s.jobs = [] ∧ s.pendSet = none ∧
      s.ports = [] ∧ s.snap.armedCmd = none ∧ s.snap.armedAuto = false ∧ s.snap.draining = false) ∧
      State.reset.tempo.running = false ∧ State.reset.tempo.atG = false := by decide

/-- Fen 0 stalls at a WAIT with all it has issued complete, or runs, at a boundary. -/
def sStop (st : SeqSt) (cmds : List Cmd) : State :=
  sDue { pwr := { st := .on }, seq := { st := st } } { atG := true, gTime := 100, ran := true, stopCmds := cmds }

theorem witness_BoundaryEvents_stop :
    let s := sStop .waiting [cmdOf 0x29 0 (pkB 0 0) sR]
    (s.tempo.running = true ∧ s.tempo.atG = true ∧ s.tempo.actAt = none ∧ allEnded s = false ∧ (notEnded s).all (fenStuck s) = true ∧
      ckRuns s = true ∧ tempoRole s = 0 ∧ s.tempo.stopCmds ≠ [] ∧ s.jobs = [] ∧ s.pendSet = none ∧ s.ports = [] ∧ s.tempo.gMark = none ∧
      s.snap.armedCmd = none ∧ s.snap.armedAuto = false ∧ s.snap.draining = false ∧ s.tempo.holdCmds = [] ∧ s.tempo.startCmds = []) ∧
      allEnded (sStop .running []) = false ∧ stopAsked (sStop .running []) = false := by decide

theorem test_boundaryActions : runs (exec .boundaryActions (sDue {} { atG := true, gTime := 100 })) (fun t =>
    decide (t.tempo.count = 6 ∧ t.tempo.startTime = 292 ∧ t.tempo.atG = false)) = true := by decide

theorem witness_BoundaryEvents_master :
    let s := sRole 1 { sDue {} { markFor := some 20000, ringHold := true } with cws := [(0, { st := .up })] }
    (tempoRole s = 1 ∧ s.tempo.running = true ∧ s.plant.fatal = 0 ∧ s.tempo.markFor = some 20000 ∧ s.tempo.ringHold = true ∧
      s.tempo.ringStalled = false) ∧ ringPending { s with regs := [(0x1000, some 0x101#32), (0x1038, some 1#32)] } ≠ 0 ∧
      tempoRole { s with regs := [(0x1000, some 0x101#32), (0x1038, some 1#32)] } = 1 := by decide

theorem test_markerSend : runs (exec .tempoMarkerSend (sRole 1 (sDue {} { markFor := some 20000 }))) (fun t =>
    decide (t.now = 2000 ∧ t.tempo.marks.length = 1)) = true := by decide

/-! ## Detectors and the sequencer -/

/-- Fen 0 in a segment. -/
def sRun (f : Fen) : State := sOn { f with seq := { f.seq with st := .running } } State.reset

/-- Fen 0 stalled at a WAIT of descriptor 0. -/
def sWait (d : BitVec 128) (f : Fen) : State :=
  sOn { f with
    seq := { st := .waiting }
    img := { f.img with waits := [(0, d)] } } State.reset

theorem iss {p : Fin 72} {slot : Nat} {s : State}
    (h : (canIssue s p.val slot &&
      !bundleBad (fenOf (atIssue p.val slot s) p.val).img (bundlePc (atIssue p.val slot s) p.val)) = true) :
    Issues p slot s := by
  simp only [Bool.and_eq_true, Bool.not_eq_true'] at h
  exact ⟨h.1, h.2⟩

/-- A sluice on counter 0, and one that tests for a count of 0. -/
theorem witness_Detectors_sluice :
    (isWaiting (sWait 0x100008001 {}) 0 = true ∧ waitSluice (waitingDesc (fenOf (sWait 0x100008001 {}) 0)) = true ∧
      (fenOf (sWait 0x100008001 {}) 0).seq.sluiceOver = false ∧
      waitOn (waitingDesc (fenOf (sWait 0x100008001 {}) 0)) = some (.counter 0 1 false none) ∧
      waitHolds (waitAt 0 ((fenOf (sWait 0x100008001 {}) 0).seq.waitFrom + waitField (waitingDesc (fenOf (sWait 0x100008001 {}) 0)) 84 64)
        (sWait 0x100008001 {})) 0 0 (.counter 0 1 false none) = false) ∧
      (isWaiting (sWait 0x8001 {}) 0 = true ∧ waitHolds (waitAt 0 0 (sWait 0x8001 {})) 0 0 (.counter 0 0 false none) = true) := by decide

theorem test_sluice : runs (exec (.sluiceSlackExpiry 0) (sWait 0x100008001 {})) (fun t =>
    decide (reg t 0x105C = 1#32 ∧ regBit t 0x1028 7 = true ∧ (fenOf t 0).seq.sluiceOver)) = true := by decide

/-- Fen 0 waits for slot 1 of the W-buffer to fill and would empty slot 0 later; lode 0 would fill slot 1 after slot 0. -/
def sStale : State :=
  tierUp { sWait 0x40 { bufW := { tags := [(0, { full := true })] }, img := { imem := [(0, BitVec.ofNat 128 (0x440000 * 2 ^ 16))] } } with
    lodes := [(0, { desc := BitVec.ofNat 512 (2 + 2 ^ 29), st := .armed, slot := 1 })] }

theorem witness_Detectors_stale :
    staleCycle State.reset = none ∧ staleCycle sStale = some ([0, 1000], 0) := by decide

theorem test_stalemate : runs (exec .stalemateDetect sStale) (fun t =>
    decide (t.now = 18000 ∧ t.staleSeen = [[0, 1000]] ∧ reg t 0x6028 = 1#32 ∧ regBit t 0x4000 0 = true)) = true := by decide

theorem witness_Detectors_twin :
    let d : TwinDigest := ⟨3, none, none, none, 0, false⟩
    let s := { State.reset with twin := { own := [d] }, tempo := { count := 16 } }
    s.twin.own.find? (fun d => !d.late && decide (d.since + regBits s 0x240 31 16 ≤ s.tempo.count.toNat)) = some d := by decide

theorem test_twinMissing : runs (exec .twinMissingTimeout { State.reset with
    twin := { own := [⟨3, none, none, none, 0, false⟩] }, tempo := { count := 16 } }) (fun t => decide (t.twin.missing ∧ t.log.length = 1)) = true := by
  decide

theorem witness_SequencerOps (l : List LoopFrame) (hl : l = [] ∨ l = [⟨0, 5, 7, 1⟩] ∨ l = [⟨0, 5, 8, 1⟩]) :
    Issues 0 slotControl (sRun { seq := { pc := 7, loops := l }, selects := [(7, { variant := some 3 })] }) ∧
      (mapGet {} (fenOf (atIssue 0 slotControl (sRun { seq := { pc := 7, loops := l }, selects := [(7, { variant := some 3 })] })) 0).selects
        (7 : Fin 8).val).variant = some 3 := by
  rcases hl with rfl | rfl | rfl <;> exact ⟨iss (by decide), by decide⟩

theorem test_loopEnd : runs (exec (.cnop 0) (sRun { seq := { pc := 7, loops := [⟨0, 5, 7, 1⟩] } })) (fun t =>
    decide ((fenOf t 0).seq.pc = 5 ∧ (fenOf t 0).seq.loops = [⟨0, 5, 7, 0⟩])) = true := by decide

theorem test_loop : runs (exec (.loop 0 3 1023) (sRun { seq := { pc := 7 }, lcs := [(3, 9)] })) (fun t =>
    decide ((fenOf t 0).seq.pc = 8 ∧ (fenOf t 0).seq.loops = [⟨3, 8, 1031, 9⟩])) = true := by decide

theorem test_jump : runs (exec (.jump 0 4095) (sRun {})) (fun t => decide ((fenOf t 0).seq.pc = 4095)) = true := by decide

theorem test_brsel : runs (exec (.brsel 0 7) (sRun { selects := [(7, { variant := some 3 })], img := { variants := [(31, 0x123)] } }))
    (fun t => decide ((fenOf t 0).seq.pc = 0x123)) = true := by decide

/-- Fen 0 runs with WAIT descriptor 1023. -/
def sDesc (d : BitVec 128) : State := { sRun { img := { waits := [(1023, d)] }, counters := [(0, { cnt := 1 })] } with ck := 10, now := 20 }

theorem witness_SequencerOps_wait :
    Issues 0 slotControl (sDesc 0x100010001) ∧ mapGet .ok (fenOf (atIssue 0 slotControl (sDesc 0x100010001)) 0).img.waitErr 1023 ≠ .ue ∧
      waitOn (mapGet 0#128 (fenOf (atIssue 0 slotControl (sDesc 0x100010001)) 0).img.waits 1023) = some (.counter 0 1 true none) ∧
      waitHolds (atIssue 0 slotControl (sDesc 0x100010001)) 0 (atIssue 0 slotControl (sDesc 0x100010001)).ck (.counter 0 1 true none) = true ∧
      waitHolds (atIssue 0 slotControl (sDesc 0x200010001)) 0 (atIssue 0 slotControl (sDesc 0x200010001)).ck (.counter 0 2 true none) = false :=
  ⟨iss (by decide), by decide⟩

theorem test_wait_consumes : runs (exec (.wait 0 1023) (sDesc 0x100010001)) (fun t =>
    decide ((counterOf (fenOf t 0) 0).cnt = 0 ∧ (fenOf t 0).seq.pc = 1)) = true := by decide

theorem test_wait_stalls : runs (exec (.wait 0 1023) (sDesc 0x200010001)) (fun t =>
    decide ((counterOf (fenOf t 0) 0).cnt = 1 ∧ (fenOf t 0).seq.st = .waiting)) = true := by decide

theorem witness_SequencerOps_pass :
    isWaiting State.reset 0 = false ∧ isWaiting (sWait 1 {}) 0 = true ∧
      waitOn (waitingDesc (fenOf (waitAt 0 1 (sWait 1 {})) 0)) = some (.counter 0 0 false none) ∧
      waitHolds (waitAt 0 1 (sWait 1 {})) 0 (waitAt 0 1 (sWait 1 {})).ck (.counter 0 0 false none) = true := by decide

theorem test_waitPass : runs (exec (.waitPass 0) (sWait 1 {})) (fun t =>
    decide (t.ck = 1 ∧ (fenOf t 0).seq.st = .running ∧ (fenOf t 0).seq.pc = 1)) = true := by decide

theorem witness_FetchAndSegmentEnd (e : Ecc) :
    let s := sRun { img := { imemErr := if e = .ok then [] else [(0, e), (4, e)] }, seq := { endIssued := true } }
    ckRuns s = true ∧ fenIsOn (fenOf s 0) = true ∧ (fenOf s 0).seq.st = .running ∧
      fetchAhead (fenOf s 0) 4 ((fenOf s 0).seq.pc, (fenOf s 0).seq.loops) = some 4 ∧ mapGet .ok (fenOf s 0).img.imemErr 4 = e ∧
      (fenOf s 0).img.scrub = 0 ∧ mapGet .ok (fenOf s 0).img.imemErr 0 = e ∧ (fenOf s 0).seq.endIssued = true := by cases e <;> decide

theorem witness_FetchAndSegmentEnd_halted :
    let s := sOn { seq := { st := .halted, slotCk := 40 } } State.reset
    ckRuns s = true ∧ fenIsOn (fenOf s 0) = true ∧ (fenOf s 0).seq.st = .halted := by decide

theorem test_fetch_corrects : runs (exec (.bundleFetch 0) (sRun { img := { imemErr := [(4, .ce)] } })) (fun t =>
    decide (reg t 0x10A10 = 1#32)) = true := by decide

theorem test_imemScrub_corrects : runs (exec (.imemScrub 0) (sRun { img := { imemErr := [(0, .ce)] } })) (fun t =>
    decide ((fenOf t 0).img.imemErr = [] ∧ reg t 0x10A10 = 1#32)) = true := by decide

theorem test_segmentEnd : runs (exec (.fenSegmentEnd 0) { sRun { seq := { endIssued := true, slotCk := 40 } } with ck := 30 }) (fun t =>
    decide ((fenOf t 0).seq.st = .ended ∧ t.ck = 40 ∧ reg t 0x10900 = 40#32)) = true := by decide

/-! ## Causeways -/

/-- A frame with its CRC: type and sequence bit, type-specific field, payload. -/
def fr (kind ts payload : Nat) : Frame := frameOf (BitVec.ofNat 96 (kind + ts * 2 ^ 32)) (BitVec.ofNat 2048 payload)

/-- Causeway 0 is UP. -/
def sUp (s : State) : State := sCw { st := .up } s

theorem arr {c : Fin 3} {lane : Fin 8} {f : Frame} {s : State}
    (h : (lanesRun (cwOf s c.val) && crcGood f &&
      (!f.hdr.getLsbD 4 || (decide ((cwOf s c.val).st = .up) && decide (hdrField f 8 8 = (laneOf (cwOf s c.val) lane.val).rxNext.toNat))) &&
      !protoError s c.val f && (decide ((cwOf s c.val).st = .up) || decide (frameType f = frCtrl))) = true) : Arrives c lane f s := by
  simp only [Bool.and_eq_true, Bool.or_eq_true, Bool.not_eq_true', decide_eq_true_eq] at h
  refine ⟨h.1.1.1.1, h.1.1.1.2, fun hs => ?_, h.1.2, h.2⟩
  rcases h.1.1.2 with h | h
  · rw [h] at hs; exact nomatch hs
  · exact h

/-- DATA of one row for counter 5 of fen 0, at slot 1 of its A-buffer. -/
def dataFr : Frame := fr 0x11 (2 ^ 12 + 2 ^ 14 + 5 * 2 ^ 28 + 2 ^ 61) 0xABCD

/-- Fen 0 belongs to a plan whose counter 5 is send-fed. -/
def sMsg : State :=
  sUp { sOn { img := { plan := some 15 } } State.reset with plans := [(15, some { plan1 with msgCounters := [(0, 5)] })] }

theorem witness_FramesReceived_data :
    (Arrives 0 7 (fr 0 0 0) (sUp State.reset) ∧ frameType (fr 0 0 0) = 0) ∧
      (Arrives 0 7 dataFr sMsg ∧ frameType dataFr = frData ∧ tsField (frameTs dataFr) 12 2 ≠ 3 ∧
        dataCheck (arrived 0 7 dataFr sMsg) (frameTs dataFr) = some (0, .a, 32, 5) ∧ bufsOff (fenOf (arrived 0 7 dataFr sMsg) 0) = false) ∧
      (Arrives 0 7 dataFr (sUp State.reset) ∧ dataCheck (arrived 0 7 dataFr (sUp State.reset)) (frameTs dataFr) = none ∧
        (rxOf (cwOf (arrived 0 7 dataFr (sUp State.reset)) 0) (frameTs dataFr)).rejected = false) :=
  ⟨⟨arr (by decide +kernel), by decide⟩, ⟨arr (by decide +kernel), by decide⟩, arr (by decide +kernel), by decide⟩

theorem test_dataFrame : runs (exec (.dataFrameReceive 0 7 dataFr) sMsg) (fun t =>
    decide (rowData (bufOf (fenOf t 0) .a) 32 = 0xABCD ∧ (tagOf (fenOf t 0) .a 1).full ∧ (counterOf (fenOf t 0) 5).cnt = 1)) = true := by decide +kernel

theorem test_dataRejected : runs (exec (.dataFrameReceive 0 7 dataFr) (sUp State.reset)) (fun t =>
    decide (reg t 0x8054 = 1#32 ∧ t.fens = [])) = true := by decide +kernel

theorem witness_FramesReceived_carry :
    Arrives 0 7 (fr 0x12 0 0) (sUp State.reset) ∧ frameType (fr 0x12 0 0) = frCarry ∧
      (let u := arrived 0 7 (fr 0x12 0 0) (sUp State.reset)
       (cwOf u 0).carryTempo = BitVec.ofNat 16 (tsField (frameTs (fr 0x12 0 0)) 16 16) ∧ (cwOf u 0).carryRx = [] ∧
         (cwOf u 0).carryNext = tsField (frameTs (fr 0x12 0 0)) 0 16) := ⟨arr (by decide +kernel), by decide⟩

theorem witness_FramesReceived_oldCarry :
    Arrives 0 7 (fr 0x12 (2 ^ 31) 0) (sUp State.reset) ∧ frameType (fr 0x12 (2 ^ 31) 0) = frCarry ∧
      2 ^ 15 ≤ (BitVec.ofNat 16 (tsField (frameTs (fr 0x12 (2 ^ 31) 0)) 16 16) -
        carryFloor (arrived 0 7 (fr 0x12 (2 ^ 31) 0) (sUp State.reset)) (cwOf (arrived 0 7 (fr 0x12 (2 ^ 31) 0) (sUp State.reset)) 0)).toNat ∧
      (BitVec.ofNat 16 (tsField (frameTs (fr 0x12 0 0)) 16 16) -
        carryFloor (arrived 0 7 (fr 0x12 0 0) (sUp State.reset)) (cwOf (arrived 0 7 (fr 0x12 0 0) (sUp State.reset)) 0)).toNat < 2 ^ 15 :=
  ⟨arr (by decide +kernel), by decide +kernel⟩

theorem witness_FramesReceived_digest :
    Arrives 2 0 (fr 0x15 0 0) { State.reset with cws := [(2, { st := .up, role := 2 })] } ∧ frameType (fr 0x15 0 0) = frDigest :=
  ⟨arr (by decide +kernel), by decide⟩

/-- A marker of tempo 1, 228 eighths of a nanosecond ahead. -/
def tempoFr : Frame := fr 3 0 (1 + 228 * 2 ^ 48)

theorem witness_FramesReceived_tempo :
    (Arrives 0 0 tempoFr (sUp State.reset) ∧ frameType tempoFr = frTempo ∧ tempoRole (arrived 0 0 tempoFr (sUp State.reset)) ≠ 2) ∧
      (Arrives 0 0 tempoFr (sUp (sRole 2 (running State.reset))) ∧
        (let u := arrived 0 0 tempoFr (sUp (sRole 2 (running State.reset)))
         tempoRole u = 2 ∧ (0 : Fin 3).val = inLink u ∧ u.tempo.running = true ∧
           16 * 64 * 2 ≤ 9 * (tempoFr.payload.toNat / 2 ^ 48 % 2 ^ 24 - (cwOf u 0).delay.toNat) ∧
           BitVec.ofNat 48 tempoFr.payload.toNat = markExpected u.tempo)) :=
  ⟨⟨arr (by decide +kernel), by decide⟩, arr (by decide +kernel), by decide⟩

theorem test_tempoFrame : runs (exec (.tempoFrameReceive 0 0 tempoFr) (sUp (sRole 2 (running State.reset)))) (fun t =>
    decide (t.tempo.marks.length = 1 ∧ t.tempo.locked)) = true := by decide +kernel

/-- Causeways 0 and 1 are UP. -/
def sUp2 (r : Nat) : State := sRole r { running State.reset with cws := [(0, { st := .up }), (1, { st := .up, role := 1 })] }

theorem witness_FramesReceived_hold :
    (Arrives 1 0 (fr 0x14 0 0) (sUp2 1) ∧ frameType (fr 0x14 0 0) = frHold ∧ tempoRole (arrived 1 0 (fr 0x14 0 0) (sUp2 1)) = 1 ∧
      (fr 0x14 0 0).payload.getLsbD 0 = false ∧ (arrived 1 0 (fr 0x14 0 0) (sUp2 1)).tempo.atG = false ∧
      (arrived 1 0 (fr 0x14 0 0) (sUp2 1)).tempo.marks.any (·.hold) = false) ∧
      (Arrives 1 0 (fr 0x14 0 0) (sUp2 2) ∧ tempoRole (arrived 1 0 (fr 0x14 0 0) (sUp2 2)) = 2 ∧
        (1 : Fin 3).val ≠ inLink (arrived 1 0 (fr 0x14 0 0) (sUp2 2)) ∧
        linkKeeps (cwOf (arrived 1 0 (fr 0x14 0 0) (sUp2 2)) 0) = true) ∧
      (Arrives 0 0 (fr 0x14 0 0) (sUp2 0) ∧ tempoRole (arrived 0 0 (fr 0x14 0 0) (sUp2 0)) = 0) :=
  ⟨⟨arr (by decide +kernel), by decide⟩, ⟨arr (by decide +kernel), by decide⟩, arr (by decide +kernel), by decide⟩

theorem witness_FramesReceived_release :
    Arrives 1 0 (fr 0x14 0 0x3F1) (sUp2 1) ∧ frameType (fr 0x14 0 0x3F1) = frHold ∧ tempoRole (arrived 1 0 (fr 0x14 0 0x3F1) (sUp2 1)) = 1 ∧
      (fr 0x14 0 0x3F1).payload.getLsbD 0 = true := ⟨arr (by decide +kernel), by decide +kernel⟩

theorem test_holdForwarded : runs (exec (.holdFrameReceive 1 0 (fr 0x14 0 0)) (sUp2 2)) (fun t =>
    decide ((cwOf t 0).tx = [{ kind := frHold, ts := 0, payload := 0 }])) = true := by decide +kernel

theorem witness_FramesReceived_ctrl (k : Fin 7) (hk : 2 ≤ k.val) :
    Arrives 0 0 (fr 6 k.val 0) (sCw { st := .up, echoNum := 1 } State.reset) ∧ frameType (fr 6 k.val 0) = frCtrl ∧ frameSub (fr 6 k.val 0) = k.val ∧
      (cwOf (arrived 0 0 (fr 6 k.val 0) (sCw { st := .up, echoNum := 1 } State.reset)) 0).st = .up ∧
      (fr 6 k.val 0).payload.setWidth 16 = (cwOf (arrived 0 0 (fr 6 k.val 0) (sCw { st := .up, echoNum := 1 } State.reset)) 0).echoNum - 1 :=
  ⟨arr (by revert k; decide +kernel), by revert k; decide⟩

theorem witness_FramesReceived_exchange :
    let s := sCw { st := .training, phase := 4, exchanges := [(14, 8)] } State.reset
    let f := fr 6 3 15
    Arrives 0 0 f s ∧ frameType f = frCtrl ∧ frameSub f = 3 ∧ (cwOf (arrived 0 0 f s) 0).st ≠ .up ∧ (cwOf (arrived 0 0 f s) 0).phase = 4 ∧
      (f.payload.setWidth 16).toNat < 16 ∧ ∀ e ∈ (cwOf (arrived 0 0 f s) 0).exchanges, e.1 ≠ f.payload.setWidth 16 :=
  ⟨arr (by decide +kernel), by decide +kernel, by decide +kernel, by decide +kernel, by decide +kernel, by decide +kernel, fun e he =>
    of_decide_eq_true (List.all_eq_true.mp
      (show (cwOf (arrived 0 0 (fr 6 3 15) (sCw { st := .training, phase := 4, exchanges := [(14, 8)] } State.reset)) 0).exchanges.all
          (fun e => decide (e.1 ≠ (fr 6 3 15).payload.setWidth 16)) = true by decide +kernel) e he)⟩

theorem witness_FramesReceived_caps :
    let f := fr 6 1 capsGood.toNat
    (Arrives 0 0 f (sTrain 3) ∧ frameType f = frCtrl ∧ frameSub f = 1 ∧ (cwOf (arrived 0 0 f (sTrain 3)) 0).phase = 3 ∧
      capsFault (arrived 0 0 f (sTrain 3)) 0 (f.payload.setWidth 192) = none) ∧
      (Arrives 0 0 f (sUp State.reset) ∧ (cwOf (arrived 0 0 f (sUp State.reset)) 0).phase ≠ 3) :=
  ⟨⟨arr (by decide +kernel), by decide⟩, arr (by decide +kernel), by decide⟩

theorem test_caps : runs (exec (.capsReceive 0 0 (fr 6 1 capsGood.toNat)) (sTrain 3)) (fun t =>
    decide ((cwOf t 0).partnerCaps = some capsGood ∧ (cwOf t 0).checked)) = true := by decide +kernel

theorem test_heartbeat : runs (exec (.heartbeatReceive 0 0 (fr 6 4 0)) (sCw { st := .up, hbLost := true } State.reset)) (fun t =>
    decide ((cwOf t 0).hbLost = false)) = true := by decide +kernel

theorem witness_FramesReceived_refused :
    let bad := frameOf 0x111 0
    (frameType bad = frData ∧ crcGood bad = true ∧ bad.hdr.getLsbD 4 = true ∧ (cwOf (sUp State.reset) 0).st = .up ∧
      hdrField bad 8 8 ≠ (laneOf (cwOf (sUp State.reset) 0) 0).rxNext.toNat) ∧
      (frameType (fr 0xC0 0 0) = 0 ∧ crcGood (fr 0xC0 0 0) = true ∧ lanesRun (cwOf (sUp State.reset) 0) = true ∧ (fr 0xC0 0 0).hdr.getLsbD 4 = false ∧
        protoError (sUp State.reset) 0 (fr 0xC0 0 0) = true) ∧
      (frameType ⟨0x11, 0, 0, 3⟩ = frData ∧ crcGood ⟨0x11, 0, 0, 3⟩ = false) := by decide +kernel

theorem test_missing : runs (exec (.dataFrameReceive 0 0 (frameOf 0x111 0)) (sUp State.reset)) (fun t =>
    decide ((laneOf (cwOf t 0) 0).nakMissing ∧ (laneOf (cwOf t 0) 0).rxNext = 0)) = true := by decide +kernel

theorem test_crcFailed : runs (exec (.crcFailedFrameReceive 0 0 ⟨9, 0⟩) (sUp State.reset)) (fun t =>
    decide (reg t 0x8044 = 1#32 ∧ reg t 0x8040 = 9#32)) = true := by decide +kernel

/-- Lane 0 of causeway 0 with a frame not acknowledged and a missing one. -/
def sLane : State :=
  sCw { st := .up, lanes := [(0, { unacked := [(0, { kind := 1, ts := 0, payload := 0 }, 0)], nakMissing := true })] } State.reset

theorem witness_FrameHeaderTaken :
    (Arrives 0 7 dataFr sMsg ∧ dataFr.hdr.getLsbD 4 = true) ∧
      (Arrives 0 0 (fr 0 0 0) sLane ∧ (fr 0 0 0).hdr.getLsbD 4 = false ∧ (cwOf sLane 0).st = .up ∧
        (laneOf (cwOf sLane 0) 0).unacked.findIdx? (fun u => decide (u.1 = BitVec.ofNat 8 (hdrField (fr 0 0 0) 16 8))) = some 0) ∧
      (Arrives 0 0 (fr 6 1 capsGood.toNat) (sTrain 3) ∧ (cwOf (sTrain 3) 0).st ≠ .up) :=
  ⟨⟨arr (by decide +kernel), by decide⟩, ⟨arr (by decide +kernel), by decide⟩, arr (by decide +kernel), by decide⟩

theorem test_acknowledged : runs (exec (.creditFrameReceive 0 0 (fr 0 0 0)) sLane) (fun t =>
    decide ((laneOf (cwOf t 0) 0).unacked = [])) = true := by decide +kernel

theorem witness_LaneService :
    (lanesRun (cwOf sLane 0) = true ∧ (cwOf sLane 0).tx = [] ∧ (cwOf sLane 0).carryTx = [] ∧ (laneOf (cwOf sLane 0) 0).replay = []) ∧
      ((cwOf (sCw { st := .up, tx := [{ kind := frTempo, ts := 0, payload := 0 }] } State.reset) 0).tx.any
        (fun f => decide (f.kind = frTempo)) = true) ∧
      ((cwOf sLane 0).st = .up ∧ (laneOf (cwOf sLane 0) 0).unacked = (0, { kind := 1, ts := 0, payload := 0 }, 0) :: [] ∧
        (laneOf (cwOf sLane 0) 0).nakMissing = true ∧ (laneOf (cwOf sLane 0) 0).nakDue = false) ∧
      (tempoStopped sLane = true ∧ beatsOn sLane = true ∧ (∃ c, c < 3 ∧ (cwOf sLane c).st = .up) ∧ (cwOf sLane 0).hbLost = false) := by
  refine ⟨by decide, by decide, by decide, by decide, by decide, ⟨0, by decide, by decide⟩, by decide⟩

theorem test_replay : runs (exec (.replayTimeout 0 0) sLane) (fun t =>
    decide ((laneOf (cwOf t 0) 0).replay.length = 1 ∧ reg t 0x8048 = 1#32 ∧ t.now = 6272)) = true := by decide

theorem test_heartbeatLoss : runs (exec (.heartbeatLossTimeout 0) sLane) (fun t =>
    decide ((cwOf t 0).hbLost ∧ t.now = 900000 ∧ reg t 0x8060 = 1#32)) = true := by decide

theorem test_echo : runs (exec (.echoInterval 0) sLane) (fun t => decide ((cwOf t 0).echoNum = 1 ∧ (cwOf t 0).tx.length = 1)) = true := by decide

/-! ## The vector slot -/

theorem witness_VectorLogicAndInteger : Issues 0 slotVector (sRun {}) := iss (by decide)

theorem witness_VectorFloatAndMoves : Issues 71 slotVector { State.reset with fens := [(71, { pwr := { st := .on }, seq := { st := .running } })] } :=
  iss (by decide)

/-- Two registers whose first elements are given, the others 0. -/
def sVec (a b : Word) : State := sRun { v := [(1, a :: List.replicate 255 0#32), (2, b :: List.replicate 255 0#32)] }

/-- An operation on registers 1 and 2 into 3 under P0. -/
def vh : VHead := ⟨3, 1, 2, 0⟩

/-- The first element on its way after an operation. -/
def firstOut (t : State) : Option Word :=
  match (fenOf t 0).pend with
  | [⟨_, _, _, .vreg 3 (x :: _) _⟩] => x
  | _ => none

theorem test_iadd_saturates : runs (exec (.iadd 0 vh .w32 false) (sVec 0x7FFFFFFF#32 1#32)) (fun t =>
    decide (firstOut t = some 0x7FFFFFFF#32 ∧ reg t 0x10410 = 1#32)) = true := by decide +kernel

theorem test_iadd_wraps : runs (exec (.iadd 0 vh .w32 true) (sVec 0x7FFFFFFF#32 1#32)) (fun t =>
    decide (firstOut t = some 0x80000000#32 ∧ reg t 0x10410 = 0#32)) = true := by decide +kernel

theorem test_iabs_saturates : runs (exec (.iabs 0 vh .w8) (sVec 0x80#32 0#32)) (fun t =>
    decide (firstOut t = some 0x7F#32)) = true := by decide +kernel

theorem test_sar : runs (exec (.sar 0 vh (some 31)) (sVec 0x80000000#32 0#32)) (fun t =>
    decide (firstOut t = some 0xFFFFFFFF#32)) = true := by decide +kernel

theorem test_shl_by_register : runs (exec (.shl 0 vh none) (sVec 1#32 33#32)) (fun t =>
    decide (firstOut t = some 2#32)) = true := by decide +kernel

/-- 1.0 + 2.0 = 3.0. -/
theorem test_fadd : runs (exec (.fadd 0 vh false) (sVec 0x3F800000#32 0x40000000#32)) (fun t =>
    decide (firstOut t = some 0x40400000#32)) = true := by decide +kernel

/-- 3.0 · 0.5 = 1.5. -/
theorem test_fmul : runs (exec (.fmul 0 vh) (sVec 0x40400000#32 0x3F000000#32)) (fun t =>
    decide (firstOut t = some 0x3FC00000#32)) = true := by decide +kernel

theorem test_cmp : runs (exec (.cmp 0 vh .lt .i32) (sVec 0xFFFFFFFF#32 1#32)) (fun t =>
    decide (((fenOf t 0).pend.map fun w => match w.wr with | .preg 3 b _ => b.getLsbD 0 | _ => false) = [true])) = true := by decide +kernel

theorem witness_PredicateOps :
    Issues 0 slotVector (sRun {}) ∧ (3 % 8 ≠ 0 ∧ 8 % 8 = 0) ∧ f32v 0x7FC00000#32 = .nan := ⟨iss (by decide), by decide, by decide⟩

/-- A vector result due in CK 50. -/
def sResult (cls : WrCls) (w : FenWr) : State := { sRun { pend := [⟨50, 9, cls, w⟩] } with ck := 49, now := 98 }

theorem onlyPending (cls : WrCls) (w : FenWr) : OnlyPending 0 50 cls w (sResult cls w) := ⟨rfl, rfl, rfl, 9, rfl⟩

/-- A whole register's worth of elements. -/
def vals256 : List (Option Word) := List.replicate 256 (some 7#32)

theorem witness_ReductionsAndConversion :
    Issues 0 slotVector (sRun {}) ∧ OnlyPending 0 50 .vector (.vreg 3 vals256 (List.replicate 8 (some false)))
      (sResult .vector (.vreg 3 vals256 (List.replicate 8 (some false)))) ∧
      (tileReg (fenOf (sResult .vector .done) 0) 3).length = 256 ∧ vals256.length = 256 ∧
      ((vals256.getD (255 : Fin 256).val none).isSome = true ∧ (List.replicate 8 (some false)).length = 8 ∧
        ((List.replicate 8 (some false)).getD (255 / 32) none).isSome = true) ∧
      (∀ w ∈ (fenOf (sRun {}) 0).pend, w.cls ≠ .vector) := by
  refine ⟨iss (by decide), onlyPending _ _, by decide +kernel, by decide +kernel, by decide +kernel, fun _ h => nomatch h⟩

theorem test_vectorResult : runs (exec (.vectorResultWrite 0 none) (sResult .vector (.vreg 3 vals256 (List.replicate 8 (some false))))) (fun t =>
    decide (t.ck = 50 ∧ (fenOf t 0).pend = [] ∧ elemAt (tileReg (fenOf t 0) 3) 255 = 7#32)) = true := by decide +kernel

theorem witness_SpecialFunctions :
    (Issues 0 slotVector (sRun { sfuFree := 1 }) ∧ (atIssue 0 slotVector (sRun { sfuFree := 1 })).ck <
      (fenOf (atIssue 0 slotVector (sRun { sfuFree := 1 })) 0).sfuFree) ∧
      ((fenOf (atIssue 0 slotVector (sRun {})) 0).sfuFree ≤ (atIssue 0 slotVector (sRun {})).ck) ∧
      (actUsesUnit .relu = false ∧ actUsesUnit .sigmoid = true) := ⟨⟨iss (by decide), by decide⟩, by decide, by decide⟩

/-- Fen 0 with an epilogue of IDENTITY and F32. -/
def sEpi : State := sRun { img := { epis := [(63, 0x60)] } }

theorem witness_SpecialFunctions_epi :
    Issues 0 slotVector sEpi ∧ mapGet .ok (fenOf (atIssue 0 slotVector sEpi) 0).img.epiErr 63 = .ok ∧
      (match epiOfBits (mapGet 0#64 (fenOf (atIssue 0 slotVector sEpi) 0).img.epis 63) with
        | some d => !d.conv.scale
        | none => false) = true := ⟨iss (by decide), by decide⟩

theorem witness_SpecialFunctions_result :
    OnlyPending 0 50 .sfu (.vreg 3 vals256 []) (sResult .sfu (.vreg 3 vals256 [])) ∧ (∀ w ∈ (fenOf (sRun {}) 0).pend, w.cls ≠ .sfu) :=
  ⟨onlyPending _ _, fun _ h => nomatch h⟩

theorem witness_SpecialFunctions_rows (upd : NormUpd) (clr : Bool) :
    OnlyPending 0 50 .sfu (.norm 31 upd true false) (sResult .sfu (.norm 31 upd true false)) ∧
      OnlyPending 0 50 .sfu (.range 24 clr [([], false)]) (sResult .sfu (.range 24 clr [([], false)])) ∧
      OnlyPending 0 50 .sfu (.rowPart .p 4095 .f32 0 (List.replicate 32 7) true none)
        (sResult .sfu (.rowPart .p 4095 .f32 0 (List.replicate 32 7) true none)) ∧
      (List.replicate 32 7).length = fmtPerRow .f32 := ⟨onlyPending _ _, onlyPending _ _, onlyPending _ _, by decide⟩

theorem test_sfuBusy : runs (exec (.sfn 0 vh .rcp { target := .f32 }) (sRun { sfuFree := 1 })) (fun t =>
    decide (reg t 0x10800 = 1#32 ∧ (fenOf t 0).pend = [])) = true := by decide

/-! ## The move slot -/

/-- Fen 0 with route 15, which sends to logical fen 0's A-buffer. -/
def sSend (kind : Nat) (sends : List SendRec) : State :=
  sRun { img := { routes := [(15, BitVec.ofNat 64 (kind + 2 ^ 10 + 2 ^ 43))], links := [(0, { hasNext := true, credit := 1 })] }, sends := sends }

/-- A SEND of one row to logical fen 0. -/
def send1 (start : Option Nat) : SendRec := ⟨0, start, 1, [(7, true)], .fen 0 .a 32 5⟩

theorem witness_MoveSlotOps_send (kind : Nat) (hk : kind = 0 ∨ kind = 1) :
    let s := sSend kind []
    let f := fenOf (atIssue 0 slotMove s) 0
    Issues 0 slotMove s ∧ mapGet .ok f.img.routeErr 15 = .ok ∧ (routeOf (mapGet 0#64 f.img.routes 15)).isSome = true ∧ f.sends.length < 8 ∧
      (match routeOf (mapGet 0#64 f.img.routes 15) with
        | some r => (sendDest f 15 (routeTaken f r)).isSome && r.auto && decide ((routeTaken f r).kind = kind)
        | none => false) = true ∧ 0 < (linkOf f 0).credit ∧ f.sendEnd ≤ (atIssue 0 slotMove s).ck := by
  rcases hk with rfl | rfl <;> exact ⟨iss (by decide), by decide⟩

theorem witness_MoveSlotOps_full :
    let s := { sSend 0 (List.replicate 8 { send1 none with issued := 9 }) with ck := 0 }
    Issues 0 slotMove s ∧ 8 ≤ (fenOf (atIssue 0 slotMove s) 0).sends.length := ⟨iss (by decide), by decide⟩

theorem witness_MoveSlotOps :
    (383 < bufSlots .w ∧ bufSlots .w ≤ 384 ∧ bufSlots .p ≤ 511) ∧ vecFmtOk .f32 0 = true ∧ vecFmtOk .w40 1 = true ∧ vecFmtOk .f4 7 = true ∧
      ((fenOf (sRun {}) 0).sends = [] ∧ (fenOf (sSend 0 [send1 none]) 0).sends = send1 none :: [] ∧ ckRuns (sSend 0 [send1 none]) = true) := by decide

/-- A SEND on its way to logical fen 0. -/
def sNet (x : SendRec) : State := sRun { net := [x] }

theorem witness_MoveSlotOps_network :
    ckRuns (sNet (send1 (some 0))) = true ∧ (fenOf (settle 0 (sNet (send1 (some 0)))) 0).net = send1 (some 0) :: [] ∧
      (send1 (some 0)).dest = .fen 0 .a 32 5 ∧ pfenOf (sNet (send1 (some 0))) 0 = some 0 ∧
      bufsOff (fenOf (sNet (send1 (some 0))) 0) = false ∧ (send1 (some 0)).rows.length ≤ 32 ∧
      (counterOf (fenOf (sNet (send1 (some 0))) 0) 5).cnt < 0xFFFF ∧
      (let x : SendRec := { send1 (some 0) with dest := .remote 0 1 2 .a 32 5 }
       (fenOf (settle 0 (sNet x)) 0).net = x :: [] ∧ linkKeeps (cwOf (sUp (sNet x)) 0) = true) ∧
      (fenOf (settle 0 (sRun {})) 0).net = [] := by decide

theorem test_delivery : runs (exec (.networkRowDelivery 0) (sNet (send1 (some 0)))) (fun t =>
    decide (t.ck = 53 ∧ rowData (bufOf (fenOf t 0) .a) 32 = 7 ∧ rowMire (bufOf (fenOf t 0) .a) 32 = true ∧ (counterOf (fenOf t 0) 5).cnt = 1)) = true := by
  decide

theorem witness_MoveSlotOps_credit :
    (fenOf (sRun { creditsOut := [3] }) 0).creditsOut.contains 3 = true ∧ (fenOf (sRun {}) 0).creditsOut.contains 3 = false ∧
      (∀ w ∈ (fenOf (sRun {}) 0).pend, w.wr ≠ .credit 3) ∧
      (let s := sRun { creditsOut := [3], img := { links := [(3, { hasPrev := true, prevLink := 2 })] } }
       (linkOf (fenOf s 0) 3).hasPrev = true ∧ pfenOf s (linkOf (fenOf s 0) 3).prevFen = some 0) := by decide

theorem test_pset : runs (exec (.pset 0 15 .a 3 31) (sRun {})) (fun t =>
    decide ((fenOf t 0).pend = [⟨1, 2, .move, .ptr 15 ⟨.a, 3, 31⟩⟩])) = true := by decide

/-! ## The array slot -/

/-- A TLOAD and a TMUL of array 0. -/
def tl0 : TLoadOp := ⟨1, .f32, 0, 0, 0, false⟩
def tm0 (swap : Bool) : TMulOp := ⟨1, false, false, swap, false, 0, .f32, false, 0, 0, 0, 0, 0⟩

/-- TLOADs that wait for the load bus. -/
def sLoads (n : Nat) : State := sRun { loads := List.replicate n ⟨tl0, 0, none, 0⟩, busFree := 9 }

theorem witness_ArrayOps_load :
    (Issues 0 slotArray (sLoads 4) ∧ 4 ≤ ((fenOf (atIssue 0 slotArray (sLoads 4)) 0).loads.filter fun j => decide (j.start = none)).length) ∧
      (Issues 0 slotArray (sRun {}) ∧ (fenOf (atIssue 0 slotArray (sRun {})) 0).loads = [] ∧
        (fenOf (atIssue 0 slotArray (sRun {})) 0).busFree ≤ (atIssue 0 slotArray (sRun {})).ck) ∧
      ((fenOf (sLoads 1) 0).loads = [⟨tl0, 0, none, 0⟩] ∧ ckRuns (sLoads 1) = true ∧ (sLoads 1).ck ≤ max 0 (fenOf (sLoads 1) 0).busFree) ∧
      (Issues 0 slotArray (sLoads 3) ∧ ((fenOf (atIssue 0 slotArray (sLoads 3)) 0).loads.filter fun j => decide (j.start = none)).length < 4 ∧
        (fenOf (atIssue 0 slotArray (sLoads 3)) 0).loads ≠ []) ∧ (tl0.wslot.val < bufSlots .w ∧ bufSlots .w ≤ (511 : Fin 512).val) ∧
      (∀ j ∈ (fenOf (sRun {}) 0).loads, j.start ≠ none) := by
  refine ⟨⟨iss (by decide), by decide⟩, ⟨iss (by decide), by decide⟩, by decide, ⟨iss (by decide), by decide⟩, by decide, fun _ h => nomatch h⟩

theorem test_tload : runs (exec (.tload 0 tl0) (sLoads 4)) (fun t => decide (reg t 0x10318 = 1#32 ∧ (fenOf t 0).loads.length = 4)) = true := by
  decide

theorem test_loadStart : runs (exec (.tloadReadStart 0) (sLoads 1)) (fun t => decide (t.ck = 9 ∧ (fenOf t 0).busFree = 25)) = true := by decide

theorem witness_ArrayOps_compute :
    freeArrays (atIssue 0 slotArray (sRun {})) 0 1#4 true = [0] ∧ freeArrays (atIssue 0 slotArray (sRun {})) 0 1#4 false = [0] ∧
      (tm0 true).swap = true ∧ (tileOf (fenOf (atIssue 0 slotArray (sRun {})) 0) 0 127).frozen = false ∧
      reg (sRun {}) (fenWin 0 0x310) = 0#32 := by decide

/-- Outputs of zero for one row. -/
def outs16 : List ArrOut := (List.range 16).map fun i => ⟨i, [.fin false 0 0], false, none⟩

theorem witness_ArrayOps_results :
    (OnlyPending 0 50 .tmul (.prow 0 outs16 false none) (sResult .tmul (.prow 0 outs16 false none)) ∧ outs16.length = 16) ∧
      (OnlyPending 0 50 .state (.entries 0 [(0, 1#56)] false) (sResult .state (.entries 0 [(0, 1#56)] false)) ∧
        reg (sResult .state (.entries 0 [(0, 1#56)] false)) (fenWin 0 0x310) = 0#32) ∧
      (OnlyPending 0 50 .stread (.pvec 3 7 outs16) (sResult .stread (.pvec 3 7 outs16)) ∧
        (tileReg (fenOf (sResult .stread (.pvec 3 7 outs16)) 0) 3).length = 256) ∧
      (fenOf (sResult .tmul (.prow 0 outs16 false none)) 0).pend.find? (fun w => decide (w.cls = .tmul)) ≠ none :=
  ⟨⟨onlyPending _ _, by decide⟩, ⟨onlyPending _ _, by decide⟩, ⟨onlyPending _ _, by decide +kernel⟩, by decide⟩

theorem test_entryWritten : runs (exec (.stateEntryWrite 0 none) (sResult .state (.entries 5 [(9, 1#56)] false))) (fun t =>
    decide (t.ck = 50 ∧ entryOf (mapGet {} (fenOf t 0).tiles 5) 9 = 1#56)) = true := by decide

theorem test_arrayFault : runs (exec (.arrayResultWrite 0 (some ⟨false, false, 31, 3, false⟩)) (sResult .tmul (.prow 0 outs16 false none))) (fun t =>
    decide (reg t 0x10310 ≠ 0#32 ∧ regBit t 0x4000 0 = true)) = true := by decide

/-! ## The carry tree -/

/-- Scan 0 of plan 15 with tile 0 of two leaves. -/
def scan0 (ring : Bool) : ScanDecl := ⟨0, false, ring, 1, 0, 0, 3, [(0, 0, 1), (1, 0, 1)]⟩

/-- That plan is loaded, and fen 0 has its image. -/
def sScan (ring : Bool) (f : Fen) : State :=
  { sRun { f with img := { f.img with plan := some 15 } } with plans := [(15, some { plan1 with scans := [scan0 ring] })] }

/-- A push of array 0 on its way to the leaf. -/
def push0 : PushJob := ⟨40, 0, 0, 0, .both, carryIdent⟩

theorem witness_CarryOps_push :
    (Issues 0 slotMove (sScan false {}) ∧
      (let s := sScan false { deliveries := [(0, [⟨carryIdent, 0⟩])] }
       mapGet [] (fenOf (atIssue 0 slotMove s) 0).deliveries 0 = ⟨carryIdent, 0⟩ :: [] ∧ 0 ≤ (atIssue 0 slotMove s).ck ∧
         mapGet [] (fenOf (atIssue 0 slotMove s) 0).deliveries 1 = [])) ∧
      (let s := sScan false { pushes := [push0] }
       ckRuns s = true ∧ logicalOf s 0 = some 0 ∧ (fenOf s 0).pushes.find? (fun x => decide (x.array = (0 : Fin 4).val)) = some push0 ∧
         (planOfFen s 0).bind (fun pl => pl.scans.find? fun d => decide (d.scan = push0.scan)) = some (scan0 false) ∧
         (scan0 false).leaves.getLsbD 0 = true ∧ push0.tile < (scan0 false).tiles ∧ (leafOf s 0 0 0).sent = false ∧
         ((scan0 false).expect.find? fun e => decide (e.1 = 0 ∧ e.2.1 = push0.tile)).map (·.2.2) = some 1) :=
  ⟨⟨iss (by decide), rfl, by decide, rfl⟩, by decide +kernel⟩

theorem test_leafPush : runs (exec (.leafPushReceive 0 0 none) (sScan false { pushes := [push0] })) (fun t =>
    decide (t.ck = 40 ∧ (leafOf t 0 0 0).sent ∧ (mapGet {} t.carryTree (treeKey 32 0 0)).left.isSome)) = true := by decide +kernel

/-- A cell of the tree with a content. -/
def sCell (ring : Bool) (k : Nat) (x : TreeCell) : State := { sScan ring {} with carryTree := [(treeKey k 0 0, x)] }

theorem witness_CarryOps_nodes :
    (let x : TreeCell := { left := some carryIdent, right := some carryIdent }
     ckRuns (sCell false 32 x) = true ∧ scanOf (sCell false 32 x) 0 = some (scan0 false) ∧ (cellInputs (scan0 false) 32 none x).isSome = true ∧
       x.upDone = false) ∧
      (let x : TreeCell := { down := some carryIdent }
       x.downDone = false ∧ takesPart (scan0 false) 64 = true ∧ takesPart (scan0 false) 65 = true ∧
         takesPart (scan0 false) 32 = true ∧ takesPart (scan0 false) 33 = false) ∧
      (let x : TreeCell := { left := some carryIdent }
       scanOf (sCell true 1 x) 0 = some (scan0 true) ∧ (cellInputs (scan0 true) 1 none x).isSome = true ∧ (scan0 true).ring = true) := by
  decide +kernel

theorem witness_CarryOps_leaf :
    let s := { sCell false 64 { down := some carryIdent } with leaves := [(0, { pushes := [⟨0, .both, carryIdent, false⟩] })] }
    ckRuns s = true ∧ scanOf s 0 = some (scan0 false) ∧ pfenOf s 0 = some 0 ∧ (scan0 false).ring = false ∧
      (mapGet {} s.carryTree (treeKey (64 + 0) 0 0)).down = some carryIdent ∧ (leafOf s 0 0 0).delivered = false ∧
      (leafOf s 0 0 0).pushes = [⟨0, .both, carryIdent, false⟩] := by decide +kernel

/-- A carry of scan 0 that causeway 0 has received whole, of this tempo or another. -/
def sRing (tempo : Nat) : State :=
  { sScan true {} with cws := [(0, { st := .up, carryReady := [[BitVec.ofNat 1024 (tempo * 2 ^ 22)]] })] }

theorem witness_CarryOps_ring :
    ((cwOf (sRing 0) 0).carryReady = [BitVec.ofNat 1024 0] :: [] ∧ ringAccept (sRing 0) 0 0 = some (scan0 true)) ∧
      ((cwOf (sRing 1) 0).carryReady = [BitVec.ofNat 1024 (2 ^ 22)] :: [] ∧ ringAccept (sRing 1) 0 (BitVec.ofNat 1024 (2 ^ 22)) = none) ∧
      (let x : RingCell := ⟨0, 0, none, some carryIdent, false, 0, []⟩
       ringCell { sScan true {} with ring := [x] } 0 0 = some x ∧ x.h.isSome = true ∧ x.broadcast = false) ∧
      (let x : RingCell := ⟨0, 0, none, some carryIdent, true, 0, []⟩
       let k : KeptPart := ⟨0, 0, 3, [], []⟩
       let s := { sScan true { kept := [k] } with ring := [x] }
       ringCell s 0 0 = some x ∧ x.h = some carryIdent ∧ pfenOf s 0 = some 0 ∧
         (fenOf s 0).kept.filter (fun k => decide (k.scan = 0 ∧ k.tile = 0)) = [k]) := by decide +kernel

theorem test_ringRejected : runs (exec (.ringCarryReceive ⟨0, none⟩) (sRing 1)) (fun t => decide (reg t 0x110 = 1#32 ∧ t.ring = [])) = true := by decide

/-! ## Decisions -/

/-- Decision 0 of plan 15: the MAX of I32 summaries of fens 0 and 1, one threshold of 5, for slot 7 of fen 0. -/
def dec0 : BitVec 256 := BitVec.ofNat 256 (3 + 2 ^ 64 + 5 * 2 ^ 128 + 1 * 2 ^ 224 + 7 * 2 ^ 228 + 1 * 2 ^ 231)

/-- That plan is loaded; fen 0 has its image and a flit on its way. -/
def sDec (tempo : BitVec 8) (got : List (Nat × Word × Bool)) (sel : List (Nat × Nat)) : State :=
  { sRun { img := { plan := some 15 }, flits := [(8, 0, 9#32, tempo, false)] } with
    plans := [(15, some { plan1 with decisions := [dec0] })]
    decisions := [(960, { got := got, chosen := some 3 })]
    selPending := sel }

theorem witness_Decisions :
    Issues 0 slotVector (sDec 0 [] []) ∧
      ((fenOf (sDec 0 [] []) 0).flits = (8, 0, 9#32, 0, false) :: [] ∧ logicalOf (sDec 0 [] []) 0 = some 0 ∧
        decisionOf (sDec 0 [] []) 0 0 = some dec0 ∧ (0 : BitVec 8) = (sDec 0 [] []).tempo.count.setWidth 8 ∧ (decSources dec0).getLsbD 0 = true ∧
        (mapGet {} (sDec 0 [(1, 2#32, true)] []).decisions (decKey 15 0)).got = [(1, 2#32, true)] ∧ (decSources dec0).getLsbD 1 = true ∧
        (decTargets dec0).getLsbD 0 = true ∧ (1 : BitVec 8) ≠ (sDec 1 [] []).tempo.count.setWidth 8) ∧
      (pfenOf (sDec 0 [] [(960, 0)]) 0 = some 0 ∧ (mapGet {} (sDec 0 [] [(960, 0)]).decisions (decKey 15 0)).chosen = some 3 ∧
        (sDec 0 [] [(960, 0)]).selPending.contains (decKey 15 0, 0) = true ∧ (sDec 0 [] []).selPending.contains (decKey 15 0, 0) = false ∧
        pfenOf (sDec 0 [] []) 63 = none) := ⟨iss (by decide), by decide, by decide⟩

theorem test_decided : runs (exec (.summaryFlitArrival 0) (sDec 0 [(1, 2#32, false)] [])) (fun t =>
    decide (t.ck = 8 ∧ (mapGet {} t.decisions 960).chosen = some 1 ∧ t.selPending = [(960, 0)])) = true := by decide

theorem test_lateSummary : runs (exec (.summaryFlitArrival 0) (sDec 1 [] [])) (fun t => decide (reg t 0x140 = 1#32 ∧ t.selPending = [])) = true := by
  decide

theorem test_selected : runs (exec (.selectSlotWrite 0 0) (sDec 0 [] [(960, 0)])) (fun t =>
    decide ((mapGet {} (fenOf t 0).selects 7).variant = some 3 ∧ t.selPending = [])) = true := by decide

/-! ## Lodes, ports and scrubbers -/

/-- Lode 1023 of fen 0 with a fabric descriptor and a content. -/
def sFab (x : Lode) : State := tierUp { sRun {} with lodes := [(1023, x)] }

/-- A fabric write lode of one row of the A-buffer. -/
def fabWrite : BitVec 512 := BitVec.ofNat 512 (3 + 2 ^ 18)

theorem witness_LodesPortsAndScrubs_issue :
    (lodePfen State.reset (lodeOf State.reset 1023) = none) ∧
      (let x : Lode := { desc := fabWrite, st := .armed }
       lodePfen (sFab x) x = some 0 ∧ lodeReady (sFab x) x = true ∧ tagsAllow (settle 0 (advanceTo 0 (sFab x))) 0 x = false) ∧
      (let x : Lode := { desc := fabricRead, st := .armed }
       let u := settle 0 (advanceTo 0 (sFab x))
       lodePfen (sFab x) x = some 0 ∧ lodeReady (sFab x) x = true ∧ tagsAllow u 0 x = true ∧ pagesThere u (nextXfer u x) = true ∧
         anyRank u .waking (nextXfer u x).tier ((nextXfer u x).rows.map fun r => (nextXfer u x).origin + r.2) = false) ∧
      (let x : Lode := { desc := fabWrite, st := .armed }
       let s := tierUp { sRun { bufA := { tags := [(0, { full := true })] } } with lodes := [(1023, x)] }
       tagsAllow (settle 0 (advanceTo 0 s)) 0 x = true ∧ ldRead x.desc = false ∧ ldFabric x.desc = true ∧ ldBuf x.desc = some .a) := by decide

theorem test_lodeBlocked : runs (exec (.lodeTransferIssue 1023) (sFab { desc := fabWrite, st := .armed })) (fun t =>
    decide ((lodeOf t 1023).st = .blocked ∧ t.out = [])) = true := by decide

theorem test_lodeIssues : runs (exec (.lodeTransferIssue 1023) (sFab { desc := fabricRead, st := .armed })) (fun t =>
    decide ((lodeOf t 1023).inflight.length = 1 ∧ (lodeOf t 1023).st = .done)) = true := by decide

/-- A transfer of one row from the fabric. -/
def xfer1 : Xfer := ⟨1, 0, 0, [(32, 0)], [1], none, 0, 0, [], 0, []⟩

theorem witness_LodesPortsAndScrubs_complete :
    let x : Lode := { desc := fabricRead, st := .running, gen := 1, inflight := [xfer1] }
    let s := { sFab x with fens := [(0, { pwr := { st := .on }, counters := [(0, { gen := 1 })] })] }
    x.inflight = xfer1 :: [] ∧ lodePfen s x = some 0 ∧ ldBuf x.desc = some .w ∧ s.plant.tierUp = true ∧ s.plant.tierResetUntil = none ∧
      (fenOf s 0).resetUntil = none ∧ bufsOff (fenOf s 0) = false ∧ ldRead x.desc = true ∧ xfer1.tier = none ∧ xfer1.rows = [(32, 0)] ∧ xfer1.flushed = [] ∧
      (counterOf (fenOf s 0) (ldGroup x.desc)).gen = xfer1.gen ∧ (counterOf (fenOf s 0) (ldGroup x.desc)).cnt < 0xFFFF := by decide

theorem test_lodeCompletes : runs (exec (.lodeTransferComplete 1023 ⟨[0x55], [], false, 0⟩)
    { sFab { desc := fabricRead, st := .running, gen := 1, inflight := [xfer1] } with
      fens := [(0, { pwr := { st := .on }, counters := [(0, { gen := 1 })] })] }) (fun t =>
    decide (rowData (bufOf (fenOf t 0) .w) 32 = 0x55 ∧ (counterOf (fenOf t 0) 0).cnt = 1 ∧ (tagOf (fenOf t 0) .w 1).full)) = true := by decide

theorem witness_LodesPortsAndScrubs_step :
    let x : Lode := { desc := fabricRead, st := .running, gen := 1, stepWait := 1 }
    tierWorks (sFab x) = true ∧ 0 < x.stepWait ∧ (∀ y ∈ x.inflight, y.gen ≠ x.gen - 1) ∧ lodePfen (sFab x) x = some 0 ∧
      tierWorks State.reset = false := by decide

theorem witness_LodesPortsAndScrubs_noStep :
    let x : Lode := { desc := fabricRead, st := .running, gen := 2, stepWait := 1, inflight := [xfer1] }
    ∃ y ∈ x.inflight, y.gen = x.gen - 1 := ⟨xfer1, by decide, by decide⟩

theorem test_genStep : runs (exec (.lodeGenStep 1023) (sFab { desc := fabricRead, st := .running, gen := 1, stepWait := 1 })) (fun t =>
    decide ((lodeOf t 1023).gen = 2 ∧ (counterOf (fenOf t 0) 0).gen = 2)) = true := by decide

/-- Fen 0 with a correctable error in state entry 1023 of depth 0 of array 3. -/
def sScrub : State := sOn { tiles := [(tileIx 3 0, { err := [(1023, .ce)] })], bufA := { err := [(7, .ce)] } } State.reset

theorem witness_LodesPortsAndScrubs_scrub :
    regBit { State.reset with regs := [(fenWin 71 0x510, some 0#32), (fenWin 71 0xB08, some 0#32)] } (fenWin 71 0x510) 0 = false ∧
      regBit { State.reset with regs := [(fenWin 71 0x510, some 0#32), (fenWin 71 0xB08, some 0#32)] } (fenWin 71 0xB08) 0 = false ∧
      (regBit sScrub (fenWin 0 0x510) 0 = true ∧ regBit sScrub (fenWin 0 0xB08) 0 = true ∧ ckRuns sScrub = true ∧
        (fenOf sScrub 0).pwr.st ≠ .retain ∧ (fenOf sScrub 0).pwr.st ≠ .off ∧ (fenOf sScrub 0).resetUntil = none ∧
        bufsOff (fenOf sScrub 0) = false ∧ (arrOf (fenOf sScrub 0) 3).scrubRead = none ∧
        ((tileOf (fenOf sScrub 0) 3 0).err.filter fun e => decide (e.2 = .ce)).map (·.1) = [1023]) := by decide

theorem test_stateScrub_reads : runs (exec (.stateScrub 0 3) sScrub) (fun t =>
    decide ((arrOf (fenOf t 0) 3).scrubRead = some [1023] ∧ (arrOf (fenOf t 0) 3).scrub = 0)) = true := by decide

theorem test_bufferScrub_reads : runs (exec (.bufferScrub 0 .a) sScrub) (fun t =>
    decide ((bufOf (fenOf t 0) .a).scrubRead = some [7])) = true := by decide

/-- The initial-state load of a tile of pfen 0, begun or not. -/
def port1 (start : Option Nat) : PortXfer := ⟨0, 3, 127, .init 0 none, start, false, 0⟩

/-- A running tempo at a boundary whose actions wait for the transfers given. -/
def sPorts (l : List PortXfer) : State := { sRun {} with ports := l, tempo := { running := true, atG := true, actAt := some 0 } }

theorem witness_LodesPortsAndScrubs_port :
    (let s := { sRun {} with ports := [port1 none] }
     s.ports.find? (fun x => decide (x.pfen = (0 : Fin 72).val) && decide (x.start = none)) = some (port1 none) ∧ ckRuns s = true ∧
       (fenOf s 0).pwr.st ≠ .off ∧ (fenOf s 0).pwr.phase = .none ∧ portStart s (port1 none) = some 0) ∧
      (let s := { sRun {} with ports := [port1 (some 5)] }
       s.ports.find? (fun x => decide (x.pfen = (0 : Fin 72).val) && x.start.isSome) = some (port1 (some 5)) ∧ ckRuns s = true ∧
         (port1 (some 5)).start = some 5 ∧ (port1 (some 5)).due = false) ∧
      (let x : PortXfer := ⟨0, 3, 127, .init 0 none, some 5, true, 0⟩
       let s := sPorts [x, ⟨1, 0, 0, .init 0 none, none, true, 1⟩]
       s.ports.find? (fun x => decide (x.pfen = (0 : Fin 72).val) && x.start.isSome) = some x ∧ ckRuns s = true ∧
         x.start = some 5 ∧ portsOver (portEnd x [] s) = false) ∧
      State.reset.ports.find? (fun x => decide (x.pfen = (0 : Fin 72).val) && x.start.isSome) = none := by decide

theorem test_portDone : runs (exec (.statePortTransferDone 0 []) { sRun {} with ports := [port1 (some 5)] }) (fun t =>
    decide (t.ck = 45 ∧ t.ports = [] ∧ (tileOf (fenOf t 0) 3 127).invalid = false)) = true := by decide

theorem test_portDone_boundary :
    runs (exec (.statePortTransferDone 0 []) (sPorts [⟨0, 3, 127, .init 0 none, some 5, true, 0⟩])) (fun t =>
      decide (t.ck = 141 ∧ t.tempo.running ∧ t.tempo.atG = false)) = true := by decide

/-! ## Memory and frames -/

theorem witness_TierMemoryReadsBack :
    (0 + 4 ≤ 4 ∨ 4 + 2 ≤ 0) ∧ Memory.wf State.reset.tierA = true ∧ Memory.wf (tierWrite .a 4 [1, 0, 2] State.reset).tierA = true := by decide

theorem witness_SlotFrame :
    slotOpFen (.pset 0 15 .a 3 31) = some 0 ∧ (∃ t, exec (.pset 0 15 .a 3 31) (sRun {}) = .next t) ∧ (fenOf (sRun {}) 0).pend = [] :=
  ⟨rfl, ⟨_, rfl⟩, by decide⟩

/-! ## Ill-formed commands -/


/-- Every command of a list is refused by the check. -/
def refusedAll (l : List Instr) : Bool := l.all fun i => !wellFormed i

/-- Every command of a list passes the check. -/
def passedAll (l : List Instr) : Bool := l.all wellFormed

def pkt0 : Packet := ⟨0, 0, 0, 0, 0, 0, 0⟩

/-- A frame of a type and subtype. -/
def wfFrame (ty sub : Nat) : Frame := { hdr := BitVec.ofNat 96 (ty + sub * 2 ^ 32), payload := 0, crc := 0 }

def noFuses : Fuses := ⟨0, 0, false, 0, [], [], [], 0, 0⟩
def cleanBist : Bist := ⟨0, none, [], [], true, true, true, true⟩
def stHead (amask : BitVec 4) (vbase : Fin 32) : StHead := ⟨amask, 0, 0, vbase, 0, false⟩
def vHead (vd va vb : Fin 32) : VHead := ⟨vd, va, vb, 0⟩
def tmulOp (amask : BitVec 4) (pass : Fin 16) (afmt : AFmt) (asc : Bool) : TMulOp :=
  ⟨amask, false, false, false, false, pass, afmt, asc, 0, 0, 0, 0, 0⟩

/-- NOP's row takes opcode 01H and the opcodes that Table 13-4 does not list, not another row's. -/
theorem wf_nop : refusedAll [.nop 0 0x22 pkt0] && passedAll [.nop 0 1 pkt0, .nop 0 0xFF pkt0] = true := by decide +kernel

/-- Offsets are aligned; clear-on-read registers, and registers whose writes have rows, are apart (R11 to R13). -/
theorem wf_registers : refusedAll
    [.rcRegisterRead 2, .rcRegisterRead 0x100, .registerWrite 0x102 0, .registerWrite 0x4008 0, .registerWrite 0x2010 0,
      .registerWrite 0x6064 1, .registerWrite 0xD000 2]
    && passedAll [.registerWrite 0x1000 0, .registerWrite 0x6064 0, .registerWrite 0xD000 0] = true := by decide +kernel

/-- Repair records lie within their count, and their fields ascend and name what exists (Tables 3-12 and 6-13); what BIST finds
lies within it too. -/
theorem wf_repairs : refusedAll
    [.fuseLoad { noFuses with arrRepair := [(288, 0xFFFFFF)] }, .fuseLoad { noFuses with sfuRepair := [(72, 0xFFFFFFF)] },
      .fuseLoad { noFuses with arrRepair := [(0, 0xFFFFE2)] }, .fuseLoad { noFuses with arrRepair := [(0, 0xFFF041)] },
      .fuseLoad { noFuses with arrRepair := [(0, 0x1FFFFFF)] }, .fuseLoad { noFuses with sfuRepair := [(0, 0xFFFFFC4)] },
      .startupBist { cleanBist with arrBad := [(288, [], [])] }, .startupBist { cleanBist with sfuBad := [(72, [])] }]
    && passedAll [.fuseLoad { noFuses with arrRepair := [(287, 0xFFFFE1)] }, .fuseLoad { noFuses with sfuRepair := [(71, 0xFFFFFC3)] },
      .startupBist { cleanBist with sfuBad := [(71, [67])] }] = true := by decide +kernel

/-- A frame's row is that of its type (Table 12-3) and subtype (Table 12-5). -/
theorem wf_frames : refusedAll
    [.tempoFrameReceive 0 0 (wfFrame 1 0), .holdFrameReceive 0 0 (wfFrame 3 0), .creditFrameReceive 0 0 (wfFrame 1 0),
      .dataFrameReceive 0 0 (wfFrame 2 0), .carryFrameReceive 0 0 (wfFrame 1 0), .digestFrameReceive 0 0 (wfFrame 1 0),
      .capsReceive 0 0 (wfFrame 6 2), .echoReceive 0 0 (wfFrame 6 1), .echoReplyReceive 0 0 (wfFrame 6 1) 0,
      .heartbeatReceive 0 0 (wfFrame 6 1), .moveDoneReceive 0 0 (wfFrame 6 1), .moveRejectReceive 0 0 (wfFrame 6 1)]
    && passedAll
      [.tempoFrameReceive 0 0 (wfFrame 3 0), .dataFrameReceive 0 0 (wfFrame 1 0), .creditFrameReceive 0 0 (wfFrame 9 0),
        .capsReceive 0 0 (wfFrame 6 1), .moveRejectReceive 0 0 (wfFrame 6 6)] = true := by decide +kernel

/-- TLOAD (R349): an array, a slot and rows that exist, SC as the format has it, the scale row outside the tile's. -/
theorem wf_tload : refusedAll
    [.tload 0 ⟨0, .f32, 0, 0, 0, false⟩, .tload 0 ⟨1, .f4, 0, 0, 0, false⟩, .tload 0 ⟨1, .f16b, 0, 0, 0, true⟩,
      .tload 0 ⟨1, .f32, 384, 0, 0, false⟩, .tload 0 ⟨1, .f32, 0, 1, 0, false⟩, .tload 0 ⟨1, .f4, 0, 8, 11, true⟩]
    && passedAll [.tload 0 ⟨1, .f32, 383, 0, 0, false⟩, .tload 0 ⟨1, .f4, 0, 8, 12, true⟩] = true := by decide +kernel

/-- TMUL (R350): an array, a pass 0 to 9, scales only with a scaled format. -/
theorem wf_tmul : refusedAll
    [.tmul 0 (tmulOp 0 0 .f32 false), .tmul 0 (tmulOp 1 10 .f32 false), .tmul 0 (tmulOp 1 0 .f32 true)]
    && passedAll [.tmul 0 (tmulOp 1 9 .f32 false), .tmul 0 (tmulOp 1 0 .f4 true)] = true := by decide +kernel

/-- State operations (R351): an array, and four registers from VBASE. -/
theorem wf_state_ops : refusedAll
    [.topa 0 (stHead 0 0), .tdecay 0 (stHead 0 0) false, .tscale 0 (stHead 1 29) false, .tread 0 (stHead 1 29) false (.reg 0 0),
      .tstep 0 (stHead 0 0) false false (.reg 0 0)]
    && passedAll [.topa 0 (stHead 1 28), .tscale 0 (stHead 15 0) true] = true := by decide +kernel

/-- Predicates are P0 to P7 (R353); an integer operation wraps at width 32 only (R266). -/
theorem wf_predicates : refusedAll
    [.cmp 0 (vHead 8 0 0) .eq .i32, .pand 0 (vHead 8 0 0), .por 0 (vHead 0 8 0), .pxor 0 (vHead 0 0 8), .pnot 0 (vHead 0 8 0),
      .iadd 0 (vHead 0 0 0) .w8 true, .isub 0 (vHead 0 0 0) .w16 true]
    && passedAll [.cmp 0 (vHead 7 31 31) .eq .i32, .pnot 0 (vHead 7 7 31), .iadd 0 (vHead 31 31 31) .w32 true] = true := by
  decide +kernel

/-- Indices of a broadcast, types of reductions and prefixes, registers of SUMMARY (Table 9-10). -/
theorem wf_vector : refusedAll
    [.vbcast 0 (vHead 0 0 0) .row 16, .vbcast 0 (vHead 0 0 0) .column 16, .vbcast 0 (vHead 0 0 0) .vector 8,
      .red 0 (vHead 0 0 0) .sum .tile .i32, .red 0 (vHead 0 0 0) .lcomp .tile .f32, .pfx 0 (vHead 0 0 0) .min .tile .f32 none,
      .pfx 0 (vHead 0 0 0) .sum .tile .l32 none, .summary 0 (vHead 1 0 0) 0 .min]
    && passedAll
      [.vbcast 0 (vHead 0 0 0) .element 255, .red 0 (vHead 0 0 0) .min .rows .i32, .pfx 0 (vHead 0 0 0) .lcomp .tile .l32 none,
        .summary 0 (vHead 0 31 0) 63 .or] = true := by decide +kernel

/-- Conversion descriptors (R67, R354) and the sources of the RMS phases (R356). -/
theorem wf_conversions : refusedAll
    [.cvt 0 (vHead 0 0 0) { target := .w40 } .f32, .cvt 0 (vHead 0 0 0) { target := .e8 } .f32,
      .cvt 0 (vHead 0 0 0) { target := .f8e4, scale := true } .f32, .act 0 (vHead 0 0 0) .silu { target := .f32, stoch := true },
      .sfn 0 (vHead 0 0 0) .rcp { target := .f4, ovf := true }, .nrmKmax 0 (vHead 0 0 0) .scaled .f32 0 false,
      .nrmSq 0 (vHead 0 0 0) .scaled .f32 0, .nrmApply 0 (vHead 0 0 0) .scaled .f16b 0]
    && passedAll [.cvt 0 (vHead 0 0 0) { target := .f8e4, stoch := true } .f32, .nrmSq 0 (vHead 0 0 0) .scaled .f8e4 0] = true := by
  decide +kernel

/-- Move-slot operations: a vector format and group (R361), a slot that exists (R360, R365), a mask pair that is not the
constant M0 (R365). -/
theorem wf_move : refusedAll
    [.vld 0 0 0 0 false .e8 0, .vst 0 0 0 0 false .f32 7, .pset 0 0 .a 256 0, .tagSetFull 0 .p 128, .tagSetEmpty 0 .w 384,
      .tagReleaseChain 0 .a 300 0, .maskld 0 0 0 0]
    && passedAll [.vld 0 31 7 15 true .f32 0, .pset 0 0 .w 383 31, .tagSetFull 0 .p 127, .maskld 0 7 0 0] = true := by decide +kernel

end Sys2Proof.Tests
end

/-! # Which commands stop (O6, O7)

Every meaning that `exec` calls is a tree of tests and matches whose leaves are next states, but for the two register
accesses, which test their offset's alignment first (R3, R10). -/

namespace Sys2Proof.Machine

/-- An outcome that goes on: the command answers a next state. -/
def GoesOn (r : Host.Outcome State Fault Refusal) : Prop := ∃ t, r = .next t

theorem GoesOn.next (t : State) : GoesOn (.next t) := ⟨t, rfl⟩

theorem GoesOn.test {p : Prop} [Decidable p] {a b : Host.Outcome State Fault Refusal} (ha : GoesOn a) (hb : GoesOn b) :
    GoesOn (if p then a else b) := by
  split
  · exact ha
  · exact hb

section

variable (s : State)

/-! ## Commands whose meaning mixes matches and tests -/

theorem execPlanImageFetched_goesOn (img : Option (List Byte)) : GoesOn (execPlanImageFetched img s) := by
  unfold execPlanImageFetched
  split
  · exact .next _
  · dsimp only
    split <;> exact .next _

/-- `pageOk` stays a variable, for else the kernel computes the digests of the image's pages. -/
theorem execRestoreLoadDone_goesOn : GoesOn (execRestoreLoadDone s) := by
  obtain ⟨ok, hok⟩ : ∃ ok, ok = pageOk := ⟨_, rfl⟩
  rw [execRestoreLoadDone, ← hok]
  split
  · exact .next _
  · dsimp only
    split <;> exact .next _

theorem execLodeDescriptorFetched_goesOn (l : Fin 1024) (desc : BitVec 512) : GoesOn (execLodeDescriptorFetched l desc s) := by
  unfold execLodeDescriptorFetched
  split
  · exact .next _
  · dsimp only
    split <;> exact .next _

theorem execFenPowerTransitionDone_goesOn (p : Fin 72) (b : Bool) : GoesOn (execFenPowerTransitionDone p b s) := by
  unfold execFenPowerTransitionDone
  dsimp only
  split
  · exact .next _
  · exact .test (.next _) (.next _)

theorem execFlashExtentIssue_goesOn (o : Fin 4096) : GoesOn (execFlashExtentIssue o s) := by
  unfold execFlashExtentIssue
  dsimp only
  split
  · exact .next _
  · exact .test (.next _) (.next _)

theorem execReplayTimeout_goesOn (c : Fin 3) (lane : Fin 8) : GoesOn (execReplayTimeout c lane s) := by
  unfold execReplayTimeout
  dsimp only
  split
  · exact .next _
  · exact .test (.next _) (.next _)

theorem execStateMoveTierWriteDone_goesOn (sid : BitVec 16) : GoesOn (execStateMoveTierWriteDone sid s) := by
  unfold execStateMoveTierWriteDone
  split
  · exact .next _
  · exact .test (.next _) (.next _)

theorem execStatePortTransferDone_goesOn (p : Fin 72) (badRows : List Nat) : GoesOn (execStatePortTransferDone p badRows s) := by
  unfold execStatePortTransferDone
  split
  · exact .next _
  · exact .test (.next _) (.next _)

theorem execStatePortTransferStart_goesOn (p : Fin 72) : GoesOn (execStatePortTransferStart p s) := by
  unfold execStatePortTransferStart
  split
  · exact .next _
  · refine .test (.next _) ?_
    split <;> exact .next _

theorem execLodeTransferIssue_goesOn (l : Fin 1024) : GoesOn (execLodeTransferIssue l s) := by
  unfold execLodeTransferIssue
  dsimp only
  split
  · exact .next _
  · exact .test (.next _) (.test (.next _) (.test (.next _) (.test (.next _) (.next _))))

theorem execLodeTransferComplete_goesOn (l : Fin 1024) (ret : XferReturn) : GoesOn (execLodeTransferComplete l ret s) := by
  unfold execLodeTransferComplete
  dsimp only
  split
  · exact .test (.next _) (.next _)
  · exact .next _

theorem execFwCheckDone_goesOn : GoesOn (execFwCheckDone s) := by
  unfold execFwCheckDone
  split
  · exact .next _
  · split <;> exact .next _

theorem execFatalError_goesOn (cause : FatalCause) : GoesOn (execFatalError cause s) := by
  unfold execFatalError
  refine .test (.next _) ?_
  split
  · exact .test (.next _) (.next _)
  · exact .next _

theorem execTempoBoundaryDue_goesOn : GoesOn (execTempoBoundaryDue s) := by
  unfold execTempoBoundaryDue
  refine .test (.next _) ?_
  dsimp only
  split <;> exact .next _

theorem execBoundaryActions_goesOn : GoesOn (execBoundaryActions s) := by
  unfold execBoundaryActions
  refine .test (.next _) ?_
  split
  · exact .next _
  · exact .test (.next _) (.next _)

theorem execStateScrub_goesOn (p : Fin 72) (array : Fin 4) : GoesOn (execStateScrub p array s) := by
  unfold execStateScrub
  refine .test (.next _) ?_
  dsimp only
  split
  · exact .next _
  · exact .test (.next _) (.next _)

theorem execBufferScrub_goesOn (p : Fin 72) (buf : BufId) : GoesOn (execBufferScrub p buf s) := by
  unfold execBufferScrub
  refine .test (.next _) ?_
  dsimp only
  split
  · exact .next _
  · exact .test (.next _) (.next _)

theorem execFlashPollTick_goesOn (q : Fin 8) (cqes : List NvmeCqe) : GoesOn (execFlashPollTick q cqes s) := by
  unfold execFlashPollTick
  refine .test (.next _) ?_
  dsimp only
  split <;> exact .next _

theorem execMbFromCoreWrite_goesOn (msg : Option Word) : GoesOn (execMbFromCoreWrite msg s) := by
  unfold execMbFromCoreWrite
  refine .test (.next _) ?_
  split <;> exact .next _


/-- Every command but a register access goes on. -/
theorem exec_goesOn (c : Instr) (hr : ∀ off, c ≠ .rcRegisterRead off) (hw : ∀ off v, c ≠ .registerWrite off v) :
    GoesOn (exec c s) := by
  cases c with
  | rcRegisterRead off => exact absurd rfl (hr off)
  | registerWrite off v => exact absurd rfl (hw off v)
  -- One test chooses between two next states.
  | cmdFetchErr | cqEnable | cqDoorbellWrite | rstFenWrite | startupClockLock | fuseLoad | startupBist | spareMapBuild
  | rankFenceExpiry | rankDrainEnd | rankWakeDone | ckPllLockLoss | clockSwitchDone | tempoGenLockLoss | railStaleTimeout
  | heronUpdate | ringHoldTimeout | lodeGenStep | snapshotDrainComplete | fenFenceEnd | fenDrainEnd | frameSlotTransmit
  | nakRepeat | echoInterval | heartbeatLossTimeout => exact .test (.next _) (.next _)
  -- Two tests and more.
  | nop | stretchWindowEnd => exact .test (.next _) (.test (.next _) (.next _))
  | demoteWritebackDone => exact .test (.next _) (.test (.next _) (.test (.next _) (.next _)))
  | promotionExtentComplete => exact .test (.next _) (.test (.test (.next _) (.next _)) (.next _))
  -- One match, each of whose cases answers a next state.
  | compareDone | demoteProceed | demoteTimeout | fenResetEnd | warmResetEnd | domainPowerUpDone | mbDataAccess
  | stalemateDetect | twinMissingTimeout | flashSlowTimeout | heartbeatTimer | queryRecordWritten | tierEngineResetEnd
  | causewayResetEnd =>
    simp only [exec, execCompareDone, execDemoteProceed, execDemoteTimeout, execFenResetEnd, execWarmResetEnd,
      execDomainPowerUpDone, execMbDataAccess, execStalemateDetect, execTwinMissingTimeout, execFlashSlowTimeout,
      execHeartbeatTimer, execQueryRecordWritten, execTierEngineResetEnd, execCausewayResetEnd]
    split <;> exact .next _
  -- Matches and tests mixed, each with its lemma above.
  | planImageFetched img => exact execPlanImageFetched_goesOn s img
  | restoreLoadDone => exact execRestoreLoadDone_goesOn s
  | lodeDescriptorFetched l desc => exact execLodeDescriptorFetched_goesOn s l desc
  | fenPowerTransitionDone p b => exact execFenPowerTransitionDone_goesOn s p b
  | flashExtentIssue o => exact execFlashExtentIssue_goesOn s o
  | replayTimeout c lane => exact execReplayTimeout_goesOn s c lane
  | stateMoveTierWriteDone sid => exact execStateMoveTierWriteDone_goesOn s sid
  | statePortTransferDone p badRows => exact execStatePortTransferDone_goesOn s p badRows
  | statePortTransferStart p => exact execStatePortTransferStart_goesOn s p
  | lodeTransferIssue l => exact execLodeTransferIssue_goesOn s l
  | lodeTransferComplete l ret => exact execLodeTransferComplete_goesOn s l ret
  | fwCheckDone => exact execFwCheckDone_goesOn s
  | fatalError cause => exact execFatalError_goesOn s cause
  | tempoBoundaryDue => exact execTempoBoundaryDue_goesOn s
  | boundaryActions => exact execBoundaryActions_goesOn s
  | stateScrub p array => exact execStateScrub_goesOn s p array
  | bufferScrub p buf => exact execBufferScrub_goesOn s p buf
  | flashPollTick q cqes => exact execFlashPollTick_goesOn s q cqes
  | mbFromCoreWrite msg => exact execMbFromCoreWrite_goesOn s msg
  -- The others are next states as they stand.
  | _ => exact .next _

end

/-! ## The register accesses -/

theorem execRcRegisterRead_outcome (off : BitVec 20) (s : State) :
    GoesOn (execRcRegisterRead off s) ∨
      (execRcRegisterRead off s = .fault .fabricProtocolViolation ∧ off.toNat % 4 ≠ 0) := by
  unfold execRcRegisterRead
  dsimp only
  split
  · next h => exact .inr ⟨rfl, h⟩
  · exact .inl (.test (.next _) (.next _))

theorem execRegisterWrite_outcome (off : BitVec 20) (v : Word) (s : State) :
    GoesOn (execRegisterWrite off v s) ∨
      (execRegisterWrite off v s = .fault .fabricProtocolViolation ∧ off.toNat % 4 ≠ 0) := by
  unfold execRegisterWrite
  dsimp only
  split
  · next h => exact .inr ⟨rfl, h⟩
  · exact .inl (.next _)

/-- Settles O6: the two register accesses stop where they are misaligned, and every other command goes on. -/
theorem onlyMisalignedAccessStops : Obligations.OnlyMisalignedAccessStops := by
  intro c s
  by_cases hr : ∃ off, c = .rcRegisterRead off
  · obtain ⟨off, rfl⟩ := hr
    exact (execRcRegisterRead_outcome off s).imp id fun ⟨h, ha⟩ => ⟨h, .inl ⟨off, rfl, ha⟩⟩
  by_cases hw : ∃ off v, c = .registerWrite off v
  · obtain ⟨off, v, rfl⟩ := hw
    exact (execRegisterWrite_outcome off v s).imp id fun ⟨h, ha⟩ => ⟨h, .inr ⟨off, v, rfl, ha⟩⟩
  · exact .inl (exec_goesOn s c (fun off h => hr ⟨off, h⟩) fun off v h => hw ⟨off, v, h⟩)

/-- Settles O7: both accesses test the alignment first. -/
theorem misalignedAccessFaults : Obligations.MisalignedAccessFaults := by
  intro off v s h
  exact ⟨if_pos h, if_pos h⟩

end Sys2Proof.Machine

/-! # Register reads (O29) -/

namespace Sys2Proof.Machine

/-! ## Offsets of a fen window -/

theorem fenAt_eq_some {off p o : Nat} (h : fenAt off = some (p, o)) : off = fenWin p o ∧ p < 72 ∧ o < 0x1000 := by
  unfold fenAt at h
  split at h
  · simp only [Option.some.injEq, Prod.mk.injEq] at h
    unfold fenWin
    omega
  · exact nomatch h

theorem fenAt_fenWin {p o : Nat} (hp : p < 72) (ho : o < 0x1000) : fenAt (fenWin p o) = some (p, o) := by
  unfold fenAt fenWin
  rw [if_pos (by omega)]
  congr 2 <;> omega

theorem fenAt_eq_none {off : Nat} (h : off < 0x10000) : fenAt off = none := if_neg (by omega)

/-! ## An access to the window (R589, R590) -/

section

variable {off p o : Nat} {miss use : State → State} {s : State}

theorem fenAccess_answers (hr : (fenOf s p).resetUntil = none) (ha : (fenAlways o || fenAnswers (fenOf s p)) = true) :
    fenAccess p o miss use s = use s := by
  simp only [fenAccess, hr, ha, if_true]

theorem access_outside (h : fenAt off = none) : access off miss use s = use s := by
  simp only [access, h]

theorem access_answers (h : Answers off s) : access off miss use s = use s := by
  cases hf : fenAt off with
  | none => exact access_outside hf
  | some x =>
    obtain ⟨hr, ha⟩ := h x.1 x.2 hf
    simp only [access, hf]
    exact fenAccess_answers hr ha

/-- A register that does not answer: the access is counted and does no more than `miss`. -/
theorem access_silent (hf : fenAt off = some (p, o)) (hr : (fenOf s p).resetUntil = none) (hk : fenAlways o = false)
    (ha : fenAnswers (fenOf s p) = false) : access off miss use s = bump 0x20 1 (miss s) := by
  simp [access, fenAccess, hf, hr, hk, ha]

theorem fenReset_resetUntil (p : Nat) (s : State) : (fenOf (fenReset p s) p).resetUntil = none := by
  unfold fenReset tilesInvalid
  rw [fenOf_modFen_same]
  dsimp only
  unfold fenClear
  exact congrArg Fen.resetUntil (fenOf_putFen_same ..)

/-- An access that waits for a reset's end is one on the state after it. -/
theorem access_inReset {e : Nat} (hf : fenAt off = some (p, o)) (hr : (fenOf s p).resetUntil = some e) :
    access off miss use s = access off miss use (fenReset p (advanceCk e s)) := by
  simp only [access, hf, fenAccess, hr, fenReset_resetUntil]

end

/-! ## Counters -/

theorem satCount_zero (v : Word) : satCount v 0 = v := by
  unfold satCount
  apply BitVec.eq_of_toNat_eq
  have := v.isLt
  simp only [BitVec.toNat_ofNat]
  omega

theorem satCount_satCount (v : Word) (m n : Nat) : satCount (satCount v m) n = satCount v (m + n) := by
  unfold satCount
  congr 1
  simp only [BitVec.toNat_ofNat]
  omega

theorem reg_bump_same (off n : Nat) (s : State) : reg (bump off n s) off = satCount (reg s off) n := by
  rw [reg_bump, if_pos rfl]
  split
  · next h => rw [h, satCount_zero]
  · rfl

theorem reg_bump_ne {off o : Nat} (n : Nat) (s : State) (h : o ≠ off) : reg (bump off n s) o = reg s o := by
  rw [reg_bump, if_neg h]

/-! ## SEQ_STALL up to the present CK -/

theorem countStall_notWaiting {p : Nat} {s : State} (h : (fenOf s p).seq.st ≠ .waiting) : countStall p s = s := if_neg h

theorem countStall_out (p : Nat) (s : State) : (countStall p s).out = s.out := by
  unfold countStall
  split
  · simp [fenBump, setFenReg]
  · rfl

theorem reg_countStall_same {p : Nat} {s : State} (h : (fenOf s p).seq.st = .waiting) :
    reg (countStall p s) (fenWin p 0xA08) = satCount (reg s (fenWin p 0xA08)) (s.ck - (fenOf s p).seq.stallFrom) := by
  unfold countStall
  rw [if_pos h]
  dsimp only
  rw [fenBump, reg_bump_same, setFenReg, reg_setReg_same, satCount_satCount, fenReg]
  congr 1
  omega

theorem reg_countStall_ne {p o : Nat} (s : State) (h : o ≠ fenWin p 0xA08) : reg (countStall p s) o = reg s o := by
  unfold countStall
  split
  · rw [fenBump, reg_bump_ne _ _ h, setFenReg, reg_setReg_ne _ _ _ _ h, reg_modFen]
  · rfl

/-- A clear-on-read register is brought up to the present CK by counting a stall, or as it is. -/
theorem countedTo_cases (off : Nat) (s : State) :
    (∃ p, off = fenWin p 0xA08 ∧ countedTo off s = countStall p s) ∨ countedTo off s = s := by
  unfold countedTo
  split
  · next p o h =>
    split
    · next ho => exact .inl ⟨p, ho ▸ (fenAt_eq_some h).1, rfl⟩
    · exact .inr rfl
  · exact .inr rfl

theorem countedTo_stall {off p : Nat} (h : fenAt off = some (p, 0xA08)) (s : State) : countedTo off s = countStall p s := by
  simp [countedTo, h]

theorem countedTo_out (off : Nat) (s : State) : (countedTo off s).out = s.out := by
  obtain ⟨p, -, h⟩ | h := countedTo_cases off s <;> rw [h]
  exact countStall_out p s

theorem reg_countedTo_ne {off o : Nat} (s : State) (h : o ≠ off) : reg (countedTo off s) o = reg s o := by
  obtain ⟨p, ho, hc⟩ | hc := countedTo_cases off s <;> rw [hc]
  exact reg_countStall_ne s (ho ▸ h)

theorem countedTo_notWaiting {off : Nat} {s : State}
    (h : ∀ p o, fenAt off = some (p, o) → o = 0xA08 → (fenOf s p).seq.st ≠ .waiting) : countedTo off s = s := by
  unfold countedTo
  split
  · next p o hf =>
    split
    · next ho => exact countStall_notWaiting (h p o hf ho)
    · rfl
  · rfl

/-! ## The clearing read (R11, R12) -/

/-- What a read of a clear-on-read register that answers does to the state `u` that is brought up to the present CK. -/
def clearingRead (o : Nat) (u : State) : State :=
  heronCleared o (beforeEvents u o) (clearRead o (emit (.readValue o (beforeEvents u o)) u))

theorem exec_rcRegisterRead {off : BitVec 20} (ha : off.toNat % 4 = 0) (hrc : isRc off.toNat = true) (s : State) :
    exec (.rcRegisterRead off) s =
      .next (access off.toNat (emit (.readValue off.toNat 0#32)) (fun s => clearingRead off.toNat (countedTo off.toNat s)) s) := by
  show execRcRegisterRead off s = _
  simp only [execRcRegisterRead, ha, hrc]
  rfl

theorem exec_rcRegisterRead_other {off : BitVec 20} (ha : off.toNat % 4 = 0) (hrc : isRc off.toNat = false) (s : State) :
    exec (.rcRegisterRead off) s = .next s := by
  show execRcRegisterRead off s = _
  simp [execRcRegisterRead, ha, hrc]

theorem clearRead_eq (off : Nat) (s : State) :
    clearRead off s = { s with regs := (clearRead off s).regs, events := (clearRead off s).events } := by
  unfold clearRead
  dsimp only
  split <;> rfl

theorem clearingRead_out (o : Nat) (u : State) : (clearingRead o u).out = u.out ++ [.readValue o (beforeEvents u o)] :=
  clearRead_out

theorem reg_clearingRead (o k : Nat) (u : State) :
    reg (clearingRead o u) k = if k = o then survivors u o else reg u k :=
  reg_clearRead o k _

theorem clearingRead_frame (o : Nat) (u : State) :
    clearingRead o u = { u with
      regs := (clearingRead o u).regs, events := (clearingRead o u).events, out := (clearingRead o u).out
      heron := (clearingRead o u).heron } := by
  unfold clearingRead heronCleared heronForget modHeron
  rw [clearRead_eq]
  rfl

/-- A register that no event of the MK cycle has changed is read as it stands and left 0. -/
theorem beforeEvents_survivors_of_none {s : State} {off : Nat} (h : eventsOf s off = none) :
    beforeEvents s off = reg s off ∧ survivors s off = 0#32 := by
  simp [beforeEvents, survivors, h]

/-- No register that PD_CTRL holds is clear-on-read. -/
theorem fenAlways_of_isRc {off p o : Nat} (hf : fenAt off = some (p, o)) (h : isRc off = true) : fenAlways o = false := by
  have hmem : o ∈ rcFen := by simpa [isRc, hf] using h
  have hnone : ∀ o ∈ rcFen, fenAlways o = false := by decide
  exact hnone o hmem

/-! ## Sampled sets -/

theorem readReg_fenWin {p o : Nat} {s : State} (hp : p < 72) (ho : o < 0x1000) (hs : o ≠ 0x41C)
    (ha : fenAnswers (fenOf s p) = true) : readReg s (fenWin p o) = fenView s p o := by
  simp [readReg, fenAt_fenWin hp ho, ha, hs]

/-- A read of COUNT_CUR that answers: COUNT_OLD of the same counter is sampled (R415). -/
def countSampled (p : Nat) (s : State) : State :=
  let x := counterOf (fenOf s p) (bitsOf (fenReg s p 0xB1C) 7 0)
  emit (.readValue (fenWin p 0xB20) (countCur x)) (modFen p (fun f => { f with countOldSample := countOld x }) s)

theorem exec_countCurSample {p : Fin 72} {s : State} (h : Answers (fenWin p.val 0xB20) s) :
    exec (.countCurSample p) s = .next (countSampled p.val s) := by
  obtain ⟨hr, ha⟩ := h _ _ (fenAt_fenWin p.isLt (by decide))
  exact congrArg Host.Outcome.next (fenAccess_answers hr ha)

theorem fenOf_countSampled_same (p : Nat) (s : State) : fenOf (countSampled p s) p = { fenOf s p with
    countOldSample := countOld (counterOf (fenOf s p) (bitsOf (fenReg s p 0xB1C) 7 0)) } := by
  simp only [countSampled, fenOf_emit, fenOf_modFen_same]

theorem fenOf_countSampled_ne {p k : Nat} (s : State) (h : k ≠ p) : fenOf (countSampled p s) k = fenOf s k := by
  simp only [countSampled, fenOf_emit, fenOf_modFen_ne _ _ _ _ h]

theorem readReg_countSampled {p : Nat} {s : State} (hp : p < 72) (ha : fenAnswers (fenOf s p) = true) :
    readReg (countSampled p s) (fenWin p 0xB24) = countOld (counterOf (fenOf s p) (bitsOf (fenReg s p 0xB1C) 7 0)) := by
  have hf := fenOf_countSampled_same p s
  rw [readReg_fenWin hp (by decide) (by decide) (by rw [hf]; exact ha)]
  exact congrArg Fen.countOldSample hf

/-- A read of a pair's low word latches the high word for the next offset (Table 16-3). -/
theorem execLatchedPairRead_latched {n : Nat} (pair : LatchPair) (off k : Nat) (v : BitVec n) (s : State)
    (hp : pairOf s pair = (off, k, v.setWidth 32, (v >>> 32).setWidth 32))
    (hr : ∀ t : State, readReg t (off + 4) = mapGet 0#32 t.latch k) :
    PairLatched (exec (.latchedPairRead pair) s) off v s := by
  refine ⟨_, rfl, ?_, ?_, rfl⟩
  · show s.out ++ [.readValue (pairOf s pair).1 (pairOf s pair).2.2.1] = _
    rw [hp]
  · rw [hr]
    simp [hp]

/-- Settles O29: the clearing read, the latched pairs and the two sampled sets, by their lemmas above. -/
theorem registerReads : Obligations.RegisterReads := by
  refine ⟨fun off s ha => ⟨exec_rcRegisterRead_other ha (s := s), fun hrc hans => ?clears, fun p o hrc hf hr hoff => ?silent,
    fun p o e hf hr hrc => ?inReset⟩, fun s => ⟨?tempo, ?snapTempo, ?snapDigest, ?twinTempo⟩,
    fun s => ⟨_, rfl, rfl, fun k hk => ?lodeWords, rfl⟩, fun p s hans => ?countCur⟩
  case clears =>
    refine ⟨_, (exec_rcRegisterRead ha hrc s).trans (congrArg _ (access_answers hans)), ?_, ?_, fun o ho => ?_,
      beforeEvents_survivors_of_none, clearingRead_frame _ _, ?_, countedTo_notWaiting⟩
    · rw [clearingRead_out, countedTo_out]
    · rw [reg_clearingRead, if_pos rfl]
    · rw [reg_clearingRead, if_neg ho, reg_countedTo_ne s ho]
    · rintro p o hf rfl hw -
      rw [countedTo_stall hf, (fenAt_eq_some hf).1, reg_countStall_same hw]
  case silent => rw [exec_rcRegisterRead ha hrc, access_silent hf hr (fenAlways_of_isRc hf hrc) hoff]
  case inReset => rw [exec_rcRegisterRead ha hrc, exec_rcRegisterRead ha hrc, access_inReset hf hr]
  case tempo => exact execLatchedPairRead_latched .tempo 0x1010 0 _ s rfl fun _ => rfl
  case snapTempo => exact execLatchedPairRead_latched .snapTempo 0x218 1 _ s rfl fun _ => rfl
  case snapDigest => exact execLatchedPairRead_latched .snapDigest 0x220 2 _ s rfl fun _ => rfl
  case twinTempo => exact execLatchedPairRead_latched .twinTempo 0x248 3 _ s rfl fun _ => rfl
  case lodeWords =>
    obtain rfl | rfl | rfl | rfl : k = 0 ∨ k = 1 ∨ k = 2 ∨ k = 3 := by omega
    all_goals rfl
  case countCur =>
    obtain ⟨-, ha⟩ := hans _ _ (fenAt_fenWin p.isLt (by decide))
    exact ⟨_, exec_countCurSample hans, rfl, readReg_countSampled p.isLt ha, fun k hk => fenOf_countSampled_ne s hk, rfl⟩

end Sys2Proof.Machine

/-! # Register writes (O30) -/

namespace Sys2Proof.Machine

/-! ## Fields of a written value (R14) -/

/-- Two words agree on the bits from `lo` to `hi`. -/
def AgreeOn (hi lo : Nat) (x y : Word) : Prop := ∀ i, lo ≤ i → i ≤ hi → x.getLsbD i = y.getLsbD i

theorem AgreeOn.bitsOf_eq {hi lo : Nat} {x y : Word} (h : AgreeOn hi lo x y) : bitsOf x hi lo = bitsOf y hi lo := by
  unfold bitsOf
  refine Nat.eq_of_testBit_eq fun i => ?_
  rw [Nat.testBit_mod_two_pow, Nat.testBit_mod_two_pow, Nat.testBit_div_two_pow, Nat.testBit_div_two_pow]
  by_cases hi' : i < hi + 1 - lo
  · rw [show x.toNat.testBit (i + lo) = y.toNat.testBit (i + lo) from h (i + lo) (by omega) (by omega)]
  · simp [hi']

/-- A word whose bits a mask takes from one of two words. -/
theorem mux_getLsbD (m x y : Word) (i : Nat) :
    ((x &&& ~~~m) ||| (y &&& m)).getLsbD i = if m.getLsbD i then y.getLsbD i else x.getLsbD i := by
  by_cases h : i < 32
  · rw [BitVec.getLsbD_or, BitVec.getLsbD_and, BitVec.getLsbD_and, BitVec.getLsbD_not, decide_eq_true h]
    cases m.getLsbD i <;> simp
  · simp [BitVec.getLsbD_of_ge _ _ (Nat.le_of_not_lt h)]

theorem AgreeOn.refl (hi lo : Nat) (x : Word) : AgreeOn hi lo x x := fun _ _ _ => rfl

theorem AgreeOn.mux {hi lo : Nat} {old x y : Word} (m : Word) (hx : AgreeOn hi lo x old) (hy : AgreeOn hi lo y old) :
    AgreeOn hi lo ((x &&& ~~~m) ||| (y &&& m)) old := by
  intro i hlo hhi
  rw [mux_getLsbD]
  split
  · exact hy i hlo hhi
  · exact hx i hlo hhi

/-- The mask of the bits from `lo` to `hi`. -/
theorem fieldMask_getLsbD {hi lo i : Nat} (hlo : lo ≤ i) (hhi : i ≤ hi) (hi' : i < 32) :
    (BitVec.ofNat 32 ((2 ^ (hi + 1 - lo) - 1) * 2 ^ lo)).getLsbD i = true := by
  rw [BitVec.getLsbD_ofNat, Nat.testBit_mul_two_pow, Nat.testBit_two_pow_sub_one]
  simp
  omega

/-- A field taken from `old` agrees with it. -/
theorem agreeOn_fieldMask (hi lo : Nat) (old x : Word) :
    let m := BitVec.ofNat 32 ((2 ^ (hi + 1 - lo) - 1) * 2 ^ lo)
    AgreeOn hi lo ((x &&& ~~~m) ||| (old &&& m)) old := by
  intro m i hlo hhi
  by_cases hi' : i < 32
  · rw [mux_getLsbD, if_pos (fieldMask_getLsbD hlo hhi hi')]
  · simp [BitVec.getLsbD_of_ge _ _ (Nat.le_of_not_lt hi')]

theorem fixEnums_clean {old v : Word} :
    ∀ {l : List (Nat × Nat × Nat × Nat)}, (fixEnums old l v).2 = false → (fixEnums old l v).1 = v
  | [], _ => rfl
  | (hi, lo, a, b) :: l, h => by
    unfold fixEnums at h ⊢
    dsimp only at h ⊢
    split at h
    · next hr => rw [if_pos hr]; exact fixEnums_clean h
    · exact nomatch h

/-- A field that the value gives a reserved value keeps its value, and the write is one to be logged. -/
theorem fixEnums_reserved {old v : Word} {hi lo a b : Nat} (hr : ¬(a ≤ bitsOf v hi lo ∧ bitsOf v hi lo ≤ b)) :
    ∀ {l : List (Nat × Nat × Nat × Nat)}, (hi, lo, a, b) ∈ l →
      (fixEnums old l v).2 = true ∧ AgreeOn hi lo (fixEnums old l v).1 old
  | (hi', lo', a', b') :: l, hm => by
    unfold fixEnums
    dsimp only
    rcases List.mem_cons.mp hm with he | hm
    · cases he
      rw [if_neg hr]
      exact ⟨rfl, agreeOn_fieldMask hi lo old _⟩
    · obtain ⟨hlog, hagree⟩ := fixEnums_reserved hr hm
      split
      · exact ⟨hlog, hagree⟩
      · exact ⟨rfl, hagree.mux _ (.refl hi lo old)⟩

/-! ## A plain write by the register's form (R11 to R13) -/

theorem logReserved_log {s : State} (off : Nat) (v : Word) (h : s.log.length < 256) :
    ∃ e, (logReserved off v s).log = s.log ++ [e] ∧ e.kind = 0x0001 := by
  unfold logReserved logAdd lkReserved
  simp only [Bool.false_eq_true, if_false, if_neg (Nat.not_le_of_lt h)]
  exact ⟨_, rfl, rfl⟩

/-- The state in which a write has been logged, where it gives some field a reserved value. -/
def loggedWrite (off : Nat) (old : Word) (f : RegForm) (v : Word) (s : State) : State :=
  if (fixEnums old f.enums v).2 then logReserved off v s else s

/-- The value that a write of an RW or RWS register leaves. -/
def mergedValue (old : Word) (f : RegForm) (v : Word) : Word := (old &&& ~~~f.mask) ||| ((fixEnums old f.enums v).1 &&& f.mask)

theorem loggedWrite_clean {off : Nat} {old v : Word} {f : RegForm} {s : State} (h : (fixEnums old f.enums v).2 = false) :
    loggedWrite off old f v s = s := by
  simp [loggedWrite, h]

theorem mergedValue_clean {old v : Word} {f : RegForm} (h : (fixEnums old f.enums v).2 = false) :
    mergedValue old f v = (old &&& ~~~f.mask) ||| (v &&& f.mask) := by
  rw [mergedValue, fixEnums_clean h]

theorem loggedWrite_shadow (off : Nat) (old : Word) (f : RegForm) (v : Word) (s : State) :
    (loggedWrite off old f v s).shadow = s.shadow := by
  unfold loggedWrite logReserved
  split <;> simp

theorem writeReg_w1c {off : Nat} {f : RegForm} {v : Word} {s : State} (h : f.access = .w1c) :
    writeReg off f v s = setReg off (reg s off &&& ~~~(v &&& f.mask &&& ~~~survivors s off)) s := by
  simp [writeReg, writeForm, h]

theorem writeReg_rw {off : Nat} {f : RegForm} {v : Word} {s : State} (h : f.access = .rw) :
    writeReg off f v s = setReg off (mergedValue (reg s off) f v) (loggedWrite off (reg s off) f v s) := by
  simp [writeReg, writeForm, h, mergedValue, loggedWrite]

/-- The state with an RWS register's shadow copy set. -/
def setShadow (off : Nat) (v : Word) (s : State) : State := { s with shadow := filePut s.shadow off v }

theorem fileGet_setShadow (off o : Nat) (v : Word) (s : State) :
    fileGet (setShadow off v s).shadow o = if o = off then v else fileGet s.shadow o :=
  fileGet_filePut ..

theorem writeReg_rws {off : Nat} {f : RegForm} {v : Word} {s : State} (h : f.access = .rws) :
    writeReg off f v s =
      setShadow off (mergedValue (fileGet s.shadow off) f v) (loggedWrite off (fileGet s.shadow off) f v s) := by
  simp [writeReg, writeForm, h, mergedValue, loggedWrite, setShadow]

/-- A field that the value gives a reserved value is merged as it was. -/
theorem mergedValue_field {old v : Word} {f : RegForm} {hi lo a b : Nat} (hm : (hi, lo, a, b) ∈ f.enums)
    (hr : ¬(a ≤ bitsOf v hi lo ∧ bitsOf v hi lo ≤ b)) : bitsOf (mergedValue old f v) hi lo = bitsOf old hi lo :=
  ((AgreeOn.refl hi lo old).mux _ (fixEnums_reserved hr hm).2).bitsOf_eq

theorem loggedWrite_reserved {off : Nat} {old v : Word} {f : RegForm} {s : State} {hi lo a b : Nat}
    (hm : (hi, lo, a, b) ∈ f.enums) (hr : ¬(a ≤ bitsOf v hi lo ∧ bitsOf v hi lo ≤ b)) :
    loggedWrite off old f v s = logReserved off v s :=
  if_pos (fixEnums_reserved hr hm).1

/-- No W1C register has an enumerated field. -/
theorem enums_of_w1c {off : Nat} {f : RegForm} (hf : formOf off = some f) (h : f.access = .w1c) : f.enums = [] := by
  have htab : ∀ x ∈ fenForms ++ cwForms ++ rwsForms ++ blockForms, x.2.access = .w1c → x.2.enums = [] := by decide
  have hfind : ∀ {m : SMap RegForm} {o : Nat}, (m.find? fun x => decide (x.1 = o)).map (·.2) = some f → ∃ k, (k, f) ∈ m := by
    intro m o hm
    obtain ⟨x, hx, rfl⟩ := Option.map_eq_some_iff.mp hm
    exact ⟨x.1, List.mem_of_find?_eq_some hx⟩
  obtain ⟨k, hk⟩ : ∃ k, (k, f) ∈ fenForms ++ cwForms ++ rwsForms ++ blockForms := by
    simp only [List.mem_append]
    unfold formOf at hf
    dsimp only at hf
    split at hf
    · exact (hfind hf).imp fun _ hk => .inl (.inl (.inl hk))
    · split at hf
      · exact (hfind hf).imp fun _ hk => .inl (.inl (.inr hk))
      · split at hf
        · next g hg =>
          cases hf
          exact (hfind hg).imp fun _ hk => .inl (.inr hk)
        · exact (hfind hf).imp fun _ hk => .inr hk
  exact htab _ hk h

/-! ## Offsets without a form -/

/-- The offsets of the block sections that take a plain write. -/
def formKeys : List Nat := (rwsForms ++ blockForms).map (·.1)

theorem formOf_eq_none {off : Nat} (hfen : off < 0x10000) (hcw : ¬(0x8000 ≤ off ∧ off < 0xB000)) (hk : off ∉ formKeys) :
    formOf off = none := by
  have hfind : ∀ {m : SMap RegForm}, (∀ x ∈ m, x ∈ rwsForms ++ blockForms) → m.find? (fun x => decide (x.1 = off)) = none := by
    intro m hm
    rw [List.find?_eq_none]
    intro x hx hoff
    exact hk (List.mem_map.mpr ⟨x, hm x hx, of_decide_eq_true hoff⟩)
  unfold formOf
  rw [fenAt_eq_none hfen]
  dsimp only
  rw [if_neg hcw, hfind fun x hx => List.mem_append_left _ hx, hfind fun x hx => List.mem_append_right _ hx]
  rfl

/-- No register of a queue and no staging word of OBJ_CMD takes a plain write. -/
theorem formOf_queue {q o : Nat} (hq : q < 16) (ho : o < 0x40) : formOf (cqWin q o) = none := by
  have hk : ∀ k ∈ formKeys, k < 0x2000 ∨ 0x2400 ≤ k := by decide
  refine formOf_eq_none ?_ ?_ fun h => ?_
  · unfold cqWin; omega
  · unfold cqWin; omega
  · have := hk _ h
    unfold cqWin at this
    omega

theorem formOf_staging {k : Nat} (hk : k < 12) : formOf (0x6080 + 4 * k) = none := by
  have hkeys : ∀ k ∈ formKeys, k < 0x6080 ∨ 0x60B0 ≤ k := by decide
  refine formOf_eq_none (by omega) (by omega) fun h => ?_
  have := hkeys _ h
  omega

/-- What a write does that reaches a register without a form. -/
def formlessWrite (o : Nat) (v : Word) (s : State) : State :=
  if o = 0x204 then writeSnapStatus v s
  else if o = 0x601C then writeStaleInfo v s
  else if 0x6080 ≤ o ∧ o < 0x60B0 then { s with objStage := mapPut 0#32 s.objStage ((o - 0x6080) / 4) v }
  else if 0x2000 ≤ o ∧ o < 0x2400 then writeQueue ((o - 0x2000) / 0x40) (o % 0x40) v s
  else if o = 0xD000 ∨ o = 0x6064 then writeIdleCmd o v s
  else s

theorem formlessWrite_staging {k : Nat} (hk : k < 12) (v : Word) (s : State) :
    formlessWrite (0x6080 + 4 * k) v s = { s with objStage := mapPut 0#32 s.objStage k v } := by
  unfold formlessWrite
  rw [if_neg (by omega), if_neg (by omega), if_pos (by omega), show (0x6080 + 4 * k - 0x6080) / 4 = k by omega]

theorem formlessWrite_queue {q o : Nat} (hq : q < 16) (ho : o < 0x40) (v : Word) (s : State) :
    formlessWrite (cqWin q o) v s = writeQueue q o v s := by
  unfold formlessWrite cqWin
  rw [if_neg (by omega), if_neg (by omega), if_neg (by omega), if_pos (by omega),
    show (0x2000 + 0x40 * q + o - 0x2000) / 0x40 = q by omega, show (0x2000 + 0x40 * q + o) % 0x40 = o by omega]

/-! ## REGISTER_WRITE -/

section

variable {off : BitVec 20} {o : Nat} {v : Word} {s : State}

theorem answers_of_lt (h : o < 0x10000) : Answers o s := by
  intro p k hf
  rw [fenAt_eq_none h] at hf
  exact nomatch hf

theorem exec_registerWrite_form {f : RegForm} (ha : off.toNat % 4 = 0) (hans : Answers off.toNat s)
    (hf : formOf off.toNat = some f) : exec (.registerWrite off v) s = .next (writeReg off.toNat f v s) := by
  show execRegisterWrite off v s = _
  unfold execRegisterWrite
  dsimp only
  rw [if_neg (by omega), access_answers hans, hf]

theorem exec_registerWrite_formless (ho : off.toNat = o) (ha : o % 4 = 0) (hans : Answers o s) (hf : formOf o = none) :
    exec (.registerWrite off v) s = .next (formlessWrite o v s) := by
  subst ho
  show execRegisterWrite off v s = _
  unfold execRegisterWrite
  dsimp only
  rw [if_neg (by omega), access_answers hans, hf]
  rfl

/-- A register of a block section that takes no plain write. -/
theorem exec_registerWrite_block (ho : off.toNat = o) (ha : o % 4 = 0) (hlt : o < 0x10000) (hf : formOf o = none) :
    exec (.registerWrite off v) s = .next (formlessWrite o v s) :=
  exec_registerWrite_formless ho ha (answers_of_lt hlt) hf

theorem exec_registerWrite_silent {p k : Nat} (ha : off.toNat % 4 = 0) (hf : fenAt off.toNat = some (p, k))
    (hr : (fenOf s p).resetUntil = none) (hk : fenAlways k = false) (hoff : fenAnswers (fenOf s p) = false) :
    exec (.registerWrite off v) s = .next (bump 0x20 1 s) := by
  show execRegisterWrite off v s = _
  unfold execRegisterWrite
  dsimp only
  rw [if_neg (by omega), access_silent hf hr hk hoff]
  rfl

/-- A reserved value of some field: the write is logged, and the field keeps its value (R14). -/
theorem exec_registerWrite_reserved {f : RegForm} {hi lo a b : Nat} (ha : off.toNat % 4 = 0) (hans : Answers off.toNat s)
    (hf : formOf off.toNat = some f) (hm : (hi, lo, a, b) ∈ f.enums) (hr : bitsOf v hi lo < a ∨ b < bitsOf v hi lo) :
    ∃ t, exec (.registerWrite off v) s = .next t ∧ (s.log.length < 256 → ∃ e, t.log = s.log ++ [e] ∧ e.kind = 0x0001) ∧
      (f.access = .rw → bitsOf (reg t off.toNat) hi lo = bitsOf (reg s off.toNat) hi lo) ∧
      (f.access = .rws → bitsOf (fileGet t.shadow off.toNat) hi lo = bitsOf (fileGet s.shadow off.toNat) hi lo) := by
  have hr' : ¬(a ≤ bitsOf v hi lo ∧ bitsOf v hi lo ≤ b) := by omega
  refine ⟨_, exec_registerWrite_form ha hans hf, ?_⟩
  cases hacc : f.access with
  | w1c => rw [enums_of_w1c hf hacc] at hm; exact nomatch hm
  | rw =>
    rw [writeReg_rw hacc, loggedWrite_reserved hm hr', reg_setReg_same]
    exact ⟨logReserved_log _ v, fun _ => mergedValue_field hm hr', nofun⟩
  | rws =>
    rw [writeReg_rws hacc, loggedWrite_reserved hm hr', fileGet_setShadow, if_pos rfl]
    exact ⟨logReserved_log _ v, nofun, fun _ => mergedValue_field hm hr'⟩

theorem exec_registerWrite_w1c {f : RegForm} (ha : off.toNat % 4 = 0) (hans : Answers off.toNat s)
    (hf : formOf off.toNat = some f) (hacc : f.access = .w1c) : ∃ t, exec (.registerWrite off v) s = .next t ∧
      reg t off.toNat = reg s off.toNat &&& ~~~(v &&& f.mask &&& ~~~survivors s off.toNat) ∧
      (∀ o, o ≠ off.toNat → reg t o = reg s o) ∧ t = { s with regs := t.regs } := by
  refine ⟨_, exec_registerWrite_form ha hans hf, ?_⟩
  rw [writeReg_w1c hacc]
  exact ⟨reg_setReg_same .., fun o ho => reg_setReg_ne _ _ _ _ ho, rfl⟩

theorem exec_registerWrite_rw {f : RegForm} (ha : off.toNat % 4 = 0) (hans : Answers off.toNat s)
    (hf : formOf off.toNat = some f) (hacc : f.access = .rw) (hc : (fixEnums (reg s off.toNat) f.enums v).2 = false) :
    ∃ t, exec (.registerWrite off v) s = .next t ∧
      reg t off.toNat = (reg s off.toNat &&& ~~~f.mask) ||| (v &&& f.mask) ∧
      (∀ o, o ≠ off.toNat → reg t o = reg s o) ∧ t = { s with regs := t.regs } := by
  refine ⟨_, exec_registerWrite_form ha hans hf, ?_⟩
  rw [writeReg_rw hacc, loggedWrite_clean hc, mergedValue_clean hc]
  exact ⟨reg_setReg_same .., fun o ho => reg_setReg_ne _ _ _ _ ho, rfl⟩

theorem exec_registerWrite_rws {f : RegForm} (ha : off.toNat % 4 = 0) (hans : Answers off.toNat s)
    (hf : formOf off.toNat = some f) (hacc : f.access = .rws)
    (hc : (fixEnums (fileGet s.shadow off.toNat) f.enums v).2 = false) : ∃ t, exec (.registerWrite off v) s = .next t ∧
      fileGet t.shadow off.toNat = (fileGet s.shadow off.toNat &&& ~~~f.mask) ||| (v &&& f.mask) ∧
      (∀ o, o ≠ off.toNat → fileGet t.shadow o = fileGet s.shadow o) ∧ t = { s with shadow := t.shadow } := by
  refine ⟨_, exec_registerWrite_form ha hans hf, ?_⟩
  rw [writeReg_rws hacc, loggedWrite_clean hc, mergedValue_clean hc]
  exact ⟨(fileGet_setShadow ..).trans (if_pos rfl), fun o ho => (fileGet_setShadow ..).trans (if_neg ho), rfl⟩

theorem exec_registerWrite_queue {q k : Nat} (ho : off.toNat = cqWin q k) (ha : off.toNat % 4 = 0) (hq : q < 16)
    (hk : k < 0x40) : exec (.registerWrite off v) s = .next (writeQueue q k v s) := by
  rw [exec_registerWrite_block ho (ho ▸ ha) (by unfold cqWin; omega) (formOf_queue hq hk), formlessWrite_queue hq hk]

theorem exec_registerWrite_staging {k : Nat} (ho : off.toNat = 0x6080 + 4 * k) (hk : k < 12) :
    exec (.registerWrite off v) s = .next { s with objStage := mapPut 0#32 s.objStage k v } := by
  rw [exec_registerWrite_block ho (by omega) (by omega) (formOf_staging hk), formlessWrite_staging hk]

theorem exec_registerWrite_snapStatus (ho : off.toNat = 0x204) :
    exec (.registerWrite off v) s = .next (writeSnapStatus v s) :=
  exec_registerWrite_block ho (by decide) (by decide) rfl

theorem exec_registerWrite_staleInfo (ho : off.toNat = 0x601C) :
    exec (.registerWrite off v) s = .next (writeStaleInfo v s) :=
  exec_registerWrite_block ho (by decide) (by decide) rfl

theorem exec_registerWrite_mbCmd (ho : off.toNat = 0xD000) : exec (.registerWrite off v) s = .next (writeIdleCmd 0xD000 v s) :=
  exec_registerWrite_block ho (by decide) (by decide) rfl

theorem exec_registerWrite_objCmd (ho : off.toNat = 0x6064) : exec (.registerWrite off v) s = .next (writeIdleCmd 0x6064 v s) :=
  exec_registerWrite_block ho (by decide) (by decide) rfl

theorem writeStaleInfo_clears (hv : v.getLsbD 0 = true) (hk : (survivors s 0x601C).getLsbD 0 = false) :
    writeStaleInfo v s =
      setReg 0x601C 0#32 (setReg 0x6020 0#32 (setReg 0x6024 0#32 { s with staleSeen := [] })) :=
  if_pos ⟨hv, by rw [hk]; rfl⟩

theorem writeStaleInfo_keeps (h : v.getLsbD 0 = false ∨ (survivors s 0x601C).getLsbD 0 = true) : writeStaleInfo v s = s := by
  refine if_neg fun ⟨hv, hk⟩ => ?_
  rcases h with h | h
  · rw [hv] at h; exact nomatch h
  · rw [h] at hk; exact nomatch hk

/-- An offset that no row of the write names takes none. -/
theorem formlessWrite_none (hsnap : o ≠ 0x204) (hstale : o ≠ 0x601C) (hstage : o < 0x6080 ∨ 0x60B0 ≤ o)
    (hqueue : o < 0x2000 ∨ 0x2400 ≤ o) (hmb : o ≠ 0xD000) (hobj : o ≠ 0x6064) : formlessWrite o v s = s := by
  unfold formlessWrite
  rw [if_neg hsnap, if_neg hstale, if_neg (by omega), if_neg (by omega), if_neg (by omega)]

end

/-- Settles O30: a clause for each lemma of REGISTER_WRITE above. -/
theorem registerWrites : Obligations.RegisterWrites := by
  intro off v s ha
  refine ⟨fun f hf hans => ⟨exec_registerWrite_w1c ha hans hf, exec_registerWrite_rw ha hans hf,
      exec_registerWrite_rws ha hans hf, fun hi lo a b => exec_registerWrite_reserved ha hans hf⟩,
    fun q o _ ho hq hlt => ?queue, fun k ho hk => ?staging, fun p o => exec_registerWrite_silent ha,
    fun ho => ⟨_, exec_registerWrite_snapStatus ho, rfl, rfl⟩, fun ho hv hk => ?staleClears, fun ho h => ?staleKeeps,
    fun ho hv => ?mbNone, fun ho hv => ?mbReserved, fun ho hv => ?objReserved, fun q o ho hq hlo hlt => ?queueOther,
    fun hf hans hsnap hstale hstage hqueue hmb hobj => ?none⟩
  case queue =>
    rw [exec_registerWrite_queue ho ha hq (by omega), ho]
    have ho' : ¬0x10 ≤ o := by omega
    exact ⟨fun he => by simp [writeQueue, he], fun he => by simp [writeQueue, he, ho']⟩
  case staging =>
    exact ⟨_, exec_registerWrite_staging ho hk, mapGet_mapPut_same .., fun j hj => mapGet_mapPut_ne _ _ _ _ _ hj, rfl⟩
  case staleClears =>
    refine ⟨_, exec_registerWrite_staleInfo ho, ?_⟩
    rw [writeStaleInfo_clears hv hk]
    simp [reg_setReg]
  case staleKeeps => rw [exec_registerWrite_staleInfo ho, writeStaleInfo_keeps h]
  case mbNone =>
    refine ⟨_, exec_registerWrite_mbCmd ho, ?_⟩
    simp [writeIdleCmd, hv]
  case mbReserved =>
    rw [exec_registerWrite_mbCmd ho]
    have h0 : v.toNat % 16 ≠ 0 := by omega
    simp [writeIdleCmd, h0, hv]
  case objReserved =>
    rw [exec_registerWrite_objCmd ho]
    simp [writeIdleCmd, hv]
  case queueOther =>
    rw [exec_registerWrite_queue ho ha hq hlt]
    simp [writeQueue, hlo]
  case none =>
    rw [exec_registerWrite_formless rfl ha hans hf, formlessWrite_none hsnap hstale hstage hqueue hmb hobj]

end Sys2Proof.Machine

/-! # A committed set (O15) -/

namespace Sys2Proof.Machine

/-- What every step of a fold keeps and its step at a member brings about holds after the fold. -/
theorem foldl_reaches {α β : Type} {P : α → Prop} {f : α → β → α} {x : β} (hkeep : ∀ s y, P s → P (f s y))
    (hset : ∀ s, P (f s x)) {l : List β} (hx : x ∈ l) (s : α) : P (l.foldl f s) := by
  obtain ⟨a, b, rfl⟩ := List.append_of_mem hx
  rw [List.foldl_append, List.foldl_cons]
  exact foldl_keeps hkeep b _ (hset _)

/-- The state in which a fen's generators start from the seed that a set gives it (R79). -/
def reseeded (m : SMap (Option Word)) (s : State) (p : Nat) : State :=
  modFen p (fun f => { f with seed := fileGet m (fenWin p 0x41C), gens := [] }) s

/-- The state in which registers of a list hold what a set has for them. -/
def regsFrom (m : SMap (Option Word)) (l : List Nat) (s : State) : State :=
  l.foldl (fun s o => setReg o (fileGet m o) s) s

theorem applySet_eq (m : SMap (Option Word)) (s : State) :
    applySet m s = modPlant (fun x => { x with treeActive := decide (cfgBits m 0x100 0 0 = 1) })
      (regsFrom m rwsAll ((List.range 72).foldl (reseeded m) s)) := rfl

theorem reg_regsFrom (m : SMap (Option Word)) (o : Nat) (l : List Nat) (s : State) :
    reg (regsFrom m l s) o = if o ∈ l then fileGet m o else reg s o := by
  induction l generalizing s with
  | nil => rfl
  | cons k l ih =>
    rw [regsFrom, List.foldl_cons, ← regsFrom, ih, reg_setReg]
    by_cases hk : o = k <;> simp [hk]

theorem fenOf_regsFrom (m : SMap (Option Word)) (l : List Nat) (s : State) (p : Nat) :
    fenOf (regsFrom m l s) p = fenOf s p :=
  foldl_same (g := fun s => fenOf s p) (f := fun s o => setReg o (fileGet m o) s) (fun _ _ => rfl) l s

/-- The generators of a fen start from the seed that a set gives it. -/
def SeededBy (m : SMap (Option Word)) (p : Nat) (s : State) : Prop :=
  (fenOf s p).seed = fileGet m (fenWin p 0x41C) ∧ (fenOf s p).gens = []

theorem reseeded_same (m : SMap (Option Word)) (p : Nat) (s : State) : SeededBy m p (reseeded m s p) := by
  simp [SeededBy, reseeded]

theorem reseeded_keeps {m : SMap (Option Word)} {p : Nat} (s : State) (q : Nat) (h : SeededBy m p s) :
    SeededBy m p (reseeded m s q) := by
  by_cases hq : p = q
  · subst hq
    exact reseeded_same m p s
  · rw [SeededBy, reseeded, fenOf_modFen_ne _ _ _ _ hq]
    exact h

/-- Settles O15: the registers are set one by one and each fen is reseeded once; neither touches the other. -/
theorem committedSetIsInForce : Obligations.CommittedSetIsInForce := by
  intro m s o
  rw [applySet_eq]
  refine ⟨?regs, fun p hp => ?gens⟩
  case regs =>
    rw [reg_modPlant, reg_regsFrom, foldl_same (g := fun s => reg s o) (f := reseeded m) fun _ _ => rfl]
  case gens =>
    rw [fenOf_modPlant, fenOf_regsFrom]
    exact foldl_reaches (P := SeededBy m p) reseeded_keeps (reseeded_same m p) (List.mem_range.2 hp) s

end Sys2Proof.Machine

/-! # What the operations of one fen leave unchanged -/

namespace Sys2Proof.Machine

section

variable {p o : Nat} {s t u : State}

theorem FenOnly.refl (p : Nat) (s : State) : FenOnly p s s := ⟨rfl, fun _ _ => rfl, fun _ _ => rfl⟩

theorem FenOnly.trans (h : FenOnly p s t) (h' : FenOnly p t u) : FenOnly p s u := by
  obtain ⟨heq, hfen, hreg⟩ := h
  obtain ⟨heq', hfen', hreg'⟩ := h'
  refine ⟨?_, fun k hk => (hfen' k hk).trans (hfen k hk), fun off ho => (hreg' off ho).trans (hreg off ho)⟩
  rw [heq']
  exact congrArg (fun x : State => { x with fens := u.fens, regs := u.regs, events := u.events }) heq

theorem FenOnly.modFen (h : FenOnly p s t) (g : Fen → Fen) : FenOnly p s (modFen p g t) :=
  h.trans ⟨rfl, fun _ hk => fenOf_modFen_ne _ _ _ _ hk, fun _ _ => rfl⟩

theorem FenOnly.fenBump (h : FenOnly p s t) (ho : o < 0x1000) (n : Nat) : FenOnly p s (fenBump p o n t) := by
  refine h.trans ⟨?_, fun _ _ => fenOf_fenBump, fun off hoff => reg_bump_ne n t (hoff o ho)⟩
  unfold Machine.fenBump bump
  split <;> rfl

theorem FenOnly.countEv (h : FenOnly p s t) (e : NumEv) : FenOnly p s (countEv p e t) := by
  unfold Machine.countEv
  iterate 7 refine .fenBump ?_ (by decide) _
  exact h

theorem FenOnly.spend (h : FenOnly p s t) (n : Nat) : FenOnly p s (spend p n t) := h.modFen _

theorem FenOnly.addPend (h : FenOnly p s t) (w : PendWr) : FenOnly p s (addPend p w t) := h.modFen _

/-- What a counter of a fen's window holds after an event of the same window. -/
theorem reg_fenBump (p n o k : Nat) (s : State) :
    reg (fenBump p o n s) (fenWin p k) = if k = o then satCount (reg s (fenWin p k)) n else reg s (fenWin p k) := by
  split
  · next h => rw [h, fenBump, reg_bump_same]
  · next h => exact reg_bump_ne n s (by unfold fenWin; omega)

end

end Sys2Proof.Machine

/-! # Issue of a vector operation -/

namespace Sys2Proof.Machine

section

variable {p : Nat} {srcs : List Nat} {bad : Nat → Bool} {u : State}

/-- For each destination vector of a result, whether an active lane takes a mired input or has failed (R264, R284). -/
def takenMire (u : State) (p : Nat) (act : BitVec 256) (bad : Nat → Bool) : List (Option Bool) :=
  (List.range 8).map fun m => some ((List.range 32).any fun k =>
    act.getLsbD (32 * m + k) && (bad (32 * m + k) || laneBad u p false (32 * m + k)))

theorem vregWr_eq (u : State) (p : Nat) (h : VHead) (val : Nat → Word) (bad : Nat → Bool) :
    vregWr u p false h.vd.val (predOf (fenOf u p) h.pred.val) val bad =
      .vreg h.vd.val (activeVals (fenOf u p) h.pred.val val) (takenMire u p (predOf (fenOf u p) h.pred.val) bad) := rfl

/-- Where no input is mired and no lane has failed, no vector of a result is mired. -/
theorem takenMire_clean (act : BitVec 256) (hb : ∀ e, bad e = false) (hl : (fenOf u p).vecBad = []) :
    takenMire u p act bad = List.replicate 8 (some false) := by
  have hn (e : Nat) : laneBad u p false e = false := by simp [laneBad, hl]
  simp only [takenMire, hb, hn, Bool.or_self, Bool.and_false]
  rfl

/-- What the issue of a vector operation's result does; `bad` says of each element whether an input of it is mired. -/
theorem vecEmit_issued (p : Nat) (h : VHead) (lat : Nat) (srcs : List Nat) (val : Nat → Word) (bad : Nat → Bool)
    (sat : Nat) (ev : NumEv) (u : State) (hb : (∀ r ∈ srcs, mapGet 0#8 (fenOf u p).vMire r = 0#8) → ∀ e, bad e = false) :
    VecIssued p h lat srcs val sat ev (fenOf u p).gens u (vecEmit p h lat val bad sat ev u) := by
  refine ⟨takenMire u p (predOf (fenOf u p) h.pred.val) bad, ?only, ?fen, fun hs hl => takenMire_clean _ (hb hs) hl,
    ?f32, ?acc, ?l32⟩
  case only => exact .addPend (.spend (.fenBump (.countEv (.refl p u) ev) (o := 0x808) (by decide) sat) 110) _
  case fen => simp [vecEmit, vregWr_eq, issueSeq, slotVector]
  all_goals simp [vecEmit, countEv, reg_fenBump]

/-- A source that is not mired mires no element. -/
theorem vecMire_clean {f : Fen} {r : Nat} (h : mapGet 0#8 f.vMire r = 0#8) (m : Nat) : vecMire f r m = false := by
  simp [vecMire, h]

theorem srcMire_clean {f : Fen} (h : ∀ r ∈ srcs, mapGet 0#8 f.vMire r = 0#8) (e : Nat) : srcMire f srcs e = false :=
  List.any_eq_false.2 fun r hr => by simp [vecMire_clean (h r hr)]

theorem elemOp_issued (p : Nat) (h : VHead) (lat : Nat) (srcs : List Nat) (op : Fen → Nat → Elt) (u : State) :
    let act := activeElems (predOf (fenOf u p) h.pred.val)
    VecIssued p h lat srcs (fun e => (op (fenOf u p) e).val) ((act.map fun e => (op (fenOf u p) e).f32Sat).sum)
      (evSum (act.map fun e => (op (fenOf u p) e).ev)) (fenOf u p).gens u (elemOp p h lat srcs op u) :=
  vecEmit_issued _ _ _ _ _ _ _ _ _ srcMire_clean

end

section

variable {p : Fin 72} {h : VHead} {lat : Nat} {c : Instr} {s : State}

theorem vIssue_issues (hi : Issues p slotVector s) (body : State → State) :
    vIssue p.val body s = .next (body (atIssue p.val slotVector s)) :=
  congrArg Host.Outcome.next (issueOp_issues hi body)

/-- An elementwise operation runs (R263 to R265). -/
theorem vecRuns_elemOp {srcs : List Nat} (hi : Issues p slotVector s) (op : Fen → Nat → Elt)
    (hc : exec c s = vIssue p.val (elemOp p.val h lat srcs op) s) :
    VecRuns p h lat srcs (op (fenOf (atIssue p.val slotVector s) p.val)) c s :=
  ⟨_, hc.trans (vIssue_issues hi _), elemOp_issued _ _ _ _ _ _⟩

theorem vecRuns_binOp (hi : Issues p slotVector s) (op : Word → Word → Elt)
    (hc : exec c s = vIssue p.val (binOp p.val h lat op) s) :
    let f := fenOf (atIssue p.val slotVector s) p.val
    VecRuns p h lat [h.va.val, h.vb.val] (fun e => op (elemAt (tileReg f h.va.val) e) (elemAt (tileReg f h.vb.val) e)) c s :=
  vecRuns_elemOp hi (fun f e => op (elemAt (tileReg f h.va.val) e) (elemAt (tileReg f h.vb.val) e)) hc

theorem vecRuns_unOp (hi : Issues p slotVector s) (op : Word → Elt)
    (hc : exec c s = vIssue p.val (unOp p.val h lat op) s) :
    let f := fenOf (atIssue p.val slotVector s) p.val
    VecRuns p h lat [h.va.val] (fun e => op (elemAt (tileReg f h.va.val) e)) c s :=
  vecRuns_elemOp hi (fun f e => op (elemAt (tileReg f h.va.val) e)) hc

end

end Sys2Proof.Machine

/-! # Logic, shifts and integers (O49) -/

namespace Sys2Proof.Machine

/-- Settles O49: each operation is an elementwise one of one or two registers. -/
theorem vectorLogicAndInteger : Obligations.VectorLogicAndInteger := by
  intro p h s hi
  refine ⟨vIssue_issues hi id, vecRuns_binOp hi (fun x y => eltOf (x &&& y)) rfl, vecRuns_binOp hi (fun x y => eltOf (x ||| y)) rfl,
    vecRuns_binOp hi (fun x y => eltOf (x ^^^ y)) rfl, vecRuns_binOp hi (fun x y => eltOf (x &&& ~~~y)) rfl,
    vecRuns_unOp hi (fun x => eltOf (~~~x)) rfl, fun n => ⟨?shlBy, ?shrBy, ?sarBy⟩, ?shl, ?shr, ?sar,
    fun w => ⟨?iadd, ?iaddWrap, ?isub, ?isubWrap, ?imin, ?imax, ?iabs, ?imul⟩⟩
  case shlBy => exact vecRuns_unOp hi (fun x => eltOf (x <<< n.val)) rfl
  case shrBy => exact vecRuns_unOp hi (fun x => eltOf (x >>> n.val)) rfl
  case sarBy => exact vecRuns_unOp hi (fun x => eltOf (x.sshiftRight n.val)) rfl
  case shl => exact vecRuns_binOp hi (fun x y => eltOf (x <<< (y.toNat % 32))) rfl
  case shr => exact vecRuns_binOp hi (fun x y => eltOf (x >>> (y.toNat % 32))) rfl
  case sar => exact vecRuns_binOp hi (fun x y => eltOf (x.sshiftRight (y.toNat % 32))) rfl
  case iadd => exact vecRuns_binOp hi (fun x y => satInt w (intAt w x + intAt w y)) rfl
  case iaddWrap => exact vecRuns_binOp hi (fun x y => eltOf (BitVec.ofInt 32 (intAt w x + intAt w y))) rfl
  case isub => exact vecRuns_binOp hi (fun x y => satInt w (intAt w x - intAt w y)) rfl
  case isubWrap => exact vecRuns_binOp hi (fun x y => eltOf (BitVec.ofInt 32 (intAt w x - intAt w y))) rfl
  case imin => exact vecRuns_binOp hi (fun x y => satInt w (min (intAt w x) (intAt w y))) rfl
  case imax => exact vecRuns_binOp hi (fun x y => satInt w (max (intAt w x) (intAt w y))) rfl
  case iabs => exact vecRuns_unOp hi (fun x => satInt w (intAt w x).natAbs) rfl
  case imul => exact vecRuns_binOp hi (fun x y => satInt w (intAt w x * intAt w y)) rfl

end Sys2Proof.Machine

/-! # RED, PFX, CVT and the results that come (O52) -/

namespace Sys2Proof.Machine

/-! ## Results given element by element -/

/-- The result and the mire that a list gives for an element. -/
def elemResAt (l : ElemRes) (e : Nat) : Elt × Bool := ((l.find? fun x => decide (x.1 = e)).map (·.2)).getD (eltOf 0#32, false)

theorem vecEmitList_eq (p : Nat) (h : VHead) (lat : Nat) (l : ElemRes) (sat : Nat) (ev : NumEv) (s : State) :
    vecEmitList p h lat l sat ev s = vecEmit p h lat (fun e => (elemResAt l e).1.val) (fun e => (elemResAt l e).2) sat ev s := rfl

section

variable {l : ElemRes} {e : Nat}

/-- The list's one result for an element is the one it gives. -/
theorem elemResAt_of_mem {r : Elt × Bool} (hm : (e, r) ∈ l) (hu : ∀ x ∈ l, x.1 = e → x.2 = r) : elemResAt l e = r := by
  unfold elemResAt
  cases hf : l.find? fun x => decide (x.1 = e) with
  | none => exact absurd (decide_eq_true rfl) (List.find?_eq_none.1 hf _ hm)
  | some x =>
    have hx : x.1 = e := by simpa using List.find?_some hf
    exact hu x (List.mem_of_find?_eq_some hf) hx

/-- A list whose results are not mired mires no element. -/
theorem elemResAt_clean (h : ∀ x ∈ l, x.2.2 = false) : (elemResAt l e).2 = false := by
  unfold elemResAt
  cases hf : l.find? fun x => decide (x.1 = e) with
  | none => rfl
  | some x => exact h x (List.mem_of_find?_eq_some hf)

theorem vecEmitList_issued (p : Nat) (h : VHead) (lat : Nat) (srcs : List Nat) (l : ElemRes) (sat : Nat) (ev : NumEv) (u : State)
    (hb : (∀ r ∈ srcs, mapGet 0#8 (fenOf u p).vMire r = 0#8) → ∀ x ∈ l, x.2.2 = false) :
    VecIssued p h lat srcs (fun e => (elemResAt l e).1.val) sat ev (fenOf u p).gens u (vecEmitList p h lat l sat ev u) :=
  vecEmit_issued _ _ _ _ _ _ _ _ _ fun hs _ => elemResAt_clean (hb hs)

end

/-! ## Groups -/

/-- An element lies in one group of an extent. -/
theorem extentGroups_disjoint {ext : Extent} {g g' : List Nat} {e : Nat} (hg : g ∈ extentGroups ext) (hg' : g' ∈ extentGroups ext)
    (he : e ∈ g) (he' : e ∈ g') : g = g' := by
  cases ext with
  | rows =>
    simp only [extentGroups, List.mem_map, List.mem_range] at hg hg'
    obtain ⟨r, -, rfl⟩ := hg
    obtain ⟨r', -, rfl⟩ := hg'
    simp only [List.mem_map, List.mem_range] at he he'
    have hr : r = r' := by omega
    rw [hr]
  | columns =>
    simp only [extentGroups, List.mem_map, List.mem_range] at hg hg'
    obtain ⟨c, hc, rfl⟩ := hg
    obtain ⟨c', hc', rfl⟩ := hg'
    simp only [List.mem_map, List.mem_range] at he he'
    have hr : c = c' := by omega
    rw [hr]
  | tile =>
    rw [extentGroups, List.mem_singleton] at hg hg'
    rw [hg, hg']

/-- No element stands twice in a group. -/
theorem extentGroups_nodup {ext : Extent} {g : List Nat} (hg : g ∈ extentGroups ext) : g.Nodup := by
  cases ext with
  | rows =>
    simp only [extentGroups, List.mem_map] at hg
    obtain ⟨r, -, rfl⟩ := hg
    exact List.pairwise_map.2 (List.Pairwise.imp (fun hne => by omega) List.nodup_range)
  | columns =>
    simp only [extentGroups, List.mem_map] at hg
    obtain ⟨c, -, rfl⟩ := hg
    exact List.pairwise_map.2 (List.Pairwise.imp (fun hne => by omega) List.nodup_range)
  | tile =>
    rw [extentGroups, List.mem_singleton] at hg
    exact hg ▸ List.nodup_range

/-- A list's element within its length does not depend on the default. -/
theorem getD_of_lt {α : Type} {l : List α} {i : Nat} (h : i < l.length) (d : α) : l.getD i d = l[i] := by
  rw [List.getD_eq_getElem?_getD, List.getElem?_eq_getElem h, Option.getD_some]

/-- A position of a group is the only one of any group that holds its element. -/
theorem extentGroups_getD_inj {ext : Extent} {g g' : List Nat} {k k' : Nat} (hg : g ∈ extentGroups ext) (hg' : g' ∈ extentGroups ext)
    (hk : k < g.length) (hk' : k' < g'.length) (h : g.getD k 0 = g'.getD k' 0) : g = g' ∧ k = k' := by
  rw [getD_of_lt hk, getD_of_lt hk'] at h
  have heq := extentGroups_disjoint hg hg' (List.getElem_mem hk) (h ▸ List.getElem_mem hk')
  subst heq
  exact ⟨rfl, (List.getElem_inj (extentGroups_nodup hg)).1 h⟩

theorem groupMire_clean {f : Fen} {r : Nat} (h : mapGet 0#8 f.vMire r = 0#8) (act : BitVec 256) (g : List Nat) :
    groupMire f r act g = false := by
  simp [groupMire, vecMire_clean h]

/-! ## RED -/

/-- The result of a group, and whether an active element of it is mired. -/
def groupResult (f : Fen) (h : VHead) (op : ROp) (ty : ETy) (g : List Nat) : Elt × Bool :=
  let act := predOf f h.pred.val
  (reduceElems op ty (g.any fun e => act.getLsbD e) (groupElems f h.va.val act op ty g), groupMire f h.va.val act g)

/-- RED's results: that of its group for every element. -/
def redResults (f : Fen) (h : VHead) (op : ROp) (ext : Extent) (ty : ETy) : ElemRes :=
  (extentGroups ext).flatMap fun g => g.map fun e => (e, groupResult f h op ty g)

theorem redOp_eq (p : Nat) (h : VHead) (op : ROp) (ext : Extent) (ty : ETy) (s : State) :
    redOp p h op ext ty s = vecEmitList p h (redLat ext) (redResults (fenOf s p) h op ext ty)
      (((extentGroups ext).map fun g => (groupResult (fenOf s p) h op ty g).1.f32Sat).sum)
      (evSum ((extentGroups ext).map fun g => (groupResult (fenOf s p) h op ty g).1.ev)) s := by
  simp only [redOp, redResults, groupResult, List.map_map, List.flatMap_map, Function.comp_def]

section

variable {f : Fen} {h : VHead} {op : ROp} {ext : Extent} {ty : ETy} {g : List Nat}

theorem mem_redResults {x : Nat × Elt × Bool} :
    x ∈ redResults f h op ext ty ↔ ∃ g ∈ extentGroups ext, x.1 ∈ g ∧ x.2 = groupResult f h op ty g := by
  simp only [redResults, List.mem_flatMap, List.mem_map]
  constructor
  · rintro ⟨g, hg, e, he, rfl⟩
    exact ⟨g, hg, he, rfl⟩
  · rintro ⟨g, hg, he, hx⟩
    exact ⟨g, hg, x.1, he, Prod.ext rfl hx.symm⟩

theorem elemResAt_redResults {e : Nat} (hg : g ∈ extentGroups ext) (he : e ∈ g) :
    elemResAt (redResults f h op ext ty) e = groupResult f h op ty g := by
  refine elemResAt_of_mem (mem_redResults.2 ⟨g, hg, he, rfl⟩) fun x hx hxe => ?_
  obtain ⟨g', hg', he', hr⟩ := mem_redResults.1 hx
  rw [hr, extentGroups_disjoint hg' hg he' (hxe ▸ he)]

end

theorem redLat_eq (ext : Extent) : redLat ext = if ext = .tile then 7 else 5 := by cases ext <;> rfl

theorem redOp_issued (p : Nat) (h : VHead) (op : ROp) (ext : Extent) (ty : ETy) (u : State) :
    VecIssued p h (if ext = .tile then 7 else 5) [h.va.val] (fun e => (elemResAt (redResults (fenOf u p) h op ext ty) e).1.val)
      (((extentGroups ext).map fun g => (groupResult (fenOf u p) h op ty g).1.f32Sat).sum)
      (evSum ((extentGroups ext).map fun g => (groupResult (fenOf u p) h op ty g).1.ev)) (fenOf u p).gens u
      (redOp p h op ext ty u) := by
  rw [redOp_eq, ← redLat_eq]
  refine vecEmitList_issued _ _ _ _ _ _ _ _ fun hs x hx => ?_
  obtain ⟨g, -, -, hr⟩ := mem_redResults.1 hx
  rw [hr]
  exact groupMire_clean (hs _ List.mem_cons_self) _ g

/-! ## PFX -/

theorem sincePrefix_unmarked (g : List Nat) (k : Nat) : sincePrefix (fun _ => false) g k = g.take (k + 1) := by
  have hnone : (List.range (g.take (k + 1)).length).filter (fun _ => false) = [] :=
    List.filter_eq_nil_iff.2 fun _ _ => Bool.false_ne_true
  simp only [sincePrefix, hnone, List.getLastD_nil, List.drop_zero]

/-- The part of a group that PFX takes in at a position: from the last mark of a predicate on, or from the start. -/
def prefixPart (f : Fen) (marks : Option (Fin 8)) (g : List Nat) (k : Nat) : List Nat :=
  match marks with
  | none => g.take (k + 1)
  | some m => sincePrefix (fun e => (predOf f m.val).getLsbD e) g k

/-- PFX's result at a position of a group, and whether an active element of the group is mired. -/
def prefixResult (f : Fen) (h : VHead) (op : ROp) (ty : ETy) (marks : Option (Fin 8)) (g : List Nat) (k : Nat) : Elt × Bool :=
  let act := predOf f h.pred.val
  (prefixElems op ty (groupElems f h.va.val act op ty (prefixPart f marks g k)), groupMire f h.va.val act g)

/-- PFX's results, for every active element. -/
def pfxResults (f : Fen) (h : VHead) (op : ROp) (ext : Extent) (ty : ETy) (marks : Option (Fin 8)) : ElemRes :=
  (extentGroups ext).flatMap fun g => (List.range g.length).filterMap fun k =>
    if (predOf f h.pred.val).getLsbD (g.getD k 0) then some (g.getD k 0, prefixResult f h op ty marks g k) else none

theorem pfxOp_eq (p : Nat) (h : VHead) (op : ROp) (ext : Extent) (ty : ETy) (marks : Option (Fin 8)) (s : State) :
    let l := pfxResults (fenOf s p) h op ext ty marks
    pfxOp p h op ext ty marks s =
      vecEmitList p h (pfxLat ext) l ((l.map fun r => r.2.1.f32Sat).sum) (evSum (l.map fun r => r.2.1.ev)) s := by
  cases marks with
  | none => simp only [pfxOp, pfxResults, prefixResult, prefixPart, sincePrefix_unmarked]
  | some m => rfl

section

variable {f : Fen} {h : VHead} {op : ROp} {ext : Extent} {ty : ETy} {marks : Option (Fin 8)} {g : List Nat} {k : Nat}

theorem mem_pfxResults {x : Nat × Elt × Bool} :
    x ∈ pfxResults f h op ext ty marks ↔ ∃ g ∈ extentGroups ext, ∃ k < g.length,
      (predOf f h.pred.val).getLsbD (g.getD k 0) = true ∧ x = (g.getD k 0, prefixResult f h op ty marks g k) := by
  simp only [pfxResults, List.mem_flatMap, List.mem_filterMap, List.mem_range, Option.ite_none_right_eq_some,
    Option.some.injEq, eq_comm (a := x)]

theorem elemResAt_pfxResults (hg : g ∈ extentGroups ext) (hk : k < g.length)
    (ha : (predOf f h.pred.val).getLsbD (g.getD k 0) = true) :
    elemResAt (pfxResults f h op ext ty marks) (g.getD k 0) = prefixResult f h op ty marks g k := by
  refine elemResAt_of_mem (mem_pfxResults.2 ⟨g, hg, k, hk, ha, rfl⟩) fun x hx hxe => ?_
  obtain ⟨g', hg', k', hk', -, rfl⟩ := mem_pfxResults.1 hx
  obtain ⟨rfl, rfl⟩ := extentGroups_getD_inj hg' hg hk' hk hxe
  rfl

end

theorem pfxLat_eq (ext : Extent) : pfxLat ext = if ext = .tile then 9 else 5 := by cases ext <;> rfl

theorem pfxOp_issued (p : Nat) (h : VHead) (op : ROp) (ext : Extent) (ty : ETy) (marks : Option (Fin 8)) (u : State) :
    let l := pfxResults (fenOf u p) h op ext ty marks
    VecIssued p h (if ext = .tile then 9 else 5) [h.va.val] (fun e => (elemResAt l e).1.val)
      ((l.map fun r => r.2.1.f32Sat).sum) (evSum (l.map fun r => r.2.1.ev)) (fenOf u p).gens u
      (pfxOp p h op ext ty marks u) := by
  rw [pfxOp_eq, ← pfxLat_eq]
  refine vecEmitList_issued _ _ _ _ _ _ _ _ fun hs x hx => ?_
  obtain ⟨g, -, k, -, -, rfl⟩ := mem_pfxResults.1 hx
  exact groupMire_clean (hs _ List.mem_cons_self) _ g

/-! ## CVT -/

/-- A lane's generator after every lane has converted an element (R78). -/
theorem genOf_gensAfter (f : Fen) {i : Nat} (hi : i < 256) :
    genOf { f with gens := gensAfter f } i = srAdvance (genOf f i) := by
  unfold genOf gensAfter
  rw [mapGet_mapPutRun, if_pos (by simp [hi])]
  simp [hi, genOf]

section

variable {p lat sat : Nat} {h : VHead} {srcs : List Nat} {val : Nat → Word} {ev : NumEv} {gens gens' : SMap (Option Word)} {u t : State}

theorem VecIssued.gens_eq (hi : VecIssued p h lat srcs val sat ev gens u t) : (fenOf t p).gens = gens := by
  obtain ⟨_, _, hfen, _⟩ := hi
  rw [hfen]

theorem VecIssued.genOf_eq (hi : VecIssued p h lat srcs val sat ev gens u t) (i : Nat) :
    genOf (fenOf t p) i = genOf { fenOf u p with gens := gens } i := by
  obtain ⟨_, _, hfen, _⟩ := hi
  rw [hfen]
  rfl

theorem VecIssued.gensAfter_eq (hi : VecIssued p h lat srcs val sat ev (fenOf u p).gens u t) :
    gensAfter (fenOf t p) = gensAfter (fenOf u p) := by
  obtain ⟨_, _, hfen, _⟩ := hi
  rw [hfen]
  rfl

theorem VecIssued.withGens (hi : VecIssued p h lat srcs val sat ev gens u t) (g : Fen → SMap (Option Word))
    (hg : g (fenOf t p) = gens') :
    VecIssued p h lat srcs val sat ev gens' u (modFen p (fun f => { f with gens := g f }) t) := by
  obtain ⟨taint, honly, hfen, hrest⟩ := hi
  refine ⟨taint, honly.modFen _, ?_, hrest⟩
  rw [fenOf_modFen_same, hg, hfen]

end

/-- The result of CVT for an element. -/
def cvtElt (d : Cvt) (src : CvtSrc) (r : Nat) (f : Fen) (e : Nat) : Elt :=
  let c := convert d.target (if d.stoch then some (genDraw f e) else none) d.ovf (cvtSource src (elemAt (tileReg f r) e))
  { val := regCode d.target c.1, ev := c.2 }

theorem cvtOp_eq (p : Nat) (h : VHead) (d : Cvt) (src : CvtSrc) (s : State) :
    cvtOp p h d src s = advanceGens p d (elemOp p h 4 [h.va.val] (cvtElt d src h.va.val) s) := rfl

/-- What CVT leaves (R78): with stochastic rounding every lane's generator has advanced. -/
theorem cvtOp_issued (p : Nat) (h : VHead) (d : Cvt) (src : CvtSrc) (u : State) :
    let act := activeElems (predOf (fenOf u p) h.pred.val)
    VecIssued p h 4 [h.va.val] (fun e => (cvtElt d src h.va.val (fenOf u p) e).val)
      ((act.map fun e => (cvtElt d src h.va.val (fenOf u p) e).f32Sat).sum)
      (evSum (act.map fun e => (cvtElt d src h.va.val (fenOf u p) e).ev))
      (if d.stoch then gensAfter (fenOf u p) else (fenOf u p).gens) u (cvtOp p h d src u) := by
  have hi := elemOp_issued p h 4 [h.va.val] (cvtElt d src h.va.val) u
  rw [cvtOp_eq, advanceGens]
  split
  · exact hi.withGens gensAfter hi.gensAfter_eq
  · exact hi

/-! ## Results that come -/

section

variable {p : Nat} {cls : WrCls} {x : PendWr} {s : State}

theorem settleLoads_idle (h : (fenOf s p).loads = []) : settleLoads p s = s := if_pos h

theorem settleSends_idle (h : (fenOf s p).sends = []) : settleSends p s = s := if_pos h

theorem advanceCk_ck (c : Nat) (s : State) : (advanceCk c s).ck = max s.ck c := by
  unfold advanceCk
  split
  · omega
  · dsimp only
    omega

/-- The state in which a fen's one pending write has taken place. -/
def landed (p : Nat) (x : PendWr) (s : State) : State := applyWr p x (modFen p (fun f => { f with pend := [] }) s)

theorem runPends_single {go : PendWr → Bool} (hp : (fenOf s p).pend = [x]) (hg : go x = true) :
    runPends p go 1 s = landed p x s := by
  simp [runPends, hp, hg, landed]

theorem resultWrite_none (h : ∀ w ∈ (fenOf s p).pend, w.cls ≠ cls) (fault : PendWr → State → State) :
    resultWrite p cls fault s = s := by
  have hf : (fenOf s p).pend.find? (fun w => decide (w.cls = cls)) = none := by simpa using h
  simp only [resultWrite, hf]

/-- The event of a fen's one pending write: time moves to its CK, `fault` strikes, and what it leaves of the write lands. -/
theorem resultWrite_single {y : PendWr} (hck : ckRuns s = true) (hl : (fenOf s p).loads = []) (hs : (fenOf s p).sends = [])
    (hp : (fenOf s p).pend = [x]) (hc : x.cls = cls) (fault : PendWr → State → State)
    (hy : (fenOf (fault x (advanceCk x.due s)) p).pend = [y]) (hd : y.due = x.due) :
    resultWrite p cls fault s = landed p y (fault x (advanceCk x.due s)) := by
  have hdue : x.due ≤ (advanceCk x.due s).ck := by rw [advanceCk_ck]; omega
  have hstop : runPends p (fun w => decide (w.due ≤ (advanceCk x.due s).ck) && !decide (w = x)) 1 (advanceCk x.due s) =
      advanceCk x.due s := by simp [runPends, hp]
  rw [← runPends_single (go := fun w => decide (w.due ≤ (advanceCk x.due s).ck)) hy (by simpa [hd] using hdue)]
  simp [resultWrite, settleWith, settleLoads_idle, settleSends_idle, hck, hl, hs, hp, hc, hdue, hstop, sameCkWrites, fenBump, bump]

end

/-! ## A result of the vector engine that comes -/

section

variable {p due seq r : Nat} {vals : List (Option Word)} {taint : List (Option Bool)} {s : State}

/-- A fen after a result on a tile register. -/
def fenWith (f : Fen) (r : Nat) (vals : List (Option Word)) (taint : List (Option Bool)) : Fen :=
  { f with
    pend := []
    v := mapPut zeroElems f.v r (overlay (tileReg f r) vals)
    vMire := mapPut 0#8 f.vMire r (mireAfter (mapGet 0#8 f.vMire r) vals taint) }

theorem landed_vreg : landed p ⟨due, seq, .vector, .vreg r vals taint⟩ s =
    fenBump p 0x804 (miredCount (mireAfter (mapGet 0#8 (fenOf s p).vMire r) vals taint) taint)
      (putFen p (fenWith (fenOf s p) r vals taint) (modFen p (fun f => { f with pend := [] }) s)) := by
  simp only [landed, applyWr, fenOf_modFen_same]
  rfl

/-- The register takes the elements written, and its mire follows the result's. -/
theorem fenOf_landed_vreg :
    fenOf (landed p ⟨due, seq, .vector, .vreg r vals taint⟩ s) p = fenWith (fenOf s p) r vals taint := by
  rw [landed_vreg, fenOf_fenBump, fenOf_putFen_same]

theorem fenOf_landed_vreg_ne {k : Nat} (hk : k ≠ p) :
    fenOf (landed p ⟨due, seq, .vector, .vreg r vals taint⟩ s) k = fenOf s k := by
  rw [landed_vreg, fenOf_fenBump, fenOf_putFen_ne _ _ _ _ hk, fenOf_modFen_ne _ _ _ _ hk]

theorem landed_vreg_ck : (landed p ⟨due, seq, .vector, .vreg r vals taint⟩ s).ck = s.ck := by
  rw [landed_vreg]
  simp

theorem landed_vreg_out : (landed p ⟨due, seq, .vector, .vreg r vals taint⟩ s).out = s.out := by
  rw [landed_vreg]
  simp

theorem reg_landed_vreg {off : Nat} (ho : off < 0x10000) :
    reg (landed p ⟨due, seq, .vector, .vreg r vals taint⟩ s) off = reg s off := by
  rw [landed_vreg, fenBump, reg_bump_ne _ _ (by unfold fenWin; omega), reg_putFen, reg_modFen]

end

section

variable {f : Fen} {r k : Nat} {vals : List (Option Word)} {taint : List (Option Bool)}

theorem tileReg_fenWith_same : tileReg (fenWith f r vals taint) r = overlay (tileReg f r) vals := mapGet_mapPut_same ..

theorem tileReg_fenWith_ne (hk : k ≠ r) : tileReg (fenWith f r vals taint) k = tileReg f k := mapGet_mapPut_ne _ _ _ _ _ hk

theorem vMire_fenWith_same : mapGet 0#8 (fenWith f r vals taint).vMire r = mireAfter (mapGet 0#8 f.vMire r) vals taint :=
  mapGet_mapPut_same ..

/-- An element is replaced where a new value is given for it. -/
theorem elemAt_overlay (l : List Word) (m : List (Option Word)) (e : Nat) (he : e < l.length) :
    elemAt (overlay l m) e = (m.getD e none).getD (elemAt l e) := by
  induction l generalizing m e with
  | nil => exact absurd he (Nat.not_lt_zero e)
  | cons x l ih =>
    cases m with
    | nil => rfl
    | cons y m =>
      cases e with
      | zero => cases y <;> rfl
      | succ e =>
        have hl : e < l.length := by simpa using he
        have hr : elemAt (overlay (x :: l) (y :: m)) (e + 1) = elemAt (overlay l m) e := by cases y <;> rfl
        exact hr.trans (ih m e hl)

/-- The mire bits of a tile register after the write of its vector `m` (R264). -/
def mireStep (old : BitVec 8) (vals : List (Option Word)) (taint : List (Option Bool)) (b : BitVec 8) (m : Nat) : BitVec 8 :=
  match taint.getD m none with
  | none => b
  | some t =>
    if t || (((vals.drop (32 * m)).take 32).any Option.isNone && old.getLsbD m) then b ||| (1#8 <<< m) else b &&& ~~~(1#8 <<< m)

theorem mireAfter_eq (old : BitVec 8) (vals : List (Option Word)) (taint : List (Option Bool)) :
    mireAfter old vals taint = (List.range 8).foldl (mireStep old vals taint) old := rfl

theorem getLsbD_one_shiftLeft {m : Nat} (hm : m < 8) (i : Nat) : (1#8 <<< i).getLsbD m = decide (i = m) := by
  rw [← BitVec.twoPow_eq, BitVec.getLsbD_twoPow]
  by_cases hi : i = m <;> simp [hi, hm]

theorem mireStep_tainted {m : Nat} (old b : BitVec 8) (vals : List (Option Word)) (hm : m < 8)
    (ht : taint.getD m none = some true) : (mireStep old vals taint b m).getLsbD m = true := by
  simp only [mireStep, ht, Bool.true_or, if_true]
  rw [BitVec.getLsbD_or, getLsbD_one_shiftLeft hm, decide_eq_true rfl, Bool.or_true]

theorem mireStep_ne {m i : Nat} (old b : BitVec 8) (vals : List (Option Word)) (hm : m < 8) (hi : i ≠ m) :
    (mireStep old vals taint b i).getLsbD m = b.getLsbD m := by
  unfold mireStep
  split
  · rfl
  · split
    · rw [BitVec.getLsbD_or, getLsbD_one_shiftLeft hm, decide_eq_false hi, Bool.or_false]
    · rw [BitVec.getLsbD_and, BitVec.getLsbD_not, getLsbD_one_shiftLeft hm, decide_eq_false hi, decide_eq_true hm]
      exact Bool.and_true _

/-- A vector in which an active lane takes a mired input ends mired (R264). -/
theorem mireAfter_tainted {m : Nat} (old : BitVec 8) (vals : List (Option Word)) (hm : m < 8)
    (ht : taint.getD m none = some true) : (mireAfter old vals taint).getLsbD m = true := by
  rw [mireAfter_eq]
  refine foldl_reaches (P := fun b : BitVec 8 => b.getLsbD m = true) (x := m) (fun b i hb => ?keep)
    (fun b => mireStep_tainted old b vals hm ht) (List.mem_range.2 hm) old
  by_cases hi : i = m
  · subst hi
    exact mireStep_tainted old b vals hm ht
  · exact (mireStep_ne old b vals hm hi).trans hb

end

/-! ## A failed lane (R284) -/

section

variable {vals : List (Option Word)} {taint : List (Option Bool)}

/-- The vectors mired of a result that a failed lane writes. -/
def laneTaint (lane : Nat) (vals : List (Option Word)) (taint : List (Option Bool)) : List (Option Bool) :=
  ((List.range 8).zip taint).map fun x =>
    if x.1 = lane / 32 ∧ (vals.getD lane none).isSome then x.2.map (fun _ => true) else x.2

theorem laneTaint_mires {lane : Nat} (hl : lane < 256) (hv : (vals.getD lane none).isSome = true) (hn : taint.length = 8)
    (ht : (taint.getD (lane / 32) none).isSome = true) : (laneTaint lane vals taint).getD (lane / 32) none = some true := by
  have hm : lane / 32 < 8 := by omega
  obtain ⟨b, hb⟩ := Option.isSome_iff_exists.1 ht
  have hlen : lane / 32 < (laneTaint lane vals taint).length := by simp [laneTaint, hn, hm]
  have hget : taint[lane / 32]'(by omega) = some b := by rw [← hb, getD_of_lt (by omega)]
  rw [getD_of_lt hlen]
  simp only [laneTaint, List.getElem_map, List.getElem_zip, List.getElem_range, hget, hv, and_self, if_true, Option.map_some]

theorem regBit_logAdd_error {k : LogKind} (hk : k.2 = true) (source : Nat) (detail : List Nat) (s : State) :
    regBit (logAdd k source detail s) 0x4000 0 = true := by
  unfold logAdd regBit
  dsimp only
  rw [if_pos hk, reg_orReg, if_pos rfl, BitVec.getLsbD_or]
  exact Bool.or_true _

theorem regBit_vectorFault (p : Nat) (x : VecFault) (s : State) : regBit (vectorFault p x s) 0x4000 0 = true :=
  regBit_logAdd_error rfl ..

theorem vectorFault_ck (p : Nat) (x : VecFault) (s : State) : (vectorFault p x s).ck = s.ck := by
  unfold vectorFault
  simp

theorem fenOf_vectorFault (p : Nat) (x : VecFault) (s : State) : fenOf (vectorFault p x s) p = { fenOf s p with
    vecBad := if (fenOf s p).vecBad.contains x.lane.val then (fenOf s p).vecBad else (fenOf s p).vecBad ++ [x.lane.val]
    pend := (fenOf s p).pend.map fun w => { w with wr := vecTaint x.lane.val w.wr } } := by
  unfold vectorFault
  rw [fenOf_logAdd, fenOf_modFen_same]

theorem mem_vecBad_vectorFault (p : Nat) (x : VecFault) (s : State) : x.lane.val ∈ (fenOf (vectorFault p x s) p).vecBad := by
  rw [fenOf_vectorFault]
  dsimp only
  split
  · next h => simpa using h
  · simp

end

/-! ## The result event -/

section

variable {p : Fin 72} {due r : Nat} {vals : List (Option Word)} {taint : List (Option Bool)} {s : State}

/-- A result comes: time moves to its CK and it lands. -/
theorem exec_vectorResultWrite (h : OnlyPending p.val due .vector (.vreg r vals taint) s) : ∃ seq,
    exec (.vectorResultWrite p none) s = .next (landed p.val ⟨due, seq, .vector, .vreg r vals taint⟩ (advanceCk due s)) := by
  obtain ⟨hck, hl, hs, seq, hp⟩ := h
  exact ⟨seq, congrArg Host.Outcome.next (resultWrite_single hck hl hs hp rfl _ (by simpa using hp) rfl)⟩

/-- A result comes that a failed check struck: what lands is mired where the lane writes. -/
theorem exec_vectorResultWrite_fault (x : VecFault) (h : OnlyPending p.val due .vector (.vreg r vals taint) s) : ∃ seq,
    exec (.vectorResultWrite p (some x)) s = .next (landed p.val
      ⟨due, seq, .vector, .vreg r vals (laneTaint x.lane.val vals taint)⟩ (vectorFault p.val x (advanceCk due s))) := by
  obtain ⟨hck, hl, hs, seq, hp⟩ := h
  refine ⟨seq, congrArg Host.Outcome.next (resultWrite_single hck hl hs hp rfl _ ?_ rfl)⟩
  rw [fenOf_vectorFault, fenOf_advanceCk, hp]
  rfl

end

/-- Settles O52: RED, PFX and CVT each leave one result on its way, and a result that comes lands, with what a failed lane mires. -/
theorem reductionsAndConversion : Obligations.ReductionsAndConversion := by
  refine ⟨fun p h op ext ty s hi => ?red, fun p h op ext ty marks s hi => ?pfx, fun p h d src s hi => ?cvt,
    fun p s => ⟨fun x hn => ?nothing, fun due r vals taint hp => ⟨?lands, fun x => ?fault⟩⟩⟩
  case red =>
    refine ⟨_, _, vIssue_issues hi _, redOp_issued p.val h op ext ty _, fun g hg e he => ?_⟩
    rw [elemResAt_redResults hg he]
    rfl
  case pfx =>
    refine ⟨_, _, _, _, vIssue_issues hi _, pfxOp_issued p.val h op ext ty marks _, fun g hg k hk ha => ?_⟩
    rw [elemResAt_pfxResults hg hk ha]
    cases marks <;> rfl
  case cvt =>
    have hv := cvtOp_issued p.val h d src (atIssue p.val slotVector s)
    refine ⟨_, _, _, vIssue_issues hi _, hv.gens_eq.symm ▸ hv, fun hd => ?_, fun hd i hlt => ?_⟩
    · rw [hv.gens_eq, if_neg (by simp [hd])]
    · rw [hv.genOf_eq, if_pos hd, genOf_gensAfter _ hlt]
  case nothing => exact congrArg Host.Outcome.next (resultWrite_none hn _)
  case lands =>
    obtain ⟨seq, he⟩ := exec_vectorResultWrite hp
    refine ⟨_, he, ⟨?_, ?_, ?_, fun k hk => ?_⟩, ?_, ?_, fun k hk => ?_, fun hl _ e hlt => ?_⟩
    · rw [landed_vreg_ck, advanceCk_ck]
    · rw [fenOf_landed_vreg]
      rfl
    · rw [landed_vreg_out, advanceCk_out]
    · rw [fenOf_landed_vreg_ne hk, fenOf_advanceCk]
    · rw [fenOf_landed_vreg, tileReg_fenWith_same, fenOf_advanceCk]
    · rw [fenOf_landed_vreg, vMire_fenWith_same, fenOf_advanceCk]
    · rw [fenOf_landed_vreg, tileReg_fenWith_ne hk, fenOf_advanceCk]
    · rw [fenOf_landed_vreg, tileReg_fenWith_same, fenOf_advanceCk]
      exact elemAt_overlay _ _ _ (by omega)
  case fault =>
    obtain ⟨seq, he⟩ := exec_vectorResultWrite_fault x hp
    refine ⟨_, he, ?_, ?_, ?_, ?_, fun hv hn ht => ?_⟩
    · rw [landed_vreg_ck, vectorFault_ck, advanceCk_ck]
    · rw [fenOf_landed_vreg]
      exact mem_vecBad_vectorFault ..
    · rw [regBit, reg_landed_vreg (by decide)]
      exact regBit_vectorFault ..
    · rw [fenOf_landed_vreg, tileReg_fenWith_same, fenOf_vectorFault, fenOf_advanceCk]
      rfl
    · rw [fenOf_landed_vreg, vecMire, vMire_fenWith_same]
      exact mireAfter_tainted _ _ (by omega) (laneTaint_mires x.lane.isLt hv hn ht)

end Sys2Proof.Machine

/-! # Float and L32 operations, selections and moves (O50) -/

namespace Sys2Proof.Machine

/-! ## Moves -/

@[simp] theorem eltOf_val (x : Word) : (eltOf x).val = x := rfl

/-- Results that are copies saturate nothing. -/
theorem sum_f32Sat_eltOf (g : Nat → Word) (l : List Nat) : (l.map fun e => (eltOf (g e)).f32Sat).sum = 0 := by
  induction l with
  | nil => rfl
  | cons e l ih =>
    rw [List.map_cons, List.sum_cons, ih]
    rfl

/-- Results that are copies have no numeric event. -/
theorem evSum_eltOf (g : Nat → Word) (l : List Nat) : evSum (l.map fun e => (eltOf (g e)).ev) = evNone := by
  induction l with
  | nil => rfl
  | cons e l ih => exact ih

section

variable {p : Fin 72} {h : VHead} {lat : Nat} {srcs : List Nat} {c : Instr} {s : State}

theorem moveOp_issued (p : Nat) (h : VHead) (lat : Nat) (hva : h.va.val ∈ srcs) (src : Fen → Nat → Nat) (u : State) :
    VecIssued p h lat srcs (fun e => elemAt (tileReg (fenOf u p) h.va.val) (src (fenOf u p) e)) 0 evNone (fenOf u p).gens u
      (moveOp p h lat src u) :=
  vecEmit_issued _ _ _ _ _ _ _ _ _ fun hs _ => vecMire_clean (hs _ hva) _

/-- An operation that copies elements of VA runs; `srcs` may name a register that only directs the copy. -/
theorem vecRuns_moveOp (hi : Issues p slotVector s) (hva : h.va.val ∈ srcs) (src : Fen → Nat → Nat)
    (hc : exec c s = vIssue p.val (moveOp p.val h lat src) s) :
    let f := fenOf (atIssue p.val slotVector s) p.val
    VecRuns p h lat srcs (fun e => eltOf (elemAt (tileReg f h.va.val) (src f e))) c s := by
  refine ⟨_, hc.trans (vIssue_issues hi _), ?_⟩
  simpa only [eltOf_val, sum_f32Sat_eltOf, evSum_eltOf] using moveOp_issued p.val h lat hva src (atIssue p.val slotVector s)

theorem elemAt_tileReg_ite (b : Bool) (f : Fen) (r k e : Nat) :
    elemAt (tileReg f (if b then r else k)) e = if b then elemAt (tileReg f r) e else elemAt (tileReg f k) e :=
  apply_ite (fun r => elemAt (tileReg f r) e) ..

/-- SEL takes VA where its predicate is set and VB elsewhere. -/
theorem vecRuns_sel (hi : Issues p slotVector s) (ps : Fin 8) :
    let f := fenOf (atIssue p.val slotVector s) p.val
    VecRuns p h 2 [h.va.val, h.vb.val] (fun e =>
      eltOf (if (predOf f ps.val).getLsbD e then elemAt (tileReg f h.va.val) e else elemAt (tileReg f h.vb.val) e))
      (.sel p h ps) s := by
  have hsel := vecRuns_elemOp (c := .sel p h ps) (h := h) hi (fun f e =>
    eltOf (elemAt (tileReg f (if (predOf f ps.val).getLsbD e then h.va.val else h.vb.val)) e)) rfl
  simpa only [elemAt_tileReg_ite] using hsel

end

/-- Settles O50: the arithmetic operations and SEL are elementwise, the others copy elements of VA. -/
theorem vectorFloatAndMoves : Obligations.VectorFloatAndMoves := by
  intro p h s hi
  refine ⟨fun zc => ⟨?fadd, ?fsub, fun vc => ?fma⟩, vecRuns_binOp hi fMul rfl, ?fmin, ?fmax, ?fabs, ?fneg, vecRuns_binOp hi lComp rfl,
    ?lmin, ?lmax, vecRuns_sel hi, fun i => ⟨?element, ?row, ?column, ?vector⟩, ?vperm, ?trn⟩
  case fadd => exact vecRuns_binOp hi (fun x y => zclamp zc (fAdd x y)) rfl
  case fsub => exact vecRuns_binOp hi (fun x y => zclamp zc (fSub x y)) rfl
  case fma =>
    exact vecRuns_elemOp hi (fun f e => zclamp zc
      (fFma (elemAt (tileReg f h.va.val) e) (elemAt (tileReg f h.vb.val) e) (elemAt (tileReg f vc.val) e))) rfl
  case fmin => exact vecRuns_binOp hi (fun x y => eltOf (fMin x y)) rfl
  case fmax => exact vecRuns_binOp hi (fun x y => eltOf (fMax x y)) rfl
  case fabs => exact vecRuns_unOp hi (fun x => eltOf (fAbs x)) rfl
  case fneg => exact vecRuns_unOp hi (fun x => eltOf (fNeg x)) rfl
  case lmin => exact vecRuns_binOp hi (fun x y => eltOf (tyMin .l32 x y)) rfl
  case lmax => exact vecRuns_binOp hi (fun x y => eltOf (tyMax .l32 x y)) rfl
  case element => exact vecRuns_moveOp hi List.mem_cons_self (fun _ _ => i.val) rfl
  case row => exact vecRuns_moveOp hi List.mem_cons_self (fun _ e => 16 * (i.val % 16) + e % 16) rfl
  case column => exact vecRuns_moveOp hi List.mem_cons_self (fun _ e => 16 * (e / 16) + i.val % 16) rfl
  case vector => exact vecRuns_moveOp hi List.mem_cons_self (fun _ e => 32 * (i.val % 8) + e % 32) rfl
  case vperm =>
    exact vecRuns_moveOp hi List.mem_cons_self (fun f e => 32 * ((elemAt (tileReg f h.vb.val) (32 * (e / 32))).toNat % 8) + e % 32) rfl
  case trn => exact vecRuns_moveOp hi List.mem_cons_self (fun _ e => 16 * (e % 16) + e / 16) rfl

end Sys2Proof.Machine

/-! # CMP and the operations on predicate tiles (O51) -/

namespace Sys2Proof.Machine

/-! ## Bits of a predicate -/

/-- A predicate with the bits of the elements below `n` that a function of the element number sets. -/
theorem getLsbD_bitsUpTo (g : Nat → Bool) {e n : Nat} (he : e < 256) :
    ((List.range n).foldl (fun b k => if g k then b ||| (1#256 <<< k) else b) 0#256).getLsbD e = (decide (e < n) && g e) := by
  induction n with
  | zero => simp
  | succ n ih =>
    rw [List.range_succ, List.foldl_append, List.foldl_cons, List.foldl_nil, apply_ite (BitVec.getLsbD · e),
      BitVec.getLsbD_or, ih, ← BitVec.twoPow_eq, BitVec.getLsbD_twoPow]
    by_cases hen : n = e
    · subst hen
      cases g n <;> simp [he]
    · have hlt : decide (e < n + 1) = decide (e < n) := decide_eq_decide.2 (by omega)
      rw [hlt, decide_eq_false hen, Bool.and_false, Bool.or_false, ite_self]

theorem getLsbD_bitsFrom (g : Nat → Bool) {e : Nat} (he : e < 256) : (bitsFrom g).getLsbD e = g e := by
  rw [bitsFrom, getLsbD_bitsUpTo g he, decide_eq_true he, Bool.true_and]

/-! ## What CMP compares -/

theorem cmpElt_lt {ty : ETy} (h : ty = .i32 ∨ ty = .l32) (x y : Word) : cmpElt ty .lt x y = decide (x.toInt < y.toInt) := by
  obtain rfl | rfl := h <;> rfl

theorem cmpElt_eq {ty : ETy} (h : ty = .i32 ∨ ty = .l32) (x y : Word) : cmpElt ty .eq x y = decide (x = y) := by
  obtain rfl | rfl := h <;> rfl

theorem cmpElt_le {ty : ETy} (h : ty = .i32 ∨ ty = .l32) (x y : Word) : cmpElt ty .le x y = decide (x.toInt ≤ y.toInt) := by
  show (cmpElt ty .lt x y || cmpElt ty .eq x y) = _
  rw [cmpElt_lt h, cmpElt_eq h, ← Bool.decide_or, decide_eq_decide, ← BitVec.toInt_inj]
  exact Int.le_iff_lt_or_eq.symm

theorem numLt_nan {a b : Num} (h : a = .nan ∨ b = .nan) : numLt a b = false := by
  obtain rfl | rfl := h
  · rfl
  · cases a <;> rfl

theorem numEq_nan {a b : Num} (h : a = .nan ∨ b = .nan) : numEq a b = false := by
  obtain rfl | rfl := h
  · rfl
  · cases a <;> rfl

/-- With a NaN operand every condition but NE is false (R270). -/
theorem cmpElt_nan (c : Cond) {x y : Word} (h : f32v x = .nan ∨ f32v y = .nan) : cmpElt .f32 c x y = decide (c = .ne) := by
  cases c <;> simp [cmpElt, tyLt, tyEq, numLt_nan h, numLt_nan h.symm, numEq_nan h]

/-! ## Issue of an operation on predicate tiles -/

/-- What an operation of the fen `f` writes on predicate tiles: nothing where its destination is P0 (R262), and else the bits of
active lanes (R263). -/
def predWr (h : VHead) (bits : BitVec 256) (f : Fen) : FenWr :=
  if h.vd.val % 8 = 0 then .done else .preg (h.vd.val % 8) bits (predOf f h.pred.val)

section

variable {h : VHead} {lat : Nat} {bits : Fen → BitVec 256}

theorem predEmit_eq (p : Nat) (u : State) :
    let t := addPend p ⟨u.ck + lat, issueSeq u slotVector, .vector, predWr h (bits (fenOf u p)) (fenOf u p)⟩ (spend p 110 u)
    predEmit p h lat bits u = if h.vd.val % 8 = 0 then fenBump p 0x800 1 t else t := by
  unfold predEmit predWr
  dsimp only
  split <;> rfl

theorem predEmit_fenOnly (p : Nat) (u : State) : FenOnly p u (predEmit p h lat bits u) := by
  rw [predEmit_eq]
  split
  · exact .fenBump (.addPend (.spend (.refl p u) 110) _) (by decide) 1
  · exact .addPend (.spend (.refl p u) 110) _

theorem fenOf_predEmit (p : Nat) (u : State) : fenOf (predEmit p h lat bits u) p = { fenOf u p with
    pend := pendInsert ⟨u.ck + lat, 4 * u.ck + 1, .vector, predWr h (bits (fenOf u p)) (fenOf u p)⟩ (fenOf u p).pend
    energyPj := (fenOf u p).energyPj + 110 } := by
  rw [predEmit_eq, apply_ite (fenOf · p), fenOf_fenBump, ite_self, fenOf_addPend_same, fenOf_spend_same]
  rfl

theorem reg_predEmit_toP0 (hd : h.vd.val % 8 = 0) (p : Nat) (u : State) :
    reg (predEmit p h lat bits u) (fenWin p 0x800) = satCount (reg u (fenWin p 0x800)) 1 := by
  rw [predEmit_eq, if_pos hd, reg_fenBump, if_pos rfl, reg_addPend, reg_spend]

theorem predEmit_toTile_regs (hd : h.vd.val % 8 ≠ 0) (p : Nat) (u : State) : (predEmit p h lat bits u).regs = u.regs := by
  rw [predEmit_eq, if_neg hd, addPend_regs, spend_regs]

end

section

variable {p : Fin 72} {h : VHead} {lat : Nat} {c : Instr} {s : State}

theorem predRuns_predEmit (hi : Issues p slotVector s) (bits : Fen → BitVec 256)
    (hc : exec c s = vIssue p.val (predEmit p.val h lat bits) s) {val : Nat → Bool}
    (hv : ∀ e, e < 256 → (bits (fenOf (atIssue p.val slotVector s) p.val)).getLsbD e = val e) :
    PredRuns p h lat val c s :=
  ⟨_, hc.trans (vIssue_issues hi _), predEmit_fenOnly _ _, _, fenOf_predEmit _ _,
    fun hd => ⟨if_pos hd, reg_predEmit_toP0 hd _ _⟩, fun hd => ⟨predEmit_toTile_regs hd _ _, _, if_neg hd, hv⟩⟩

/-- CMP runs and writes what its condition gives. -/
theorem predRuns_cmp (hi : Issues p slotVector s) (cond : Cond) (ty : ETy) :
    let f := fenOf (atIssue p.val slotVector s) p.val
    PredRuns p h 2 (fun e => cmpElt ty cond (elemAt (tileReg f h.va.val) e) (elemAt (tileReg f h.vb.val) e)) (.cmp p h cond ty) s :=
  predRuns_predEmit hi (fun f => bitsFrom fun e => cmpElt ty cond (elemAt (tileReg f h.va.val) e) (elemAt (tileReg f h.vb.val) e)) rfl
    fun _ he => getLsbD_bitsFrom _ he

end

/-- Settles O51: CMP writes bit by bit, the others combine whole predicates. -/
theorem predicateOps : Obligations.PredicateOps := by
  refine ⟨fun _ => rfl, fun p h s hi => ⟨predRuns_cmp hi, fun ty hty => ⟨?lt, ?le, ?eq⟩, fun c _ _ => cmpElt_nan c,
    ?pand, ?por, ?pxor, ?pnot⟩⟩
  case lt => simpa only [cmpElt_lt hty] using predRuns_cmp hi .lt ty
  case le => simpa only [cmpElt_le hty] using predRuns_cmp hi .le ty
  case eq => simpa only [cmpElt_eq hty] using predRuns_cmp hi .eq ty
  case pand => exact predRuns_predEmit hi (fun f => predOf f (h.va.val % 8) &&& predOf f (h.vb.val % 8)) rfl fun _ _ => BitVec.getLsbD_and
  case por => exact predRuns_predEmit hi (fun f => predOf f (h.va.val % 8) ||| predOf f (h.vb.val % 8)) rfl fun _ _ => BitVec.getLsbD_or
  case pxor => exact predRuns_predEmit hi (fun f => predOf f (h.va.val % 8) ^^^ predOf f (h.vb.val % 8)) rfl fun _ _ => BitVec.getLsbD_xor
  case pnot =>
    refine predRuns_predEmit hi (fun f => ~~~predOf f (h.va.val % 8)) rfl fun e he => ?_
    rw [BitVec.getLsbD_not, decide_eq_true he, Bool.true_and]

end Sys2Proof.Machine

/-! # Summaries and what they decide (O57) -/

namespace Sys2Proof.Machine

/-! ## SUMMARY at its issue -/

/-- The value that a SUMMARY posts, with what it counts. -/
def summaryResult (u : State) (p : Nat) (h : VHead) (d : Nat) (op : SumOp) : Elt :=
  let f := fenOf u p
  let act := predOf f h.pred.val
  let el : Nat → Word := elemAt (tileReg f h.va.val)
  summaryValue op (((decisionOf u p d).map decType).getD .i32) ((activeElems act).map el) (List.range 256) el act

/-- A flit on its way: the CK from which it is seen, the decision's number, the value, the tempo and the mire mark (R278). -/
abbrev SummaryFlit := Nat × Nat × Word × BitVec 8 × Bool

/-- A fen whose SUMMARY has left the flit `x`, seen from the CK that it names. -/
def fenWithFlit (f : Fen) (seq : Nat) (x : SummaryFlit) : Fen :=
  { f with
    energyPj := f.energyPj + 110
    pend := pendInsert ⟨x.1, seq, .vector, .done⟩ f.pend
    flits := f.flits ++ [x] }

section

variable (p : Nat) (h : VHead) (d : Nat) (op : SumOp) (u : State)

theorem summaryOp_fenOnly : FenOnly p u (summaryOp p h d op u) := by
  unfold summaryOp
  refine .modFen (.addPend (.spend (.fenBump (.fenBump (.countEv (.refl p u) _) ?_ _) ?_ 1) 110) _) _ <;> decide

theorem fenOf_summaryOp : fenOf (summaryOp p h d op u) p = fenWithFlit (fenOf u p) (4 * u.ck + 1)
    (u.ck + 8, d, (summaryResult u p h d op).val, u.tempo.count.setWidth 8,
      (activeElems (predOf (fenOf u p) h.pred.val)).any fun e => vecMire (fenOf u p) h.va.val (e / 32)) := by
  simp [summaryOp, fenWithFlit, summaryResult, issueSeq, slotVector]

theorem summaryOp_v : (fenOf (summaryOp p h d op u) p).v = (fenOf u p).v := by
  rw [fenOf_summaryOp]
  rfl

theorem summaryOp_flits : (fenOf (summaryOp p h d op u) p).flits = (fenOf u p).flits ++
    [(u.ck + 8, d, (summaryResult u p h d op).val, u.tempo.count.setWidth 8,
      (activeElems (predOf (fenOf u p) h.pred.val)).any fun e => vecMire (fenOf u p) h.va.val (e / 32))] := by
  rw [fenOf_summaryOp]
  rfl

theorem summaryOp_onItsWay : OnItsWay p (u.ck + 8) (4 * u.ck + 1) .vector .done (summaryOp p h d op u) := by
  rw [OnItsWay, fenOf_summaryOp]
  exact (pendInsert_mem ..).2 (.inl rfl)

theorem reg_summaryOp : reg (summaryOp p h d op u) (fenWin p 0x80C) = satCount (reg u (fenWin p 0x80C)) 1 := by
  simp [summaryOp, countEv, reg_fenBump]

theorem summaryResult_or : (summaryResult u p h d .or).val =
    (activeElems (predOf (fenOf u p) h.pred.val)).foldl (fun x e => x ||| elemAt (tileReg (fenOf u p) h.va.val) e) 0#32 :=
  List.foldl_map

theorem summaryResult_min : summaryResult u p h d .min =
    let ty := ((decisionOf u p d).map decType).getD .i32
    reduceElems .min ty true ((List.range 256).map fun e =>
      if (predOf (fenOf u p) h.pred.val).getLsbD e then elemAt (tileReg (fenOf u p) h.va.val) e else redIdent .min ty) := rfl

theorem summaryResult_max : summaryResult u p h d .max =
    let ty := ((decisionOf u p d).map decType).getD .i32
    reduceElems .max ty true ((List.range 256).map fun e =>
      if (predOf (fenOf u p) h.pred.val).getLsbD e then elemAt (tileReg (fenOf u p) h.va.val) e else redIdent .max ty) := rfl

variable {p h d u}

theorem summaryResult_sum_i32 (ht : ((decisionOf u p d).map decType).getD .i32 = .i32) : summaryResult u p h d .sum =
    satInt .w32 ((activeElems (predOf (fenOf u p) h.pred.val)).map fun e => (elemAt (tileReg (fenOf u p) h.va.val) e).toInt).sum := by
  rw [summaryResult, ht]
  exact congrArg (fun l => satInt .w32 l.sum) List.map_map

theorem summaryResult_sum_l32 (ht : ((decisionOf u p d).map decType).getD .i32 = .l32) : summaryResult u p h d .sum =
    compAll ((activeElems (predOf (fenOf u p) h.pred.val)).map (elemAt (tileReg (fenOf u p) h.va.val))) := by
  rw [summaryResult, ht]
  rfl

end

/-! ## A summary that arrives -/

/-- Whether every source of a decision is among the fens whose summaries have been taken. -/
def sourcesIn (dd : BitVec 256) (got : List (Nat × Word × Bool)) : Bool :=
  (List.range 64).all fun k => !(decSources dd).getLsbD k || got.any fun g => decide (g.1 = k)

theorem sourcesIn_iff (dd : BitVec 256) (got : List (Nat × Word × Bool)) :
    sourcesIn dd got = true ↔ ∀ k, k < 64 → (decSources dd).getLsbD k = true → ∃ g ∈ got, g.1 = k := by
  simp only [sourcesIn, List.all_eq_true, List.mem_range, Bool.or_eq_true, Bool.not_eq_true', List.any_eq_true,
    decide_eq_true_eq]
  refine forall_congr' fun k => imp_congr_right fun _ => ?_
  cases (decSources dd).getLsbD k <;> simp only [true_or, false_or, false_implies, true_implies, reduceCtorEq]

/-- A mired summary forces variant 0 (R280). -/
theorem chooseVariant_mired {dd : BitVec 256} {got : List (Nat × Word × Bool)} {g : Nat × Word × Bool} (hg : g ∈ got)
    (hm : g.2.2 = true) : (chooseVariant dd got).1 = 0 := by
  have hany : got.any (·.2.2) = true := List.any_eq_true.2 ⟨g, hg, hm⟩
  simp [chooseVariant, hany]

theorem bump_one_of (off : Nat) (b : Bool) (s : State) : bump off (if b then 1 else 0) s = if b then bump off 1 s else s := by
  cases b <;> rfl

/-- The state in which a decision whose summaries are all there is taken: a forced variant is counted (R280, R281). -/
def decided (key : Nat) (dd : BitVec 256) (got : List (Nat × Word × Bool)) (u : State) : State :=
  let c := chooseVariant dd got
  let targets := (List.range 64).filter fun k => (decTargets dd).getLsbD k
  bump 0x144 (if c.2 then 1 else 0) { u with
    decisions := mapPut {} u.decisions key { got := got, chosen := some c.1 }
    selPending := u.selPending ++ targets.map fun k => (key, k) }

/-- The state in which a summary is kept for a decision that waits for more. -/
def gathered (key : Nat) (got : List (Nat × Word × Bool)) (u : State) : State :=
  { u with decisions := mapPut {} u.decisions key { mapGet {} u.decisions key with got := got } }

/-- What the control core does not take of a fen `n`: a summary of another tempo, a second one, or one of a fen that is no source
of the decision (R282). -/
def Unwanted (u : State) (dd : BitVec 256) (key n : Nat) (tempo : BitVec 8) : Prop :=
  tempo ≠ u.tempo.count.setWidth 8 ∨ (∃ g ∈ (mapGet {} u.decisions key).got, g.1 = n) ∨ (decSources dd).getLsbD n = false

section

variable (key : Nat) (dd : BitVec 256) (got : List (Nat × Word × Bool)) (u : State)

theorem decided_decision : mapGet {} (decided key dd got u).decisions key =
    { got := got, chosen := some (chooseVariant dd got).1 } := by
  rw [decided, bump_decisions, mapGet_mapPut_same]

theorem decided_selPending : (decided key dd got u).selPending =
    u.selPending ++ ((List.range 64).filter fun k => (decTargets dd).getLsbD k).map fun k => (key, k) := bump_selPending

theorem decided_ck : (decided key dd got u).ck = u.ck := bump_ck

theorem decided_fens : (decided key dd got u).fens = u.fens := bump_fens

theorem gathered_decision : mapGet {} (gathered key got u).decisions key = { mapGet {} u.decisions key with got := got } :=
  mapGet_mapPut_same ..

/-- Every target of a decision that is taken has a selection on its way. -/
theorem mem_decided_selPending {k : Nat} (hk : k < 64) (ht : (decTargets dd).getLsbD k = true) :
    (key, k) ∈ (decided key dd got u).selPending := by
  rw [decided_selPending]
  exact List.mem_append_right _ (List.mem_map_of_mem (List.mem_filter.2 ⟨List.mem_range.2 hk, ht⟩))

end

section

variable {plan n d : Nat} {v : Word} {tempo : BitVec 8} {mire : Bool} {dec : Option (BitVec 256)} {dd : BitVec 256} {u : State}

theorem summaryArrive_unwanted (h : Unwanted u dd (decKey plan d) n tempo) :
    summaryArrive plan n d v tempo mire (some dd) u = bump 0x140 1 u :=
  if_pos (by simpa [Unwanted] using h)

theorem summaryArrive_wanted (h : ¬ Unwanted u dd (decKey plan d) n tempo) :
    let key := decKey plan d
    let got := gotInsert (n, v, mire) (mapGet {} u.decisions key).got
    summaryArrive plan n d v tempo mire (some dd) u = if sourcesIn dd got then decided key dd got u else gathered key got u := by
  simp only [decided, bump_one_of]
  exact if_neg (by simpa [Unwanted] using h)

theorem not_unwanted {key : Nat} (ht : tempo = u.tempo.count.setWidth 8) (hg : ∀ g ∈ (mapGet {} u.decisions key).got, g.1 ≠ n)
    (hs : (decSources dd).getLsbD n = true) : ¬ Unwanted u dd key n tempo := by
  rintro (ht' | ⟨g, hm, hgn⟩ | hs')
  · exact ht' ht
  · exact hg g hm hgn
  · exact absurd hs (by simp [hs'])

/-- A summary is counted, decides or waits. -/
theorem summaryArrive_cases (P : State → Prop) (hb : P (bump 0x140 1 u)) (hd : ∀ got dd, P (decided (decKey plan d) dd got u))
    (hg : ∀ got, P (gathered (decKey plan d) got u)) : P (summaryArrive plan n d v tempo mire dec u) := by
  cases dec with
  | none => exact hb
  | some dd =>
    by_cases h : Unwanted u dd (decKey plan d) n tempo
    · exact (summaryArrive_unwanted h).symm ▸ hb
    · rw [summaryArrive_wanted h]
      split
      · exact hd _ _
      · exact hg _

/-- What a summary that is taken leaves: it stands among its decision's in ascending order of fens; the last one decides for every
target (R280, R281). -/
theorem summaryArrive_takes (h : ¬ Unwanted u dd (decKey plan d) n tempo) :
    let t := summaryArrive plan n d v tempo mire (some dd) u
    let key := decKey plan d
    let now := gotInsert (n, v, mire) (mapGet {} u.decisions key).got
    (mapGet {} t.decisions key).got = now ∧
    ((∀ k, k < 64 → (decSources dd).getLsbD k = true → ∃ g ∈ now, g.1 = k) →
      (mapGet {} t.decisions key).chosen = some (chooseVariant dd now).1 ∧
      (∀ g ∈ now, g.2.2 = true → (mapGet {} t.decisions key).chosen = some 0) ∧
      ∀ k, k < 64 → (decTargets dd).getLsbD k = true → (key, k) ∈ t.selPending) ∧
    ((∃ k, k < 64 ∧ (decSources dd).getLsbD k = true ∧ ∀ g ∈ now, g.1 ≠ k) → t.selPending = u.selPending) := by
  dsimp only
  rw [summaryArrive_wanted h]
  have hall := sourcesIn_iff dd (gotInsert (n, v, mire) (mapGet {} u.decisions (decKey plan d)).got)
  split
  next hs =>
    rw [decided_decision]
    refine ⟨rfl, fun _ => ⟨rfl, fun g hg hm => congrArg some (chooseVariant_mired hg hm),
      fun k => mem_decided_selPending _ _ _ _⟩, ?_⟩
    rintro ⟨k, hk, hsrc, hno⟩
    obtain ⟨g, hg, hgk⟩ := hall.1 hs k hk hsrc
    exact absurd hgk (hno g hg)
  next hs =>
    rw [gathered_decision]
    exact ⟨rfl, fun hsrc => absurd (hall.2 hsrc) hs, fun _ => rfl⟩

theorem summaryArrive_ck : (summaryArrive plan n d v tempo mire dec u).ck = u.ck :=
  summaryArrive_cases (fun t => t.ck = u.ck) bump_ck (fun _ _ => decided_ck ..) fun _ => rfl

theorem summaryArrive_fens : (summaryArrive plan n d v tempo mire dec u).fens = u.fens :=
  summaryArrive_cases (fun t => t.fens = u.fens) bump_fens (fun _ _ => decided_fens ..) fun _ => rfl

end

/-! ## A flit that arrives -/

section

variable {p n : Nat} {x : SummaryFlit} {l : List SummaryFlit} {s : State}

/-- The state in which a fen's oldest flit has reached the light path: its summary is taken in this state. -/
def flitOut (p : Nat) (x : SummaryFlit) (l : List SummaryFlit) (s : State) : State :=
  advanceCk x.1 (putFen p { fenOf s p with flits := l } s)

theorem fenOf_flitOut : fenOf (flitOut p x l s) p = { fenOf s p with flits := l } := by
  rw [flitOut, fenOf_advanceCk, fenOf_putFen_same]

theorem flitOut_decisions : (flitOut p x l s).decisions = s.decisions := by
  rw [flitOut, advanceCk_decisions, putFen_decisions]

theorem flitOut_selPending : (flitOut p x l s).selPending = s.selPending := by
  rw [flitOut, advanceCk_selPending, putFen_selPending]

theorem reg_flitOut (o : Nat) : reg (flitOut p x l s) o = reg s o := by
  rw [flitOut, reg_advanceCk, reg_putFen]

theorem decisionOf_flitOut (d : Nat) : decisionOf (flitOut p x l s) p d = decisionOf s p d := by
  have hplan : planOf (flitOut p x l s) = planOf s := by
    funext k
    rw [flitOut, planOf_advanceCk, planOf_putFen]
  rw [decisionOf, planOfFen, fenOf_flitOut, hplan]
  rfl

theorem unwanted_flitOut (dd : BitVec 256) (key : Nat) (tempo : BitVec 8) :
    Unwanted (flitOut p x l s) dd key n tempo ↔ Unwanted s dd key n tempo := by
  simp [Unwanted, flitOut]

theorem summaryFlit_none (h : (fenOf s p).flits = []) : summaryFlit p s = s := by
  simp [summaryFlit, h]

theorem summaryFlit_arrives (hf : (fenOf s p).flits = x :: l) (hn : logicalOf s p = some n) (hck : ckRuns s = true) :
    summaryFlit p s = summaryArrive ((fenOf s p).img.plan.getD 0) n x.2.1 x.2.2.1 x.2.2.2.1 x.2.2.2.2 (decisionOf s p x.2.1)
      (flitOut p x l s) := by
  rw [← decisionOf_flitOut (x := x) (l := l)]
  simp only [summaryFlit, hf, hn, hck, if_true]
  rfl

end

/-! ## A selection (R281) -/

section

variable {n d p v : Nat} {dd : BitVec 256} {s : State}

theorem selectWrite_none (h : pfenOf s n = none) : selectWrite n d s = s := by
  simp [selectWrite, h]

/-- The state in which a fen's slot takes a decision's variant. -/
def selected (p slot v : Nat) (sel : Nat × Nat) (s : State) : State :=
  modFen p (fun f => { f with selects := mapPut {} f.selects slot ⟨some (BitVec.ofNat 2 v), s.ck⟩ })
    { s with selPending := s.selPending.erase sel }

theorem selectWrite_chosen (hp : pfenOf s n = some p)
    (hc : (mapGet {} s.decisions (decKey ((fenOf s p).img.plan.getD 0) d)).chosen = some v) (hd : decisionOf s p d = some dd) :
    let sel := (decKey ((fenOf s p).img.plan.getD 0) d, n)
    selectWrite n d s = if s.selPending.contains sel then selected p (decSlot dd) v sel s else s := by
  simp only [selectWrite, hp, hc, hd]
  rfl

end

/-- Settles O57: SUMMARY's flit, what becomes of one that arrives, and the selections of a decision that is taken. -/
theorem decisions : Obligations.Decisions := by
  refine ⟨fun p h d op s hi => ?summary, fun p s => ⟨fun hf => ?noFlit, fun x l n hf hn hck => ?arrives⟩,
    fun n d s => ⟨fun hp => ?noFen, fun p v dd hp hc hd => ?select⟩⟩
  case summary =>
    refine ⟨_, (summaryResult (atIssue p.val slotVector s) p.val h d.val op).val, vIssue_issues hi _, summaryOp_fenOnly ..,
      summaryOp_v .., summaryOp_flits .., summaryOp_onItsWay .., reg_summaryOp .., ?or, ?min, ?max, ?sumI, ?sumL⟩
    case or =>
      rintro rfl
      exact summaryResult_or ..
    case min =>
      rintro rfl
      exact congrArg Elt.val (summaryResult_min ..)
    case max =>
      rintro rfl
      exact congrArg Elt.val (summaryResult_max ..)
    case sumI =>
      rintro rfl ht
      exact congrArg Elt.val (summaryResult_sum_i32 ht)
    case sumL =>
      rintro rfl ht
      exact congrArg Elt.val (summaryResult_sum_l32 ht)
  case noFlit => exact congrArg Host.Outcome.next (summaryFlit_none hf)
  case arrives =>
    refine ⟨_, congrArg Host.Outcome.next (summaryFlit_arrives hf hn hck), ?ck, ?flits, fun dd hd =>
      ⟨fun hu => ?unwanted, fun ht hg hs => ?wanted⟩⟩
    case ck => rw [summaryArrive_ck, flitOut, advanceCk_ck, putFen_ck]
    case flits => rw [fenOf, summaryArrive_fens, ← fenOf, fenOf_flitOut]
    case unwanted =>
      rw [hd, summaryArrive_unwanted ((unwanted_flitOut ..).2 hu), reg_bump_same, bump_decisions, bump_selPending,
        reg_flitOut, flitOut_decisions, flitOut_selPending]
      exact ⟨rfl, rfl, rfl⟩
    case wanted =>
      have htakes := summaryArrive_takes (v := x.2.2.1) (mire := x.2.2.2.2)
        (mt (unwanted_flitOut (p := p.val) (x := x) (l := l) ..).1 (not_unwanted ht hg hs))
      rw [hd]
      simpa only [flitOut_decisions, flitOut_selPending] using htakes
  case noFen => exact congrArg Host.Outcome.next (selectWrite_none hp)
  case select =>
    have hw := selectWrite_chosen (n := n.val) hp hc hd
    refine ⟨fun hsel => congrArg Host.Outcome.next (hw.trans (if_neg (by rw [hsel]; decide))),
      fun hsel => ⟨_, congrArg Host.Outcome.next (hw.trans (if_pos hsel)), ?slot, rfl, rfl, fun k hk => ?others⟩⟩
    case slot =>
      rw [selected, fenOf_modFen_same]
      exact mapGet_mapPut_same ..
    case others => exact fenOf_modFen_ne _ _ _ _ hk

end Sys2Proof.Machine
